-- ==== Sys2Proof/Word.lean ====
section
/-! DEFINITION. The widths of the machine's words: bytes, 64-bit words and the 48-bit instruction word (R3, R191). -/

namespace Sys2Proof

/-- One byte of storage. -/
abbrev Byte := BitVec 8

/-- A 64-bit register, record word or counter. -/
abbrev W64 := BitVec 64

/-- One instruction word (R191). -/
abbrev Insn := BitVec 48

end Sys2Proof
end

