-- ==== Sys2Proof/Machine/Numbers.lean ====
section
/-! DEFINITION. Floating-point formats, exact values, rounding and conversions (R206 to R228). Every function here is
pure: it takes bits and modes and answers bits and flags. -/

namespace Sys2Proof.Machine

/-! ## Flags -/

/-- The sticky flags, in the places FPSTAT gives them (R218). -/
abbrev Flags := BitVec 7

def flagNV : Flags := 1
def flagDZ : Flags := 2
def flagOF : Flags := 4
def flagUF : Flags := 8
def flagNX : Flags := 16
def flagSAT : Flags := 32
def flagIDZ : Flags := 64
def noFlags : Flags := 0

/-! ## Formats -/

/-- The floating-point formats with a sign bit (R206). -/
inductive Fmt where
  | fp64 | fp32 | bf16 | fp16 | e4m3 | e5m2 | e3m2 | e2m3 | e2m1
  deriving DecidableEq, Repr

/-- Width in bits. -/
def Fmt.width : Fmt → Nat
  | .fp64 => 64 | .fp32 => 32 | .bf16 => 16 | .fp16 => 16 | .e4m3 => 8 | .e5m2 => 8 | .e3m2 => 6 | .e2m3 => 6
  | .e2m1 => 4

/-- Fraction bits. -/
def Fmt.mbits : Fmt → Nat
  | .fp64 => 52 | .fp32 => 23 | .bf16 => 7 | .fp16 => 10 | .e4m3 => 3 | .e5m2 => 2 | .e3m2 => 2 | .e2m3 => 3
  | .e2m1 => 1

/-- Exponent bias. -/
def Fmt.bias : Fmt → Nat
  | .fp64 => 1023 | .fp32 => 127 | .bf16 => 127 | .fp16 => 15 | .e4m3 => 7 | .e5m2 => 15 | .e3m2 => 3 | .e2m3 => 1
  | .e2m1 => 1

/-- Exponent bits. -/
def Fmt.ebits (f : Fmt) : Nat := f.width - 1 - f.mbits
/-- An all-ones exponent means Inf or NaN (R207). -/
def Fmt.hasInf : Fmt → Bool
  | .fp64 | .fp32 | .bf16 | .fp16 | .e5m2 => true
  | _ => false
/-- The formats without NaN. -/
def Fmt.noNan : Fmt → Bool
  | .e3m2 | .e2m3 | .e2m1 => true
  | _ => false
/-- A NaN may be signalling (R207). -/
def Fmt.hasSignalling : Fmt → Bool
  | .fp64 | .fp32 | .bf16 | .fp16 => true
  | _ => false
/-- The formats FPCTL.FTZ applies to (R220). -/
def Fmt.flushable : Fmt → Bool := Fmt.hasSignalling
/-- Significand width with the hidden bit, p(f). -/
def Fmt.prec (f : Fmt) : Nat := f.mbits + 1
/-- Exponent of the smallest normal, emin(f). -/
def Fmt.emin (f : Fmt) : Int := 1 - (f.bias : Int)
/-- Exponent of the largest finite value. -/
def Fmt.emax (f : Fmt) : Int :=
  let top := 2 ^ f.ebits - 1
  (if f.hasInf then (top : Int) - 1 else top) - f.bias
/-- Significand of the largest finite value, an integer of p(f) bits. -/
def Fmt.maxSig (f : Fmt) : Nat := if f = .e4m3 then 14 else 2 ^ f.prec - 1
/-- The canonical NaN (R206); the formats without NaN answer +0, as R219 gives for a NaN operand. -/
def fpNan : Fmt → Nat
  | .fp64 => 0x7FF8000000000000 | .fp32 => 0x7FC00000 | .bf16 => 0x7FC0 | .fp16 => 0x7E00 | .e4m3 => 0x7F
  | .e5m2 => 0x7E | .e3m2 | .e2m3 | .e2m1 => 0
/-- The encoding of a magnitude below the sign bit with a sign. -/
def fpSigned (f : Fmt) (neg : Bool) (mag : Nat) : Nat := if neg then 2 ^ (f.width - 1) + mag else mag
/-- The magnitude bits of the largest finite value. -/
def fpMaxMag (f : Fmt) : Nat :=
  if f = .e4m3 then 0x7E else if f.hasInf then (2 ^ f.ebits - 1) * 2 ^ f.mbits - 1 else 2 ^ (f.width - 1) - 1
/-- The magnitude bits of Inf. -/
def fpInfMag (f : Fmt) : Nat := (2 ^ f.ebits - 1) * 2 ^ f.mbits

/-! ## Values -/

/-- The value of a bit pattern (R207): a NaN, an infinity, or (−1)^neg × m × 2^e. -/
inductive Num where
  | nan (signalling : Bool)
  | inf (neg : Bool)
  | fin (neg : Bool) (m : Nat) (e : Int)
  deriving DecidableEq, Repr

/-- The exact value of a pattern in format f (R207). -/
def fpDecode (f : Fmt) (x : Nat) : Num :=
  let neg := x.testBit (f.width - 1)
  let e := x / 2 ^ f.mbits % 2 ^ f.ebits
  let m := x % 2 ^ f.mbits
  if e = 0 then .fin neg m (1 - (f.bias : Int) - f.mbits)
  else if f.hasInf && e == 2 ^ f.ebits - 1 then
    if m = 0 then .inf neg else .nan (f.hasSignalling && !m.testBit (f.mbits - 1))
  else if f = .e4m3 ∧ e = 15 ∧ m = 7 then .nan false
  else .fin neg (2 ^ f.mbits + m) ((e : Int) - f.bias - f.mbits)

/-- Subnormals of a flushable format read as zero under FTZ (R220). -/
def fpValue (f : Fmt) (ftz : Bool) (x : Nat) : Num :=
  match fpDecode f x with
  | .fin neg m e => if ftz && f.flushable && m < 2 ^ f.mbits then .fin neg 0 e else .fin neg m e
  | v => v

/-- m × 2^k rounded down. -/
def scaleNat (m : Nat) : Int → Nat
  | .ofNat n => m <<< n
  | .negSucc n => m >>> (n + 1)

/-- A nonzero real, by its sign, floor(log2 of its magnitude), and for each k the floor of its magnitude × 2^k and
whether that is exact. -/
structure XReal where
  neg : Bool
  lg : Int
  flr : Int → Nat
  exact : Int → Bool

/-- An exact result before rounding. -/
inductive Exact where
  | nan
  | inf (neg : Bool)
  | zero (neg : Bool)
  | real (x : XReal)

/-- m × 2^k is an integer. -/
def dyadicExact (m : Nat) : Int → Bool
  | .ofNat _ => true
  | .negSucc n => m == 0 || (decide (n + 1 ≤ m.log2) && m % 2 ^ (n + 1) == 0)

/-- The dyadic number (−1)^neg × m × 2^e. -/
def Exact.ofDyadic (neg : Bool) (m : Nat) (e : Int) : Exact :=
  if m = 0 then .zero neg
  else .real { neg, lg := m.log2 + e, flr := fun k => scaleNat m (e + k), exact := fun k => dyadicExact m (e + k) }

/-- An integer as a value; zero is +0. -/
def Num.ofInt (z : Int) : Num := .fin (z < 0) z.natAbs 0

/-- The exact value of a decoded number. -/
def Num.exact : Num → Exact
  | .nan _ => .nan
  | .inf neg => .inf neg
  | .fin neg m e => .ofDyadic neg m e

/-- The largest r with r² ≤ n, found bit by bit below 2^(fuel). -/
def isqrtAux (n : Nat) : Nat → Nat → Nat
  | 0, r => r
  | b + 1, r => isqrtAux n b (if (r + 2 ^ b) * (r + 2 ^ b) ≤ n then r + 2 ^ b else r)

/-- The integer square root, rounded down. -/
def isqrt (n : Nat) : Nat := isqrtAux n (n.log2 / 2 + 1) 0

/-- The quotient a / b × 2^e of nonzero naturals. -/
def Exact.ofQuotient (neg : Bool) (a b : Nat) (e : Int) : Exact :=
  let scaled (k : Int) : Nat × Nat :=
    match e + k with
    | .ofNat n => (a <<< n, b)
    | .negSucc n => (a, b <<< (n + 1))
  let l : Int := (a.log2 : Int) - b.log2
  -- a / b lies in (2^(l−1), 2^(l+1)); it reaches 2^l when a ≥ b × 2^l
  let reaches := match l with
    | .ofNat n => decide (b <<< n ≤ a)
    | .negSucc n => decide (b ≤ a <<< (n + 1))
  let l := if reaches then l else l - 1
  .real { neg, lg := l + e, flr := fun k => (scaled k).1 / (scaled k).2,
          exact := fun k => (scaled k).1 % (scaled k).2 == 0 }

/-- The square root of m × 2^e, m nonzero. -/
def Exact.ofSqrt (m : Nat) (e : Int) : Exact :=
  -- √(m × 2^e) × 2^k = √(m × 2^(e + 2k))
  .real { neg := false, lg := (m.log2 + e) / 2, flr := fun k => isqrt (scaleNat m (e + 2 * k)),
          exact := fun k =>
            let n := scaleNat m (e + 2 * k)
            dyadicExact m (e + 2 * k) && isqrt n * isqrt n == n }

/-- 1 ÷ √(m × 2^e), m nonzero. -/
def Exact.ofRsqrt (m : Nat) (e : Int) : Exact :=
  -- (2^k ÷ √(m × 2^e))² = 2^(2k − e) ÷ m
  let pow (k : Int) : Nat := scaleNat 1 (2 * k - e)
  let l : Int := -(m.log2 + e)
  -- the value lies in (2^((l−1)/2), 2^(l/2)]
  let lg := if l % 2 = 0 then (if m = 2 ^ m.log2 then l / 2 else l / 2 - 1) else (l - 1) / 2
  .real { neg := false, lg, flr := fun k => isqrt (pow k / m),
          exact := fun k =>
            let q := pow k / m
            decide (0 ≤ 2 * k - e) && pow k % m == 0 && isqrt q * isqrt q == q }

/-! ## Powers and logarithms, correctly rounded

Each is bounded from both sides with P fraction bits; where the bounds disagree, exact integers decide. -/

/-- Bounds of 2^(1/2), 2^(1/4), … multiplied for each 1 of a fraction's bits, most significant first. -/
def pow2Bounds (P : Nat) : Nat → Nat → (Nat × Nat) → (Nat × Nat) → Nat × Nat
  | 0, _, _, acc => acc
  | j + 1, f, (rl, rh), (lo, hi) =>
    let rl := isqrt (rl <<< P)
    let rh := isqrt (rh <<< P) + 1
    pow2Bounds P j f (rl, rh)
      (if f.testBit j then ((lo * rl) >>> P, ((hi * rh) >>> P) + 1) else (lo, hi))

/-- The largest n below 2^(fuel) with n^(2^j) ≤ 2^t. -/
def powSearch (j t : Nat) : Nat → Nat → Nat
  | 0, n => n
  | b + 1, n => powSearch j t b (if (n + 2 ^ b) ^ (2 ^ j) ≤ 2 ^ t then n + 2 ^ b else n)

/-- floor(2^(f / 2^j) × 2^K) for 0 < f < 2^j; where f / 2^j is within 2^−(K + 2) of 0 or 1, the number is within 1/2 of 2^K or of
2^(K + 1). -/
def pow2Floor (f j K : Nat) : Nat :=
  if f * 2 ^ (K + 2) < 2 ^ j then 2 ^ K
  else if (2 ^ j - f) * 2 ^ (K + 2) < 2 ^ j then 2 ^ (K + 1) - 1
  else
    let P := K + 2 * j.log2 + 80
    let (lo, hi) := pow2Bounds P j f (2 <<< P, 2 <<< P) (1 <<< P, 1 <<< P)
    if lo >>> (P - K) = hi >>> (P - K) then lo >>> (P - K) else powSearch j (f + K * 2 ^ j) (K + 1) 0

/-- 2^t for t = (−1)^neg × m × 2^e. -/
def Exact.ofPow2 (neg : Bool) (m : Nat) (e : Int) : Exact :=
  match e with
  | .ofNat n => let t : Int := (m <<< n : Nat); .real (pure1 (if neg then -t else t))
  | .negSucc n =>
    let j := n + 1
    let t : Int := if neg then -(m : Int) else m
    let i := t / (2 ^ j : Nat)
    let f := (t % (2 ^ j : Nat)).toNat
    if f = 0 then .real (pure1 i)
    else
      -- the fraction with its trailing zeros dropped
      .real { neg := false, lg := i,
              flr := fun k => match i + k with
                | .ofNat K => pow2Floor f j K
                | .negSucc _ => 0
              exact := fun _ => false }
where
  /-- 2^t for an integer t. -/
  pure1 (t : Int) : XReal :=
    { neg := false, lg := t, flr := fun k => scaleNat 1 (t + k), exact := fun k => decide (0 ≤ t + k) }

/-- Fraction bits of log2 of a number in [1, 2) held between lo and hi with P fraction bits, by squaring; `none`
where the bounds straddle 2. -/
def log2Bits (P : Nat) : Nat → Nat × Nat → Nat → Option Nat
  | 0, _, acc => some acc
  | k + 1, (lo, hi), acc =>
    let lo := (lo * lo) >>> P
    let hi := ((hi * hi) >>> P) + 1
    if 2 <<< P ≤ lo then log2Bits P k (lo / 2, hi / 2 + 1) (2 * acc + 1)
    else if hi < 2 <<< P then log2Bits P k (lo, hi) (2 * acc)
    else none

/-- The same by exact powers: log2(m / 2^s) × 2^K rounded down, for m of s + 1 bits. -/
def log2Exact (m s K : Nat) : Nat := (m ^ (2 ^ K)).log2 - s * 2 ^ K

/-- floor(log2(m / 2^s) × 2^K) for m of s + 1 bits. -/
def log2Frac (m s K : Nat) : Nat :=
  let P := 2 * K + s + 64
  match log2Bits P K (m <<< (P - s), m <<< (P - s)) 0 with
  | some v => v
  | none => log2Exact m s K

/-- log2(m × 2^e), m nonzero. -/
def Exact.ofLog2 (m : Nat) (e : Int) : Exact :=
  let s := m.log2
  let i : Int := s + e
  if m = 2 ^ s then .ofDyadic (i < 0) i.natAbs 0
  else
    let neg := i < 0
    -- floor(|log2| × 2^K)
    let mag (K : Nat) : Nat :=
      let v : Int := i * (2 ^ K : Nat) + log2Frac m s K
      if neg then (-v - 1).toNat else v.toNat
    let guard := m.log2 + 40
    .real { neg, lg := ((mag guard).log2 : Int) - guard,
            flr := fun k => match k with
              | .ofNat K => mag K
              | .negSucc K => mag 0 >>> (K + 1)
            exact := fun _ => false }

/-! ## Rounding -/

/-- The rounding modes of R213 but DYN. -/
inductive Rm where
  | rne | rtz | rdn | rup | sr
  deriving DecidableEq, Repr

/-- A mode by its code. -/
def Rm.ofCode (c : Nat) : Rm :=
  match c with
  | 1 => .rtz
  | 2 => .rdn
  | 3 => .rup
  | 4 => .sr
  | _ => .rne

/-- The rounding step (R214) to a multiple of 2^s: the integer q + up and whether it is inexact. -/
def roundStep (x : XReal) (s : Int) (rm : Rm) (d : BitVec 32) : Nat × Bool :=
  let y := x.flr (33 - s)
  let q := y >>> 33
  let fr := y % 2 ^ 33
  let sticky := !x.exact (33 - s)
  if fr = 0 ∧ !sticky then (q, false)
  else
    let up := match rm with
      | .rne => decide (2 ^ 32 < fr) || (fr == 2 ^ 32 && (sticky || q % 2 == 1))
      | .rtz => false
      | .rup => !x.neg
      | .rdn => x.neg
      | .sr => decide (d.toNat < fr / 2)
    (if up then q + 1 else q, true)

/-- The overflow result (R219). -/
def overflowResult (f : Fmt) (neg : Bool) (rm : Rm) (sat : Bool) : Nat :=
  let toInf := match rm with
    | .rne | .sr => true
    | .rtz => false
    | .rup => !neg
    | .rdn => neg
  let maxf := fpSigned f neg (fpMaxMag f)
  match f with
  | .fp64 | .fp32 => if toInf then fpSigned f neg (fpInfMag f) else maxf
  | .bf16 | .fp16 | .e5m2 => if toInf && !sat then fpSigned f neg (fpInfMag f) else maxf
  | .e4m3 => if toInf && !sat then 0x7F else maxf
  | .e3m2 | .e2m3 | .e2m1 => maxf

/-- fp_round (R214) of a nonzero real; `ftz` is ftz_applies. -/
def fpRoundReal (f : Fmt) (ftz : Bool) (rm : Rm) (sat : Bool) (d : BitVec 32) (x : XReal) : Nat × Flags :=
  let tiny := decide (x.lg < f.emin)
  if ftz && f.flushable && tiny then (fpSigned f x.neg 0, flagUF ||| flagNX)
  else
    let e := if tiny then f.emin else x.lg
    let (q, inexact) := roundStep x (e - f.mbits) rm d
    let fl := if inexact then (if tiny then flagNX ||| flagUF else flagNX) else noFlags
    -- a carry out of the significand moves to the next exponent
    let (q, e) := if q = 2 ^ f.prec then (2 ^ f.mbits, e + 1) else (q, e)
    if f.emax < e ∨ (e = f.emax ∧ f.maxSig < q) then
      (overflowResult f x.neg rm sat, fl ||| flagOF ||| flagNX)
    else if q < 2 ^ f.mbits then (fpSigned f x.neg q, fl)
    else (fpSigned f x.neg ((e + f.bias).toNat * 2 ^ f.mbits + (q - 2 ^ f.mbits)), fl)

/-- The written result of an exact value: fp_round for reals; infinities and NaNs as the format has them, an infinity
that is no overflow staying infinite (R219). -/
def fpPut (f : Fmt) (ftz : Bool) (rm : Rm) (sat : Bool) (d : BitVec 32) : Exact → Nat × Flags
  | .nan => (fpNan f, noFlags)
  | .inf neg => (fpSigned f neg (fpInfMag f), noFlags)
  | .zero neg => (fpSigned f neg 0, noFlags)
  | .real x => fpRoundReal f ftz rm sat d x

/-- int_round (R222): the rounded integer and NX. -/
def intRound (rm : Rm) (d : BitVec 32) : Exact → Int × Flags
  | .real x =>
    let (q, inexact) := roundStep x 0 rm d
    (if x.neg then -(q : Int) else q, if inexact then flagNX else noFlags)
  | _ => (0, noFlags)

/-- The integer nearest to m × 2^e with its sign, ties to even, and whether it is inexact. -/
def rneInt (neg : Bool) (m : Nat) (e : Int) : Int × Bool :=
  match Exact.ofDyadic neg m e with
  | .real x => let (q, i) := roundStep x 0 .rne 0; (if neg then -(q : Int) else q, i)
  | _ => (0, false)

/-! ## Arithmetic of values

Each answers the exact result and the flags of its special operands (R238). -/

/-- NV for a signalling NaN. -/
def Num.sNan : Num → Bool
  | .nan s => s
  | _ => false
def Num.isNan : Num → Bool
  | .nan _ => true
  | _ => false
def Num.neg : Num → Num
  | .nan s => .nan s
  | .inf n => .inf !n
  | .fin n m e => .fin (!n) m e
def nvIf (b : Bool) : Flags := if b then flagNV else noFlags

/-- The sum of two signed dyadic numbers: an integer at the lesser exponent. -/
def dyadicSum (n1 : Bool) (m1 : Nat) (e1 : Int) (n2 : Bool) (m2 : Nat) (e2 : Int) : Int × Int :=
  let e := if e1 ≤ e2 then e1 else e2
  let a : Int := scaleNat m1 (e1 - e)
  let b : Int := scaleNat m2 (e2 - e)
  ((if n1 then -a else a) + (if n2 then -b else b), e)

/-- Addition; an exact zero takes its sign from R238. -/
def addNum (rm : Rm) (x y : Num) : Exact × Flags :=
  match x, y with
  | .fin n1 m1 e1, .fin n2 m2 e2 =>
    let (z, e) := dyadicSum n1 m1 e1 n2 m2 e2
    if z = 0 then (.zero (if m1 = 0 ∧ m2 = 0 ∧ n1 = n2 then n1 else rm == .rdn), noFlags)
    else (.ofDyadic (z < 0) z.natAbs e, noFlags)
  | .inf a, .inf b => if a = b then (.inf a, noFlags) else (.nan, flagNV)
  | .inf a, .fin .. => (.inf a, noFlags)
  | .fin .., .inf b => (.inf b, noFlags)
  | _, _ => (.nan, nvIf (x.sNan || y.sNan))

/-- The product of two values as a value: exact, since significands only multiply. -/
def mulVal (x y : Num) : Num × Flags :=
  match x, y with
  | .fin n1 m1 e1, .fin n2 m2 e2 => (.fin (n1 != n2) (m1 * m2) (e1 + e2), noFlags)
  | .inf a, .inf b => (.inf (a != b), noFlags)
  | .inf a, .fin b m _ => if m = 0 then (.nan false, flagNV) else (.inf (a != b), noFlags)
  | .fin a m _, .inf b => if m = 0 then (.nan false, flagNV) else (.inf (a != b), noFlags)
  | _, _ => (.nan false, nvIf (x.sNan || y.sNan))

/-- Multiplication. -/
def mulNum (x y : Num) : Exact × Flags :=
  let (v, fl) := mulVal x y
  (v.exact, fl)

/-- x × y + z, rounded once. -/
def fmaNum (rm : Rm) (x y z : Num) : Exact × Flags :=
  let (p, fl) := mulVal x y
  let (s, fl') := addNum rm p z
  (s, fl ||| fl' ||| nvIf z.sNan)

/-- Division. -/
def divNum (x y : Num) : Exact × Flags :=
  match x, y with
  | .fin n1 m1 e1, .fin n2 m2 e2 =>
    if m2 = 0 then (if m1 = 0 then (.nan, flagNV) else (.inf (n1 != n2), flagDZ))
    else if m1 = 0 then (.zero (n1 != n2), noFlags)
    else (.ofQuotient (n1 != n2) m1 m2 (e1 - e2), noFlags)
  | .inf _, .inf _ => (.nan, flagNV)
  | .inf a, .fin b _ _ => (.inf (a != b), noFlags)
  | .fin a _ _, .inf b => (.zero (a != b), noFlags)
  | _, _ => (.nan, nvIf (x.sNan || y.sNan))

/-- Square root. -/
def sqrtNum (x : Num) : Exact × Flags :=
  match x with
  | .fin n m e => if m = 0 then (.zero n, noFlags) else if n then (.nan, flagNV) else (.ofSqrt m e, noFlags)
  | .inf n => if n then (.nan, flagNV) else (.inf false, noFlags)
  | .nan s => (.nan, nvIf s)

/-- x < y of two values; a NaN compares false. -/
def ltNum (x y : Num) : Bool :=
  match x, y with
  | .fin n1 m1 e1, .fin n2 m2 e2 => decide ((dyadicSum n1 m1 e1 (!n2) m2 e2).1 < 0)
  | .inf a, .inf b => a && !b
  | .inf a, .fin .. => a
  | .fin .., .inf b => !b
  | _, _ => false

/-- x = y of two values; −0 equals +0, a NaN equals nothing. -/
def eqNum (x y : Num) : Bool :=
  match x, y with
  | .fin n1 m1 e1, .fin n2 m2 e2 => (dyadicSum n1 m1 e1 (!n2) m2 e2).1 == 0
  | .inf a, .inf b => a == b
  | _, _ => false

/-- The sign of a value, for the order of −0 and +0. -/
def Num.negative : Num → Bool
  | .nan _ => false
  | .inf n => n
  | .fin n _ _ => n

/-- minimumNumber or maximumNumber (R238), −0 below +0. -/
def minMaxNum (wantMax : Bool) (x y : Num) : Exact × Flags :=
  let fl := nvIf (x.sNan || y.sNan)
  match x.isNan, y.isNan with
  | true, true => (.nan, fl)
  | true, false => (y.exact, fl)
  | false, true => (x.exact, fl)
  | false, false =>
    let xLess := ltNum x y || (eqNum x y && x.negative && !y.negative)
    ((if xLess != wantMax then x else y).exact, fl)

/-- FCMP's condition codes (R240), also those of VCMP on floats: the outcome and NV. -/
def cmpNum (cc : Nat) (x y : Num) : Bool × Flags :=
  let nan := x.isNan || y.isNan
  let s := nvIf (x.sNan || y.sNan)
  match cc with
  | 0 => (eqNum x y, s)
  | 1 => (ltNum x y, nvIf nan)
  | 2 => (ltNum x y || eqNum x y, nvIf nan)
  | 3 => (nan, s)
  | _ => (!eqNum x y, s)

/-- FCLASS (R240): the one-hot mask of a pattern as it stands. -/
def classMask (f : Fmt) (x : Nat) : Nat :=
  match fpDecode f x with
  | .nan s => if s then 2 ^ 8 else 2 ^ 9
  | .inf n => if n then 2 ^ 0 else 2 ^ 7
  | .fin n m _ =>
    if m = 0 then (if n then 2 ^ 3 else 2 ^ 4)
    else if m < 2 ^ f.mbits then (if n then 2 ^ 2 else 2 ^ 5)
    else (if n then 2 ^ 1 else 2 ^ 6)

/-! ## Conversions (R222) -/

/-- A value converted to a float format; `sat` is satfinite. -/
def convToFloat (f : Fmt) (ftz : Bool) (rm : Rm) (sat : Bool) (d : BitVec 32) (v : Num) : Nat × Flags :=
  match v with
  | .nan s => (fpNan f, if f.noNan then flagNV else nvIf s)
  | .inf n =>
    if f.noNan then (fpSigned f n (fpMaxMag f), noFlags)
    else if sat && f.width ≤ 16 then (fpSigned f n (fpMaxMag f), noFlags)
    else if f.hasInf then (fpSigned f n (fpInfMag f), noFlags)
    else (0x7F, flagNV)
  | .fin n m e => fpPut f ftz rm sat d (.ofDyadic n m e)

/-- The least and the largest value of an n-bit integer type. -/
def intMin (n : Nat) (sgn : Bool) : Int := if sgn then -(2 ^ (n - 1) : Nat) else 0
def intMax (n : Nat) (sgn : Bool) : Int := if sgn then (2 ^ (n - 1) : Nat) - 1 else (2 ^ n : Nat) - 1

/-- sat_int (R230): an integer clamped to a type's range, with SAT when clamped. -/
def satInt (z : Int) (n : Nat) (sgn : Bool) : Int × Flags :=
  if z < intMin n sgn then (intMin n sgn, flagSAT)
  else if intMax n sgn < z then (intMax n sgn, flagSAT)
  else (z, noFlags)

/-- A float value converted to an integer of n bits. -/
def convToInt (n : Nat) (sgn : Bool) (rm : Rm) (d : BitVec 32) (v : Num) : Int × Flags :=
  match v with
  | .nan _ => (0, flagNV)
  | .inf neg => (if neg then intMin n sgn else intMax n sgn, flagNV)
  | .fin neg m e =>
    let (z, fl) := intRound rm d (.ofDyadic neg m e)
    if z < intMin n sgn then (intMin n sgn, fl ||| flagNV)
    else if intMax n sgn < z then (intMax n sgn, fl ||| flagNV)
    else (z, fl)

/-! ## The stochastic draw (R215) -/

/-- One shift of the LFSR. -/
def lfsrShift (l : BitVec 128) : BitVec 128 :=
  (l <<< 1) ||| (BitVec.ofBool (l.getLsbD 127 ^^ l.getLsbD 125 ^^ l.getLsbD 100 ^^ l.getLsbD 98)).setWidth 128

/-- One draw: the new state and the 32 bits drawn. -/
def srDraw (l : BitVec 128) : BitVec 128 × BitVec 32 :=
  let l := if l = 0 then 1 else l
  let l := Nat.repeat lfsrShift 32 l
  (l, l.setWidth 32)

/-! ## MX blocks (R223, R224) -/

/-- An MX element format: a float, or MX-INT8. -/
inductive MxFmt where
  | flt (f : Fmt)
  | int8
  deriving DecidableEq, Repr

/-- emax(g). -/
def MxFmt.emax : MxFmt → Int
  | .flt .e4m3 => 8
  | .flt .e5m2 => 15
  | .flt .e3m2 => 4
  | .flt .e2m3 => 2
  | .flt .e2m1 => 2
  | _ => 0

/-- floor(log2) of a finite value's magnitude, `none` for zero. -/
def Num.log2 : Num → Option Int
  | .fin _ m e => if m = 0 then none else some (m.log2 + e)
  | _ => none

/-- mx_scale (R224). -/
def mxScale (g : MxFmt) (xs : List Num) : Nat :=
  if xs.any (fun x => match x with | .fin .. => false | _ => true) then 0xFF
  else
    match (xs.filterMap Num.log2).max? with
    | none => 0x7F
    | some l =>
      let s := l - g.emax
      let s := if s < -127 then -127 else if 127 < s then 127 else s
      (s + 127).toNat

/-- One element quantised under the scale X, and its flags (R224). -/
def mxElement (g : MxFmt) (scale : Nat) (x : Num) : Nat × Flags :=
  if scale = 0xFF then (0, flagNV)
  else match x with
    | .fin neg m e =>
      let e := e + 127 - scale
      match g with
      | .flt f => fpPut f false .rne true 0 (.ofDyadic neg m e)
      | .int8 =>
        let (z, i) := rneInt neg m (e + 6)
        if z < -127 then ((BitVec.ofInt 8 (-127)).toNat, flagOF ||| flagNX)
        else if 127 < z then (127, flagOF ||| flagNX)
        else ((BitVec.ofInt 8 z).toNat, if i then flagNX else noFlags)
    | _ => (0, flagNV)

/-- 2^(X − 127) × v, NaN for X = 0xFF (R223). -/
def mxValue (scale : Nat) (v : Num) : Num :=
  if scale = 0xFF then .nan false
  else match v with
    | .fin n m e => .fin n m (e + scale - 127)
    | v => v

/-! ## Exact cells (R227 to R229) -/

/-- An exact cell: S, E and the flags word. -/
structure Cell where
  s : BitVec 192
  e : BitVec 32
  flags : BitVec 32
  deriving DecidableEq, Repr

/-- The cell of 32 bytes read little-endian. -/
def Cell.ofBits (x : BitVec 256) : Cell :=
  { s := x.extractLsb' 0 192, e := x.extractLsb' 192 32, flags := x.extractLsb' 224 32 }
/-- The 32 bytes of a cell. -/
def Cell.toBits (c : Cell) : BitVec 256 := c.flags ++ c.e ++ c.s

/-- AFXADD's update (R228). -/
def Cell.add (c : Cell) (x : Num) : Cell :=
  match x with
  | .nan _ => { c with flags := c.flags ||| 1 }
  | .inf false => { c with flags := c.flags ||| 2 }
  | .inf true => { c with flags := c.flags ||| 4 }
  | .fin neg m e =>
    let k := e - c.e.toInt
    -- a multiple of 2^192 adds nothing to S
    let (q, i) := if 192 ≤ k then ((if m = 0 then 0 else 2 ^ 192 : Int), false) else rneInt neg m k
    { c with
      s := BitVec.ofInt 192 (c.s.toInt + q)
      flags := c.flags ||| (if i then 16 else 0) ||| (if 2 ^ 160 ≤ q.natAbs then 8 else 0) }

/-- cell_value (R229). -/
def Cell.value (c : Cell) : Num :=
  let f := c.flags.getLsbD
  if f 0 || (f 1 && f 2) then .nan false
  else if f 1 then .inf false
  else if f 2 then .inf true
  else .fin (c.s.toInt < 0) c.s.toInt.natAbs c.e.toInt

end Sys2Proof.Machine
end

