-- ==== Sys2Proof/Machine/Crypto.lean ====
section
/-! DEFINITION. The algorithms that the spec names by their standards: AES-256 (FIPS 197), XTS, GCM and GMAC, the key
wrap of SP 800-38F, and CRC-32C (R161, R164, R170, R276). Which standard's text fixes each is in log 6. -/

namespace Sys2Proof.Machine

/-- The AES S-box, entry i at bits 8i. -/
def sboxTable : Nat := 0x16bb54b00f2d99416842e6bf0d89a18cdf2855cee9871e9b948ed9691198f8e19e1dc186b95735610ef6034866b53e708a8bbd4b1f74dde8c6b4a61c2e2578ba08ae7a65eaf4566ca94ed58d6d37c8e779e4959162acd3c25c2406490a3a32e0db0b5ede14b8ee4688902a22dc4f816073195d643d7ea7c41744975fec130ccdd2f3ff1021dab6bcf5389d928f40a351a89f3c507f02f94585334d43fbaaefd0cf584c4a39becb6a5bb1fc20ed00d153842fe329b3d63b52a05a6e1b1a2c830975b227ebe28012079a059618c323c7041531d871f1e5a534ccf73f362693fdb7c072a49cafa2d4adf04759fa7dc982ca76abd7fe2b670130c56f6bf27b777c63
/-- The inverse S-box. -/
def invSboxTable : Nat := 0x7d0c2155631469e126d677ba7e042b17619953833cbbebc8b0f52aae4d3be0a0ef9cc9939f7ae52d0d4ab519a97f51605fec8027591012b131c7078833a8dd1ff45acd78fec0db9a2079d2c64b3e56fc1bbe18aa0e62b76f89c5291d711af1476edf751ce837f9e28535ade72274ac9673e6b4f0cecff297eadc674f4111913a6b8a130103bdafc1020f3fca8f1e2cd00645b3b80558e4f70ad3bc8c00abd890849d8da75746155edab9edfd5048706c92b6655dcc5ca4d41698688664f6f87225d18b6d49a25b76b224d92866a12e084ec3fa420b954cee3d23c2a632947b54cbe9dec444438e3487ff2f9b8239e37cfbd7f3819ea340bf38a53630d56a0952

def sbox (x : Nat) : Nat := (sboxTable >>> (8 * x)) % 256
def invSbox (x : Nat) : Nat := (invSboxTable >>> (8 * x)) % 256

/-- Multiplication by x in GF(2^8). -/
def xtime (a : Nat) : Nat := if a < 128 then 2 * a else (2 * a) % 256 ^^^ 0x1B

/-- Multiplication in GF(2^8) by a factor of four bits. -/
def gmul (a k : Nat) : Nat :=
  let b := xtime a
  let c := xtime b
  let d := xtime c
  (if k.testBit 0 then a else 0) ^^^ (if k.testBit 1 then b else 0) ^^^ (if k.testBit 2 then c else 0) ^^^
    (if k.testBit 3 then d else 0)

/-- Two byte lists XORed. -/
def xorBytes (a b : List Nat) : List Nat := a.zipWith (· ^^^ ·) b

/-- Key expansion: the last eight words, and the words so far reversed. -/
def expandKey : Nat → Nat → List (List Nat) → List (List Nat)
  | 0, _, ws => ws
  | n + 1, rcon, ws =>
    -- ws is newest first; the word at distance 8 is element 7
    let i := 60 - (n + 1)
    let prev := ws.getD 0 []
    let t := if i % 8 = 0 then
        match prev with
        | a :: rest => xorBytes ((rest ++ [a]).map sbox) [rcon, 0, 0, 0]
        | [] => []
      else if i % 8 = 4 then prev.map sbox
      else prev
    expandKey n (if i % 8 = 0 then xtime rcon else rcon) (xorBytes (ws.getD 7 []) t :: ws)

/-- Lists of four of a list. -/
def chunk4 : Nat → List Nat → List (List Nat)
  | 0, _ => []
  | n + 1, l => l.take 4 :: chunk4 n (l.drop 4)

/-- The fifteen round keys of a 32-byte key. -/
def roundKeys (key : List Nat) : List (List Nat) :=
  let ws := (expandKey 52 1 (chunk4 8 key).reverse).reverse
  (List.range 15).map fun r => (ws.drop (4 * r)).take 4 |>.flatten

def shiftRows (s : List Nat) : List Nat := (List.range 16).map fun i => s.getD ((i + 4 * (i % 4)) % 16) 0
def invShiftRows (s : List Nat) : List Nat := (List.range 16).map fun i => s.getD ((i + 16 - 4 * (i % 4)) % 16) 0

/-- A column times the circulant matrix of a coefficient row. -/
def mixWith (k : List Nat) (s : List Nat) : List Nat :=
  (List.range 16).map fun i =>
    (List.range 4).foldl (fun acc j => acc ^^^ gmul (s.getD (i / 4 * 4 + j) 0) (k.getD ((j + 4 - i % 4) % 4) 0)) 0

def encRounds : List (List Nat) → List Nat → List Nat
  | [], s => s
  | [k], s => xorBytes (shiftRows (s.map sbox)) k
  | k :: ks, s => encRounds ks (xorBytes (mixWith [2, 3, 1, 1] (shiftRows (s.map sbox))) k)

/-- AES-256 of one 16-byte block. -/
def aesEnc (key block : List Nat) : List Nat :=
  match roundKeys key with
  | k0 :: ks => encRounds ks (xorBytes block k0)
  | [] => block

def decRounds : List (List Nat) → List Nat → List Nat
  | [], s => s
  | [k], s => xorBytes ((invShiftRows s).map invSbox) k
  | k :: ks, s => decRounds ks (mixWith [14, 11, 13, 9] (xorBytes ((invShiftRows s).map invSbox) k))

/-- The inverse of AES-256 on one block. -/
def aesDec (key block : List Nat) : List Nat :=
  match (roundKeys key).reverse with
  | k0 :: ks => decRounds ks (xorBytes block k0)
  | [] => block

/-- The bytes of a word, most significant first. -/
def beBytes (n x : Nat) : List Nat := (List.range n).map fun i => (x >>> (8 * (n - 1 - i))) % 256
/-- The number of bytes, most significant first. -/
def ofBe (l : List Nat) : Nat := l.foldl (fun acc b => acc * 256 + b) 0
def leNats (n x : Nat) : List Nat := (List.range n).map fun i => (x >>> (8 * i)) % 256
def ofLe (l : List Nat) : Nat := l.foldr (fun b acc => acc * 256 + b) 0

/-! ## XTS -/

/-- The tweak times x, little-endian. -/
def xtsNext (t : Nat) : Nat := if t < 2 ^ 127 then 2 * t else (2 * t) % 2 ^ 128 ^^^ 0x87

def xtsBlocks (f : List Nat → List Nat) : Nat → Nat → List Nat → List Nat
  | 0, _, _ => []
  | n + 1, t, l =>
    let tw := leNats 16 t
    xorBytes (f (xorBytes (l.take 16) tw)) tw ++ xtsBlocks f n (xtsNext t) (l.drop 16)

/-- AES-256-XTS of whole blocks: key 512 bits, its first half in the low 32 bytes, and the tweak. -/
def xts (enc : Bool) (key : BitVec 512) (tweak : Nat) (l : List Nat) : List Nat :=
  let k := leNats 64 key.toNat
  let k1 := k.take 32
  let k2 := k.drop 32
  xtsBlocks (if enc then aesEnc k1 else aesDec k1) (l.length / 16) (ofLe (aesEnc k2 (leNats 16 tweak))) l

/-! ## GCM -/

/-- Multiplication in GCM's field; a number's most significant bit is the coefficient of 1. -/
def ghashMul (x : Nat) : Nat → Nat → Nat → Nat
  | 0, _, z => z
  | n + 1, v, z =>
    let z := if x.testBit n then z ^^^ v else z
    ghashMul x n (if v.testBit 0 then (v >>> 1) ^^^ (0xE1 <<< 120) else v >>> 1) z

def ghashBlocks (h : Nat) : Nat → List Nat → Nat → Nat
  | 0, _, y => y
  | n + 1, l, y =>
    ghashBlocks h n (l.drop 16) (ghashMul (y ^^^ ofBe ((l.take 16) ++ List.replicate (16 - (l.take 16).length) 0)) 128 h 0)

/-- GHASH of additional data and ciphertext with their lengths. -/
def ghash (h : Nat) (aad ct : List Nat) : Nat :=
  let y := ghashBlocks h ((aad.length + 15) / 16) aad 0
  let y := ghashBlocks h ((ct.length + 15) / 16) ct y
  ghashMul (y ^^^ (aad.length * 8 * 2 ^ 64 + ct.length * 8)) 128 h 0

def ctrBlocks (key : List Nat) (iv : Nat) : Nat → Nat → List Nat → List Nat
  | 0, _, _ => []
  | n + 1, c, l =>
    xorBytes (l.take 16) (aesEnc key (beBytes 12 iv ++ beBytes 4 c)) ++ ctrBlocks key iv n (c + 1) (l.drop 16)

/-- The GCM tag over ciphertext. -/
def gcmTag (key : List Nat) (iv : Nat) (aad ct : List Nat) : List Nat :=
  let h := ofBe (aesEnc key (List.replicate 16 0))
  xorBytes (beBytes 16 (ghash h aad ct)) (aesEnc key (beBytes 12 iv ++ beBytes 4 1))

/-- GCM encryption or decryption of the text alone. -/
def gcmText (key : List Nat) (iv : Nat) (l : List Nat) : List Nat := ctrBlocks key iv ((l.length + 15) / 16) 2 l

/-! ## Key wrap -/

/-- One inverse step of the wrap: t counts down from 6n. -/
def unwrapSteps (key : List Nat) (n : Nat) : Nat → Nat → List Nat → Nat × List Nat
  | 0, a, r => (a, r)
  | t + 1, a, r =>
    let i := t % n
    let b := aesDec key (beBytes 8 (a ^^^ (t + 1)) ++ beBytes 8 (r.getD i 0))
    unwrapSteps key n t (ofBe (b.take 8)) (r.set i (ofBe (b.drop 8)))

/-- AES-256-KW unwrapping of a 40-byte wrapped 256-bit key; `none` where the check value differs. -/
def unwrapKey (kek : BitVec 256) (l : List Nat) : Option (BitVec 256) :=
  if l.length ≠ 40 then none
  else
    let sem := (List.range 5).map fun i => ofBe ((l.drop (8 * i)).take 8)
    let (a, r) := unwrapSteps (leNats 32 kek.toNat) 4 24 (sem.getD 0 0) (sem.drop 1)
    if a = 0xA6A6A6A6A6A6A6A6 then some (BitVec.ofNat 256 (ofLe ((r.map (beBytes 8)).flatten))) else none

/-! ## CRC-32C -/

/-- One bit of the reflected CRC-32C. -/
def crcBit (c : BitVec 32) : BitVec 32 := if c.getLsbD 0 then (c >>> 1) ^^^ 0x82F63B78 else c >>> 1

/-- The running CRC-32C over bytes; a copy starts at ones and inverts at the end (R276). -/
def crcBytes (c : BitVec 32) (l : List Byte) : BitVec 32 :=
  l.foldl (fun c b => Nat.repeat crcBit 8 (c ^^^ b.setWidth 32)) c

end Sys2Proof.Machine
end

