-- ==== Sys2Proof/Config.lean ====
section
/-! DEFINITION. What the spec leaves open: constants with no body, so that no statement can rest on their values.
Those that take the number of a step or of an operation give a fresh value for each (log 3, 7, 8). -/

namespace Sys2Proof.Config

/-- The module's number, in SELF, handles and addresses (R250, R108). -/
opaque moduleNumber : BitVec 10
/-- Installed bytes of the expanders behind a CXL port (R107, R409). -/
opaque t2Bytes : Nat → Nat
/-- Nanoseconds of module time that a step takes (log 3). -/
opaque stepNs : Nat → Nat
/-- Arithmetic clocks that a step takes (log 3). -/
opaque stepClk : Nat → Nat
/-- clk in which a copy could not issue a request (R150), by copy number. -/
opaque stallClk : Nat → Nat
/-- Which of every 2^SR requests at a controller is sampled (R149). -/
opaque hotPhase : Nat → Nat
/-- A world's memory key of an epoch (R161, R172). -/
opaque memoryKey : Nat → Nat → BitVec 512
/-- A weight key generated on the device, by step (R171, R172). -/
opaque weightKey : Nat → BitVec 256
/-- The AES-256 key that unwraps an imported weight key (R170, R174): the world, the ephemeral key of its last attestation report, and
the step, which stands for the sender's half. -/
opaque importKey : Nat → Nat → Nat → BitVec 256
/-- The format and sparsity bits of the blocks that SEAL writes, by step: FMT in [3:0] and SP in [4] (R164, R365). -/
opaque sealFormat : Nat → BitVec 5
/-- The GMAC of a spill entry under the key generated at a reset (R90): the number of the reset, where the entry stands and
its bytes. -/
opaque spillMac : Nat → Nat → List Byte → BitVec 128
/-- The SHA-384 measurements of the boot chain and a firmware image (R174, R411). -/
opaque measurement : List (Nat × Byte) → List Byte
/-- The bytes of an attestation report with its two signatures (R174): the number of the LMS signature, the world's ephemeral key, the
measurements, the world's partition and frame configuration, and the verifier's nonce. -/
opaque attestation : Nat → Nat → List Byte → List W64 → List Byte → List Byte
/-- Both signatures of a firmware image verify (R411). -/
opaque imageSigned : List (Nat × Byte) → Bool
/-- The version of a firmware image (R411). -/
opaque imageVersion : List (Nat × Byte) → Nat
/-- The fused rollback counter (R411). -/
opaque rollback : Nat
/-- The boot status that the boot ROM writes (R411). -/
opaque bootStatus : Bool → W64
/-- The bytes that an accepted image leaves in T0, by address (R411). -/
opaque bootLoad : List (Nat × Byte) → List (Nat × Byte)
/-- The translation word that world 0 begins with under an image (R104, R411). -/
opaque bootTtw : List (Nat × Byte) → W64
/-- The code word of the task that an image begins as (R36, R411). -/
opaque bootCode : List (Nat × Byte) → W64
/-- The physical address of a world's context area for a core that has no shadow slot for it (R102): core, world. -/
opaque contextArea : Nat → Nat → Nat
/-- Where a save area keeps its copy of a bank, in granules from the area's start (R168): core, world, bank. -/
opaque bankArea : Nat → Nat → Nat → Nat
/-- Nanoseconds from a step to the end of the wake that it starts, of 20,000 at most (R75). -/
opaque wakeNs : Nat → Nat
/-- Nanoseconds for which a change of operating point stops fetch, of 20,000 at most (R412), by step. -/
opaque pointNs : Nat → Nat
/-- The code word of a loaded context whose record cannot be read (R389), by step. -/
opaque loadedCode : Nat → W64
/-- What a barrier word holds once it is retired (R345, R348), by step. -/
opaque retiredWord : Nat → W64
/-- Rows left for repair (R158). -/
opaque spareRow : Nat → Bool
end Sys2Proof.Config
end

