-- ==== Sys2Proof/Syntax.lean ====
section
/-! DEFINITION. The instructions and events of the machine: one constructor of `Instr` for each row of the opcode
table. A word row carries the fields of its format (R192) that do not select the row; an event row carries what the
event brings with it. -/

namespace Sys2Proof

/-- Format S (R192). -/
structure FmtS where
  (d a b c : BitVec 6)
  pg : BitVec 3
  sz : BitVec 2
  mod : BitVec 5
  deriving DecidableEq, Repr

/-- Format I (R192). -/
structure FmtI where
  (d a : BitVec 6)
  pg : BitVec 3
  imm : BitVec 23
  deriving DecidableEq, Repr

/-- Format L (R192). -/
structure FmtL where
  d : BitVec 6
  imm : BitVec 34
  deriving DecidableEq, Repr

/-- Format B (R192). -/
structure FmtB where
  cnd : BitVec 4
  (a b : BitVec 6)
  off : BitVec 26
  deriving DecidableEq, Repr

/-- Format A (R192); `b` is the field B. -/
structure FmtA where
  q : BitVec 4
  b : BitVec 6
  step : BitVec 14
  rep : BitVec 12
  deriving DecidableEq, Repr

/-- Format V (R192). -/
structure FmtV where
  (vd va vb t stp : BitVec 4)
  pm : BitVec 3
  rep : BitVec 12
  deriving DecidableEq, Repr

/-- Format M (R192). -/
structure FmtM where
  (ra rb : BitVec 3)
  acc : BitVec 6
  (fmta fmtb : BitVec 4)
  (ws ss : BitVec 5)
  ks : BitVec 8
  deriving DecidableEq, Repr

/-- Format C (R192). -/
structure FmtC where
  (desc tag : BitVec 6)
  uw : BitVec 16
  sc : BitVec 4
  buf : BitVec 8
  deriving DecidableEq, Repr

/-- Format P (R192). -/
structure FmtP where
  (d a b : BitVec 6)
  imm : BitVec 18
  deriving DecidableEq, Repr

/-- Format Q (R192). -/
structure FmtQ where
  (d a : BitVec 6)
  tt : BitVec 3
  off : BitVec 25
  deriving DecidableEq, Repr

/-- An issuing agent that runs instruction words: the A or E stream of a core, or an NP thread (R175, R197). -/
inductive Agent where
  | a (core : Nat)
  | e (core : Nat)
  | np (thread : Nat)
  deriving DecidableEq, Repr

/-- Where a task runs: a core, or an NP thread (R35). -/
inductive Place where
  | core (n : Nat)
  | thread (n : Nat)
  deriving DecidableEq, Repr

/-- What a peer or the host answers to an outstanding request: its bytes, or a refusal (R112). -/
inductive Response where
  | data (bytes : List Byte)
  | refusal
  deriving DecidableEq, Repr

/-- Delivery modes (R45, R55). -/
inductive DeliveryMode where
  | rud | rod | rudi
  deriving DecidableEq, Repr

/-- What every packet carries (R45 to R48, R53): its message's number, JobID and source module, the packet delivery context
and whether the context ends with it, the delivery mode and the message's place in its context's sending order, whether it asks for an
unsupported feature, and whether its wire check held. -/
structure Transport where
  (msg job src pdc seq : Nat)
  closes : Bool
  mode : DeliveryMode
  unsupported : Bool
  crcOk : Bool
  deriving DecidableEq, Repr

/-- A packet of an RMA write, with its memory key and the offset in the landing region that the message goes to, or a later packet of a
tagged send (R48, R50, R51): its offset in the message and bytes, and the message's length. -/
structure DataPacket extends Transport where
  key : Option (W64 × Nat)
  (off len : Nat)
  bytes : List Byte
  deriving DecidableEq, Repr

/-- A packet of a tagged send that carries its match bits (R48, R62): its offset and bytes, and the message's length. -/
structure TaggedSend extends Transport where
  (off len : Nat)
  bits : W64
  bytes : List Byte
  deriving DecidableEq, Repr

/-- The atomic operations of R55 and R340. -/
inductive AtomicOp where
  | add | and | or | xor | min | max | minn | maxn | swap | cas
  deriving DecidableEq, Repr

/-- What an RMA or domain-window request asks for (R45, R50, R112). -/
inductive RmaKind where
  | write (bytes : List Byte)
  | read (len : Nat)
  | atomic (op : AtomicOp) (width : Nat) (x y : W64)
  deriving DecidableEq, Repr

/-- An arriving RMA operation (R50): its memory key, offset in the landing region and operation. -/
structure RmaRequest extends Transport where
  key : W64
  off : Nat
  kind : RmaKind
  deriving DecidableEq, Repr

/-- An arriving domain-window access (R112): the domain JobID and the target virtual address. -/
structure DomainRequest where
  (msg job src va : Nat)
  kind : RmaKind
  deriving DecidableEq, Repr

/-- An access to the notify aperture (R73): a read of the host, or a write by the host or by a peer's NOTIFY. -/
structure NotifyWrite where
  read : Bool
  reg : Nat
  value : W64
  wellFormed : Bool
  peer : Option Nat
  deriving DecidableEq, Repr

/-- A register whose write has no behaviour of its own (R6): the plain control registers of a stream or task. -/
inductive PlainReg where
  | fpctl (ag : Agent) | fpstat (ag : Agent) | srseedl (ag : Agent) | srseedh (ag : Agent)
  | mxstat (core : Nat) | vw (core n : Nat) | vshape (core : Nat) | vksc (core : Nat)
  | swait (ag : Agent) (n : Nat) | wdog (world : Nat) | ttw (world : Nat) | domw (world : Nat) | nbind (reg : Nat)
  deriving DecidableEq, Repr

/-- One constructor per row of the opcode table: the instruction words first, then the events. -/
inductive Instr where
  /-- ADD, R233: Integer add of two registers at width w, wrapping modulo 2^w. -/
  | add (f : FmtS)
  /-- SUB, R233: Integer subtract of two registers at width w, wrapping. -/
  | sub (f : FmtS)
  /-- MUL, R233: Low w bits of the integer product. -/
  | mul (f : FmtS)
  /-- MULH, R233: High w bits of the signed product. -/
  | mulh (f : FmtS)
  /-- MULHN, R233: High w bits of the unsigned product. -/
  | mulhn (f : FmtS)
  /-- DIV, R234: Signed quotient rounded toward zero, with the zero-divisor and overflow edge cases. -/
  | div (f : FmtS)
  /-- DIVN, R234: Unsigned quotient; division by zero gives 0 and sets IDZ. -/
  | divn (f : FmtS)
  /-- REM, R234: Signed remainder, with the sign of the dividend. -/
  | rem (f : FmtS)
  /-- REMN, R234: Unsigned remainder. -/
  | remn (f : FmtS)
  /-- MAD, R233: Multiply two registers and add a third, wrapping. -/
  | mad (f : FmtS)
  /-- AND, R233: Bitwise AND of two registers. -/
  | and (f : FmtS)
  /-- OR, R233: Bitwise OR of two registers. -/
  | or (f : FmtS)
  /-- XOR, R233: Bitwise XOR of two registers. -/
  | xor (f : FmtS)
  /-- ANDN, R233: x AND NOT y. -/
  | andn (f : FmtS)
  /-- ORN, R233: x OR NOT y. -/
  | orn (f : FmtS)
  /-- XNOR, R233: NOT (x XOR y). -/
  | xnor (f : FmtS)
  /-- SHL, R233: Logical shift left by a 64-bit amount; 0 when the amount is w or more. -/
  | shl (f : FmtS)
  /-- SHR, R233: Logical shift right. -/
  | shr (f : FmtS)
  /-- SAR, R233: Arithmetic shift right. -/
  | sar (f : FmtS)
  /-- ROL, R233: Rotate left by the amount modulo w. -/
  | rol (f : FmtS)
  /-- ROR, R233: Rotate right by the amount modulo w. -/
  | ror (f : FmtS)
  /-- MIN, R233: Signed minimum. -/
  | min (f : FmtS)
  /-- MAX, R233: Signed maximum. -/
  | max (f : FmtS)
  /-- MINN, R233: Unsigned minimum. -/
  | minn (f : FmtS)
  /-- MAXN, R233: Unsigned maximum. -/
  | maxn (f : FmtS)
  /-- SLT, R233: 1 when x is less than y, read signed. -/
  | slt (f : FmtS)
  /-- SLTN, R233: 1 when x is less than y, read unsigned. -/
  | sltn (f : FmtS)
  /-- SEQ, R233: 1 when x equals y. -/
  | seq (f : FmtS)
  /-- SNE, R233: 1 when x differs from y. -/
  | sne (f : FmtS)
  /-- SEL, R233: Selects x or y according to a predicate. -/
  | sel (f : FmtS)
  /-- CLZ, R233: Counts the leading zero bits. -/
  | clz (f : FmtS)
  /-- CTZ, R233: Counts the trailing zero bits. -/
  | ctz (f : FmtS)
  /-- POPC, R233: Counts the 1 bits. -/
  | popc (f : FmtS)
  /-- BREV, R233: Reverses the bit order within w bits. -/
  | brev (f : FmtS)
  /-- BEXT, R233: Extracts the bits of x selected by mask y and packs them from bit 0. -/
  | bext (f : FmtS)
  /-- BDEP, R233: Deposits the low bits of x at the 1 positions of mask y. -/
  | bdep (f : FmtS)
  /-- ADD_IMM, R235: 64-bit add of a sign-extended immediate. -/
  | addImm (f : FmtI)
  /-- MUL_IMM, R235: 64-bit multiply by an immediate. -/
  | mulImm (f : FmtI)
  /-- AND_IMM, R235: AND with an immediate. -/
  | andImm (f : FmtI)
  /-- OR_IMM, R235: OR with an immediate. -/
  | orImm (f : FmtI)
  /-- XOR_IMM, R235: XOR with an immediate. -/
  | xorImm (f : FmtI)
  /-- SHL_IMM, R235: Shift left by an immediate amount. -/
  | shlImm (f : FmtI)
  /-- SHR_IMM, R235: Logical shift right by an immediate amount. -/
  | shrImm (f : FmtI)
  /-- SAR_IMM, R235: Arithmetic shift right by an immediate amount. -/
  | sarImm (f : FmtI)
  /-- ROL_IMM, R235: Rotate left by an immediate amount. -/
  | rolImm (f : FmtI)
  /-- ROR_IMM, R235: Rotate right by an immediate amount. -/
  | rorImm (f : FmtI)
  /-- MIN_IMM, R235: Signed minimum with an immediate. -/
  | minImm (f : FmtI)
  /-- MAX_IMM, R235: Signed maximum with an immediate. -/
  | maxImm (f : FmtI)
  /-- SLT_IMM, R235: Signed less-than compare with an immediate. -/
  | sltImm (f : FmtI)
  /-- SLTN_IMM, R235: Unsigned less-than compare with an immediate. -/
  | sltnImm (f : FmtI)
  /-- SEQ_IMM, R235: Equality compare with an immediate. -/
  | seqImm (f : FmtI)
  /-- SNE_IMM, R235: Inequality compare with an immediate. -/
  | sneImm (f : FmtI)
  /-- LDI, R236: Loads a sign-extended 34-bit immediate. -/
  | ldi (f : FmtL)
  /-- LDHI, R236: Writes a 32-bit immediate to the high half of a register and keeps the low half. -/
  | ldhi (f : FmtL)
  /-- FADD, R238: Scalar FP addition, rounded once. -/
  | fadd (f : FmtS)
  /-- FSUB, R238: Scalar FP subtraction. -/
  | fsub (f : FmtS)
  /-- FMUL, R238: Scalar FP multiplication. -/
  | fmul (f : FmtS)
  /-- FFMA, R238: Scalar fused multiply-add, rounded once. -/
  | ffma (f : FmtS)
  /-- FDIV, R238: Scalar FP division. -/
  | fdiv (f : FmtS)
  /-- FSQRT, R238: Scalar FP square root. -/
  | fsqrt (f : FmtS)
  /-- FMIN, R238: minimumNumber of two FP values. -/
  | fmin (f : FmtS)
  /-- FMAX, R238: maximumNumber of two FP values. -/
  | fmax (f : FmtS)
  /-- FCVT, R239: Converts between FP and integer scalar types under R222. -/
  | fcvt (f : FmtS)
  /-- FCMP, R240: Compares two FP values and writes a predicate. -/
  | fcmp (f : FmtS)
  /-- FCLASS, R240: Writes a one-hot class mask of an FP value. -/
  | fclass (f : FmtS)
  /-- PSET, R242: Sets a predicate from an integer comparison. -/
  | pset (f : FmtS)
  /-- PAND, R242: AND of two predicates. -/
  | pand (f : FmtS)
  /-- POR, R242: OR of two predicates. -/
  | por (f : FmtS)
  /-- PXOR, R242: XOR of two predicates. -/
  | pxor (f : FmtS)
  /-- PNOT, R242: Negation of a predicate. -/
  | pnot (f : FmtS)
  /-- BR, R243: Conditional PC-relative branch. -/
  | br (f : FmtB)
  /-- JMP, R244: PC-relative jump. -/
  | jmp (f : FmtI)
  /-- JMPR, R244: Jump to a register plus an offset. -/
  | jmpr (f : FmtI)
  /-- CALL, R244: Writes the return PC and jumps. -/
  | call (f : FmtI)
  /-- RET, R244: Jumps to the PC held in a register. -/
  | ret (f : FmtI)
  /-- LOOP, R244: Decrements a counter and branches while it is nonzero. -/
  | loop (f : FmtI)
  /-- LD, R247: Scalar load at register plus displacement, optionally acquire. -/
  | ld (sgn acq : Bool) (f : FmtS)
  /-- LDX, R247: Scalar load at register plus scaled index. -/
  | ldx (sgn acq : Bool) (f : FmtS)
  /-- ST, R247: Scalar store at register plus displacement, optionally release. -/
  | st (rel : Bool) (f : FmtS)
  /-- STX, R247: Scalar store at register plus scaled index. -/
  | stx (rel : Bool) (f : FmtS)
  /-- MFC, R249: Reads a control register, with the waits of R251. -/
  | mfc (f : FmtI)
  /-- MTC, R249: Writes a control register, with its value checks and the waits of R251 and R184. -/
  | mtc (f : FmtI)
  /-- QPUSH, R252: Pushes a register as one queue entry, waiting while the queue is full. -/
  | qpush (f : FmtS)
  /-- QPOP, R252: Pops a queue entry into a register, waiting while the queue is empty. -/
  | qpop (f : FmtS)
  /-- QPEEK, R252: Reads the head entry of a queue without popping it. -/
  | qpeek (f : FmtS)
  /-- QLEVEL, R252: Returns the poppable entries and occupied places of a queue. -/
  | qlevel (f : FmtS)
  /-- NOP, R253: Does nothing. -/
  | nop (f : FmtI)
  /-- END, R254: Stops the stream's fetch; the task ends when both streams have executed it. -/
  | endTask (f : FmtI)
  /-- YIELD, R253: Stops the stream's fetch for n + 1 clk. -/
  | yield (f : FmtI)
  /-- SUSPEND, R255: Names the resume entry and copies the SWAIT registers into the wait slots; the task suspends when both streams have executed it. -/
  | suspend (f : FmtI)
  /-- TRAP, R256: Ends the word with the TRAP fault. -/
  | trap (f : FmtI)
  /-- BKPT, R256: Enters debug halt when debug is enabled, else acts as NOP. -/
  | bkpt (f : FmtI)
  /-- HALT, R256: Enters debug halt when debug is enabled, else faults with HALT. -/
  | halt (f : FmtI)
  /-- VLD, R260: Loads rows from memory into a load queue, one row per repetition. -/
  | vld (stor : BitVec 2) (k : BitVec 3) (f : FmtA)
  /-- VLDX, R260: Row load with an offset popped from cq1. -/
  | vldx (stor : BitVec 2) (k : BitVec 3) (f : FmtA)
  /-- VST, R260: Stores rows popped from a store queue to memory. -/
  | vst (stor : BitVec 2) (k : BitVec 3) (f : FmtA)
  /-- VSTX, R260: Row store with an offset popped from cq1. -/
  | vstx (stor : BitVec 2) (k : BitVec 3) (f : FmtA)
  /-- GATH, R262: Gathers elements at indexed addresses into a load-queue row. -/
  | gath (stor c : BitVec 2) (f : FmtA)
  /-- SCAT, R262: Scatters the elements of a store-queue row to indexed addresses. -/
  | scat (stor c : BitVec 2) (f : FmtA)
  /-- LDS, R263: Loads small strided elements into load-queue rows. -/
  | lds (stor c : BitVec 2) (f : FmtA)
  /-- STS, R263: Stores small elements popped from a store queue at strided addresses. -/
  | sts (stor c : BitVec 2) (f : FmtA)
  /-- MOVS, R263: Moves store-queue rows into a load queue unchanged. -/
  | movs (f : FmtA)
  /-- PREF, R264: Prefetches a block's translation and DRAM rows; never faults. -/
  | pref (stor : BitVec 2) (k : BitVec 4) (f : FmtA)
  /-- PROBE, R268: Looks up a tag table and, on a miss, queues a fill and branches. -/
  | probe (f : FmtQ)
  /-- PROBE_NF, R268: Looks up a tag table and branches on a miss without a fill. -/
  | probeNf (f : FmtQ)
  /-- PROBE_INV, R270: Drops the tag-table entry of an address, after its pending fill. -/
  | probeInv (f : FmtQ)
  /-- PROBE_CFG, R270: Installs a tag-table descriptor once no fill is outstanding, and empties the table. -/
  | probeCfg (f : FmtQ)
  /-- COPY, R274: Waits for the tag, releases earlier accesses and hands a descriptor to the copy engine. -/
  | copy (f : FmtC)
  /-- CWAITA, R285: Waits until any tag of a mask completes and returns its number and status. -/
  | cwaita (f : FmtP)
  /-- CWAITL, R285: Waits until every tag of a mask completes. -/
  | cwaitl (f : FmtP)
  /-- CFIND, R285: Returns the lowest completed tag of a mask without waiting. -/
  | cfind (f : FmtP)
  /-- VADD, R292: Element-wise integer add. -/
  | vadd (f : FmtV)
  /-- VSUB, R292: Element-wise integer subtract. -/
  | vsub (f : FmtV)
  /-- VMUL, R292: Element-wise integer multiply, low bits. -/
  | vmul (f : FmtV)
  /-- VMULH, R292: Element-wise integer multiply, high bits. -/
  | vmulh (f : FmtV)
  /-- VMIN, R292: Element-wise integer minimum. -/
  | vmin (f : FmtV)
  /-- VMAX, R292: Element-wise integer maximum. -/
  | vmax (f : FmtV)
  /-- VABS, R292: Element-wise integer absolute value. -/
  | vabs (f : FmtV)
  /-- VNEG, R292: Element-wise integer negation. -/
  | vneg (f : FmtV)
  /-- VADDS, R292: Element-wise saturating add. -/
  | vadds (f : FmtV)
  /-- VSUBS, R292: Element-wise saturating subtract. -/
  | vsubs (f : FmtV)
  /-- VAVG, R292: Element-wise rounded average. -/
  | vavg (f : FmtV)
  /-- VMAXD, R294: Selects the larger candidate per element and pushes decision bits to a store queue. -/
  | vmaxd (n : BitVec 2) (f : FmtV)
  /-- VAND, R293: Element-wise AND. -/
  | vand (f : FmtV)
  /-- VOR, R293: Element-wise OR. -/
  | vor (f : FmtV)
  /-- VXOR, R293: Element-wise XOR. -/
  | vxor (f : FmtV)
  /-- VANDN, R293: Element-wise AND NOT. -/
  | vandn (f : FmtV)
  /-- VSHL, R293: Element-wise shift left. -/
  | vshl (f : FmtV)
  /-- VSHR, R293: Element-wise logical shift right. -/
  | vshr (f : FmtV)
  /-- VSAR, R293: Element-wise arithmetic shift right. -/
  | vsar (f : FmtV)
  /-- VFADD, R295: Element-wise FP add. -/
  | vfadd (rm : BitVec 3) (f : FmtV)
  /-- VFSUB, R295: Element-wise FP subtract. -/
  | vfsub (rm : BitVec 3) (f : FmtV)
  /-- VFMUL, R295: Element-wise FP multiply. -/
  | vfmul (rm : BitVec 3) (f : FmtV)
  /-- VFFMA, R295: Element-wise fused multiply-add into vd. -/
  | vffma (rm : BitVec 3) (f : FmtV)
  /-- VFDIV, R295: Element-wise FP divide. -/
  | vfdiv (rm : BitVec 3) (f : FmtV)
  /-- VFMIN, R295: Element-wise minimumNumber. -/
  | vfmin (f : FmtV)
  /-- VFMAX, R295: Element-wise maximumNumber. -/
  | vfmax (f : FmtV)
  /-- VEXP2, R297: Element-wise 2^((x − y) × k), rounded once. -/
  | vexp2 (rm : BitVec 3) (f : FmtV)
  /-- VLOG2, R298: Element-wise base-2 logarithm. -/
  | vlog2 (rm : BitVec 3) (f : FmtV)
  /-- VRCP, R298: Element-wise reciprocal. -/
  | vrcp (rm : BitVec 3) (f : FmtV)
  /-- VRSQRT, R298: Element-wise reciprocal square root. -/
  | vrsqrt (rm : BitVec 3) (f : FmtV)
  /-- VRSUM, R300: Row sum, exact then rounded once. -/
  | vrsum (rm : BitVec 3) (f : FmtV)
  /-- VRMAX, R300: Row maximum. -/
  | vrmax (f : FmtV)
  /-- VRMIN, R300: Row minimum. -/
  | vrmin (f : FmtV)
  /-- VCSUM, R300: Column sum. -/
  | vcsum (rm : BitVec 3) (f : FmtV)
  /-- VCMAX, R300: Column maximum. -/
  | vcmax (f : FmtV)
  /-- VARGMAX, R300: Lowest column holding the row maximum. -/
  | vargmax (f : FmtV)
  /-- VCVT, R301: Element-wise format conversion. -/
  | vcvt (sat : Bool) (rm : BitVec 3) (f : FmtV)
  /-- VQMX, R302: Quantises rows to an MX format, writing scales to vb. -/
  | vqmx (f : FmtV)
  /-- VDQMX, R303: Dequantises MX elements with their scales. -/
  | vdqmx (sat : Bool) (rm : BitVec 3) (f : FmtV)
  /-- VCMP, R304: Element-wise compare into an all-ones or all-zeros mask. -/
  | vcmp (cc : BitVec 3) (f : FmtV)
  /-- VSEL, R304: Element-wise select by the top bit of the old vd. -/
  | vsel (f : FmtV)
  /-- VMOV, R305: Element-wise bit copy. -/
  | vmov (f : FmtV)
  /-- VBCAST_ROW, R305: Broadcasts column 0 of each row along the row. -/
  | vbcastRow (f : FmtV)
  /-- VBCAST_COL, R305: Broadcasts row 0 down each column. -/
  | vbcastCol (f : FmtV)
  /-- VBCAST_ONE, R305: Broadcasts element (0, 0). -/
  | vbcastOne (f : FmtV)
  /-- VPOPQ, R306: Pops VROWS + 1 load-queue rows into a view at once. -/
  | vpopq (f : FmtV)
  /-- VPUSHQ, R306: Pushes VROWS + 1 rows of a view into a store queue at once. -/
  | vpushq (f : FmtV)
  /-- VTRANS, R305: Transposes the active shape. -/
  | vtrans (f : FmtV)
  /-- VSLIDE, R305: Slides each row by a per-row amount. -/
  | vslide (f : FmtV)
  /-- VPERM, R305: Permutes columns of each row by an index view. -/
  | vperm (f : FmtV)
  /-- VACC, R308: Drains FP32 slab elements into a view with conversion. -/
  | vacc (sat : Bool) (rm : BitVec 3) (f : FmtV)
  /-- VACC_Z, R308: Drains a slab into a view and zeroes the drained elements. -/
  | vaccZ (sat : Bool) (rm : BitVec 3) (f : FmtV)
  /-- VACCW, R308: Writes view elements widened to FP32 into a slab. -/
  | vaccw (f : FmtV)
  /-- VACCW_ADD, R308: Adds view elements into a slab with rounding. -/
  | vaccwAdd (rm : BitVec 3) (f : FmtV)
  /-- MLOADW, R322: Pushes a load of the shadow stationary from a ring, plain or sealed. -/
  | mloadw (f : FmtM)
  /-- MSWAP, R323: Pushes an exchange of the active and shadow stationaries. -/
  | mswap (f : FmtM)
  /-- MMUL, R324: Pushes a dense accumulation of activation slabs against the active stationary. -/
  | mmul (f : FmtM)
  /-- MMULS, R325: Pushes a sparse accumulation, optionally installing metadata from mq. -/
  | mmuls (f : FmtM)
  /-- MZERO, R326: Pushes the zeroing of slabs, optionally emptying both stationaries. -/
  | mzero (f : FmtM)
  /-- SEMSIG, R328: Releases earlier accesses and signals a semaphore. -/
  | semsig (f : FmtP)
  /-- SEMWAIT, R328: Waits on a semaphore and acquires its signals. -/
  | semwait (f : FmtP)
  /-- MFENCE, R328: Waits until every earlier matrix command has retired and acquires its writes. -/
  | mfence (f : FmtP)
  /-- FENCE, R337: Orders covered accesses before and after it at its agent scope. -/
  | fence (f : FmtS)
  /-- OFENCE, R338: The free half of the asymmetric fence pair. -/
  | ofence (f : FmtS)
  /-- XFENCE, R338: Fences and serialises every agent of the world within its scope. -/
  | xfence (f : FmtS)
  /-- MARK, R339: Orders every access after it behind every access before it without stalling. -/
  | mark (f : FmtS)
  /-- AADD, R341: Atomic add returning the old value. -/
  | aadd (ord : BitVec 2) (f : FmtS)
  /-- AAND, R341: Atomic AND. -/
  | aand (ord : BitVec 2) (f : FmtS)
  /-- AOR, R341: Atomic OR. -/
  | aor (ord : BitVec 2) (f : FmtS)
  /-- AXOR, R341: Atomic XOR. -/
  | axor (ord : BitVec 2) (f : FmtS)
  /-- AMIN, R341: Atomic signed minimum. -/
  | amin (ord : BitVec 2) (f : FmtS)
  /-- AMAX, R341: Atomic signed maximum. -/
  | amax (ord : BitVec 2) (f : FmtS)
  /-- AMINN, R341: Atomic unsigned minimum. -/
  | aminn (ord : BitVec 2) (f : FmtS)
  /-- AMAXN, R341: Atomic unsigned maximum. -/
  | amaxn (ord : BitVec 2) (f : FmtS)
  /-- ASWAP, R341: Atomic swap. -/
  | aswap (ord : BitVec 2) (f : FmtS)
  /-- ACAS, R341: Atomic compare-and-swap. -/
  | acas (ord : BitVec 2) (f : FmtS)
  /-- AFXINIT, R344: Initialises an exact cell with a base exponent. -/
  | afxinit (ord : BitVec 2) (f : FmtS)
  /-- AFXADD, R228: Adds an FP32 or BF16 value exactly into an exact cell. -/
  | afxadd (ord : BitVec 2) (f : FmtS)
  /-- AFXRD, R344: Reads an exact cell rounded to FP64 or FP32, with its flags. -/
  | afxrd (ord : BitVec 2) (f : FmtS)
  /-- AFXRD_CLR, R344: Reads an exact cell and clears S and its flags in the same step. -/
  | afxrdClr (ord : BitVec 2) (f : FmtS)
  /-- BARINIT, R348: Makes a barrier word live, re-initialises it or retires it. -/
  | barinit (f : FmtP)
  /-- BAR, R348: Arrives at a barrier, releasing and waiting for the phase to complete. -/
  | bar (f : FmtP)
  /-- CTRADD, R350: Releases earlier accesses at dom scope and adds 1 to 63 to a counter. -/
  | ctradd (f : FmtP)
  /-- CTRRD, R350: Reads a counter, optionally as an acquire. -/
  | ctrrd (f : FmtP)
  /-- TAGALLOC, R83: Allocates the lowest FREE readiness tag or returns a fallback handle. -/
  | tagalloc (f : FmtP)
  /-- PUBL, R84: Publishes a tag, waiting for covered writes and copies, or adds 1 to a fallback counter. -/
  | publ (f : FmtP)
  /-- TAGQRY, R353: Returns word 0 of a tag entry, or the fallback counter's value. -/
  | tagqry (f : FmtP)
  /-- TAGFREE, R82: Frees or retires a tag and discards records waiting on an unpublished one. -/
  | tagfree (f : FmtP)
  /-- SPAWN, R354: Releases earlier accesses and submits a task record for admission. -/
  | spawn (f : FmtP)
  /-- SPAWN_W, R354: World 0 submits a record under the translation of a named world. -/
  | spawnW (f : FmtP)
  /-- EVWAIT, R356: Takes the earliest posted event of the lowest class in the mask, waiting when none. -/
  | evwait (f : FmtP)
  /-- EVDONE, R357: Ends a held event, releasing its lock and quota place. -/
  | evdone (f : FmtP)
  /-- OLOCK, R72: Takes the ordering lock of an event once all earlier events of its queue are released. -/
  | olock (f : FmtP)
  /-- OREL, R72: Releases the ordering lock of an event. -/
  | orel (f : FmtP)
  /-- TMARM, R358: Arms, re-arms or disarms a timer of the world. -/
  | tmarm (f : FmtP)
  /-- TMRD, R358: Returns a timer's next deadline. -/
  | tmrd (f : FmtP)
  /-- NOTIFY, R359: Releases at dom scope and writes a notify register on a named module. -/
  | notify (f : FmtP)
  /-- PKSEND, R360: Reads a send descriptor and starts the message, or reports it malformed. -/
  | pksend (f : FmtP)
  /-- TRGARM_ENTRY, R66: Arms a trigger entry from a 64-byte image. -/
  | trgarmEntry (f : FmtP)
  /-- TRGARM_DESC, R50: Arms a delivery descriptor from a 32-byte image. -/
  | trgarmDesc (f : FmtP)
  /-- TRGDIS_ENTRY, R67: Disarms a trigger entry and returns the word 0 found. -/
  | trgdisEntry (f : FmtP)
  /-- TRGDIS_DESC, R361: Disarms a delivery descriptor. -/
  | trgdisDesc (f : FmtP)
  /-- TRGRD_ENTRY, R361: Returns one word of a trigger entry. -/
  | trgrdEntry (f : FmtP)
  /-- TRGRD_DESC, R361: Returns one word of a delivery descriptor. -/
  | trgrdDesc (f : FmtP)
  /-- START, R142: Starts the motion of a page to a destination in the lowest FREE slot. -/
  | start (f : FmtP)
  /-- CANCEL, R139: Aborts a motion in COPYING or DRAINING. -/
  | cancel (f : FmtP)
  /-- QUERY, R141: Writes the image of a motion record to a buffer. -/
  | query (f : FmtP)
  /-- RELEASE, R139: Frees a record left ABORTING after a source failure. -/
  | release (f : FmtP)
  /-- LIVEMARK, R155: Sets a block's live state for refresh elision. -/
  | livemark (f : FmtP)
  /-- HOTCFG, R149: Places and clears the hotness array and sets the sampling rate. -/
  | hotcfg (f : FmtP)
  /-- ERRLOG, R157: Places the error ring. -/
  | errlog (f : FmtP)
  /-- PCREATE, R364: Creates a world's partition. -/
  | pcreate (f : FmtP)
  /-- PCHANGE, R364: Changes a world's partition. -/
  | pchange (f : FmtP)
  /-- PRESET, R399: Resets a world's partition on the module. -/
  | preset (f : FmtP)
  /-- PDESTROY, R364: Resets and removes a partition. -/
  | pdestroy (f : FmtP)
  /-- QUOTA, R364: Sets a world's tag, pool, trigger, timer or event quota. -/
  | quota (f : FmtP)
  /-- CTRALLOC, R364: Allocates counters to a world with value 0. -/
  | ctralloc (f : FmtP)
  /-- CTRFREE, R57: Frees counters, zeroing them and freeing their watching entries. -/
  | ctrfree (f : FmtP)
  /-- FRAME, R98: Writes a frame-table entry, FTCTL or FTEPOCH of a core. -/
  | frame (f : FmtP)
  /-- SHSLOT, R102: Assigns a shadow slot to a core and world. -/
  | shslot (f : FmtP)
  /-- WDOG, R104: Sets a partition's watchdog word. -/
  | wdog (f : FmtP)
  /-- XLATE, R113: Sets a partition's translation words. -/
  | xlate (f : FmtP)
  /-- INVAL, R124: Invalidates a world's translations and returns once every unit has acknowledged. -/
  | inval (f : FmtP)
  /-- TRACK, R129: Sets a tracked-range slot. -/
  | track (f : FmtP)
  /-- OVQ, R90: Places a world's overflow queue. -/
  | ovq (f : FmtP)
  /-- RXOVF, R364: Places a world's receive overflow region. -/
  | rxovf (f : FmtP)
  /-- NBIND, R73: Sets a notify register's binding word. -/
  | nbind (f : FmtP)
  /-- JBIND, R46: Binds or unbinds a JobID to a world. -/
  | jbind (f : FmtP)
  /-- BUFRD, R150: Reads and clears a world's per-buffer counters. -/
  | bufrd (f : FmtP)
  /-- OWNRD, R167: Reads the owner tag of an SRAM bank. -/
  | ownrd (f : FmtP)
  /-- DEBUG, R401: Sets a world's debug enable. -/
  | debug (f : FmtP)
  /-- DISCARD, R389: Drops a held faulted context and frees its bank or thread. -/
  | discard (f : FmtP)
  /-- DLOGSWAP, R131: Swaps a tracked range's dirty bitmap atomically and returns the old one. -/
  | dlogswap (f : FmtP)
  /-- RESUME, R389: Resumes a held faulted context, re-executing the faulting word. -/
  | resume (f : FmtP)
  /-- SAVE, R389: Writes a held context's image with banks and frees it. -/
  | save (f : FmtP)
  /-- LOAD, R390: Installs a checked image as a pre-empted context. -/
  | load (f : FmtP)
  /-- STOPW, R389: Stops and saves every task of a world and marks the partition FAILED. -/
  | stopw (f : FmtP)
  /-- STARTW, R389: Clears FAILED and resumes the saved contexts. -/
  | startw (f : FmtP)
  /-- DHALT, R402: Puts a task of a debug-enabled world into debug halt. -/
  | dhalt (f : FmtP)
  /-- DRESUME, R403: Checks and restores a debug-halted image. -/
  | dresume (f : FmtP)
  /-- WCREATE, R172: Generates a world's memory key and weight-key generation 0. -/
  | wcreate (f : FmtP)
  /-- WDESTROY, R170: Zeroises every key of a world. -/
  | wdestroy (f : FmtP)
  /-- LINKGEN, R171: Generates the next link-key generation of a secure domain. -/
  | linkgen (f : FmtP)
  /-- WKIMPORT, R171: Installs a wrapped weight-key generation. -/
  | wkimport (f : FmtP)
  /-- WKGEN, R171: Generates the next weight-key generation on device. -/
  | wkgen (f : FmtP)
  /-- SEAL, R164: Seals a payload buffer into sealed blocks. -/
  | seal (f : FmtP)
  /-- ATTEST, R174: Writes a doubly signed attestation report. -/
  | attest (f : FmtP)
  /-- HEALTH, R365: Returns the TRNG health state. -/
  | health (f : FmtP)
  /-- VE_REPETITION_EXECUTE, R288: The VE executes one issued repetition of a vector word, after waiting for its queue rows or places. -/
  | veRepetitionExecute (core : Nat)
  /-- ME_COMMAND_START, R319: The ME starts a queued command on its unit once its order, slot, xq and WS conditions hold. -/
  | meCommandStart (core entry : Nat)
  /-- ME_COMMAND_RETIRE, R319: A finished matrix command retires in mcq order, pops its slots and xq entries and signals SS. -/
  | meCommandRetire (core : Nat)
  /-- SECURITY_COMPLETION, R170: A key operation finishes and posts its completion event. -/
  | securityCompletion (entry : Nat)
  /-- TRNG_HEALTH_FAIL, R172: A continuous health test fails and the TRNG enters FAILED. -/
  | trngHealthFail
  /-- TRNG_RECOVERY, R172: Start-up tests pass again and FAILED ends. -/
  | trngRecovery
  /-- ADMISSION, R31: A submitted record is read, checked, and entered into the pool, spilled, or refused. -/
  | admission
  /-- OVERFLOW_RETURN, R91: When a resident place frees, the head spill entry is checked and returns to the pool. -/
  | overflowReturn (world : Nat)
  /-- DISPATCH, R94: The dispatcher chooses an eligible READY record and pre-writes it into a standby bank or an NP thread. -/
  | dispatch (r : Place)
  /-- TASK_RETIREMENT, R404: A task whose streams have ended and whose engine work has retired passes to ENDED with a release. -/
  | taskRetirement (r : Place)
  /-- TASK_SUSPENSION, R37: Once engine work retires, the record is written back and resubmitted. -/
  | taskSuspension (r : Place)
  /-- WATCHDOG_EXPIRY, R105: A task's watchdog count reaches its budget and the task faults with WATCHDOG. -/
  | watchdogExpiry (r : Place)
  /-- QUEUE_DEADLOCK, R187: The deadlock count reaches 2^20 clk and the task faults. -/
  | queueDeadlock (core : Nat)
  /-- FAULT_STOP, R383: A stopped task's drain completes, banks switch and the fault report is posted. -/
  | faultStop (r : Place)
  /-- DEFERRED_FAULT, R384: A fault arrives with a memory response and stops the stream at its next boundary. -/
  | deferredFault (id : Nat) (cause : BitVec 8)
  /-- LATE_RESPONSE, R386: An outstanding remote or host response lands in a written image. -/
  | lateResponse (id : Nat) (rsp : Response)
  /-- POISON, R400: An uncorrectable error in core state stops the task with POISONED and stops its world. -/
  | poison (core : Nat)
  /-- FRAME_EDGE, R100: A frame edge pre-empts, saves, clears and restores as the mode gives. -/
  | frameEdge (core : Nat)
  /-- SEALED_FRAME_START, R101: Exactly 5 µs after a sealed edge the incoming world's work starts. -/
  | sealedFrameStart (core : Nat)
  /-- CONTEXT_RESTORE, R395: A saved context is restored once its LATE bits clear. -/
  | contextRestore (core : Nat)
  /-- COPY_RING_ALLOCATE, R279: A waiting copy allocates its ring slots once every destination ring has a free slot. -/
  | copyRingAllocate (core id : Nat)
  /-- COPY_QUEUE_PUSH, R279: A copy pushes its output into xq or mq when there is room. -/
  | copyQueuePush (core id : Nat)
  /-- COPY_COMPLETE, R281: A copy finishes or stops on a fault and writes its status word and CTB bit. -/
  | copyComplete (core id : Nat)
  /-- UET_PACKET_ARRIVAL, R51: An arriving data packet is checked against its landing region and written with its memory-side code. -/
  | uetPacketArrival (p : DataPacket)
  /-- TAGGED_SEND_MATCH, R62: A tagged message's first packet is matched against message-keyed entries. -/
  | taggedSendMatch (m : TaggedSend)
  /-- RMA_ACCESS, R50: An RMA write or read finds its descriptor by memory key and is checked. -/
  | rmaAccess (q : RmaRequest)
  /-- RMA_ATOMIC, R54: An RMA atomic executes indivisibly at the target's atomic unit. -/
  | rmaAtomic (q : RmaRequest)
  /-- DOMAIN_REMOTE_ACCESS, R112: A domain-window access arrives and is bound, translated and performed. -/
  | domainRemoteAccess (q : DomainRequest)
  /-- REMOTE_RESPONSE, R112: The response of a domain-remote access arrives at the issuing stream. -/
  | remoteResponse (id : Nat) (rsp : Response)
  /-- SEND_COMPLETION, R56: An outbound message completes locally and its completion counter is incremented. -/
  | sendCompletion (id : Nat) (rsp : Response)
  /-- TRIGGER_LAUNCH, R65: A fired entry's record is submitted for admission and the entry re-arms. -/
  | triggerLaunch (entry : Nat)
  /-- TRIGGER_COPY, R284: A fired entry's trigger copy block is started on a core's copy engine. -/
  | triggerCopy (entry : Nat)
  /-- TRIGGER_SEND, R65: A fired entry's send descriptor is sent when an outbound slot is free. -/
  | triggerSend (entry : Nat)
  /-- TRIGGER_EVENT, R65: A fired entry posts an event of kind 0x02 within its quota. -/
  | triggerEvent (entry : Nat)
  /-- NOTIFY_WRITE, R74: A host or peer write to a notify register is posted or latched in its lantern. -/
  | notifyWrite (w : NotifyWrite)
  /-- LANTERN_POST, R74: A pending lantern posts one event with its ORed value and count, or discards it. -/
  | lanternPost (reg : Nat)
  /-- TIMER_EXPIRY, R78: A timer's deadline passes and its event is posted. -/
  | timerExpiry (world timer : Nat)
  /-- TIME_STEP, R77: A large forward PTP correction steps module time and fires the passed timers and edges. -/
  | timeStep (ns : Nat)
  /-- MSIX_DOORBELL, R408: A firmware store to the doorbell word raises an MSI-X vector. -/
  | msixDoorbell (v : BitVec 64)
  /-- REGISTER_WRITE, R6: A write to a register with no behaviour of its own sets its RW fields. -/
  | registerWrite (r : PlainReg) (v : BitVec 64)
  /-- DUP_WRITE_RELEASE, R128: The last holder acknowledges and the held writes to a DUP page become visible. -/
  | dupWriteRelease (page : Nat)
  /-- CRUMB_COPY, R146: The migration engine copies one crumb under its crumb lock. -/
  | crumbCopy (slot : Nat)
  /-- MOTION_COMMIT, R143: A drained motion commits the leaf to the destination and requests invalidation. -/
  | motionCommit (slot : Nat)
  /-- MOTION_COMPLETE, R143: A committing motion frees its record and posts COMMITTED once invalidation and forwarding drain. -/
  | motionComplete (slot : Nat)
  /-- MOTION_DEST_FAILURE, R143: A destination failure sends a motion record to ABORTING: an error in a crumb of a block, or the link (`none`). -/
  | motionDestFailure (slot : Nat) (where_ : Option (Nat × Nat))
  /-- MOTION_SOURCE_FAILURE, R143: A source failure marks the leaf LOST or lets motion go on from the destination: an error in a crumb,
  or the link (`none`). -/
  | motionSourceFailure (slot : Nat) (crumb : Option Nat)
  /-- MOTION_ABORT_COMPLETE, R143: An aborting record retires its mirrored writes, restores MOT and frees itself with a notice. -/
  | motionAbortComplete (slot : Nat)
  /-- T2_LINK_DOWN, R159: A CXL link goes down, failing its motions and logging an entry. -/
  | t2LinkDown (port : Nat)
  /-- T2_LINK_UP, R159: A retrained and re-enabled link accepts accesses again. -/
  | t2LinkUp (port : Nat)
  /-- MEMORY_SCRUB, R156: Background scrubbing corrects and logs errors in a live block. -/
  | memoryScrub (granule : Nat)
  /-- COLD_RESET, R410: Power-on reset of every state, followed by boot. -/
  | coldReset
  /-- WARM_RESET, R410: PCIe, FLR or firmware reset keeping PTP time, the error log and T2 contents. -/
  | warmReset
  /-- MAINT_RESET, R410: Warm reset followed by post-package repair of named rows. -/
  | maintReset (rows : List Nat)
  /-- OP_POINT_CHANGE, R412: Firmware selects an operating point, stopping fetch briefly. -/
  | opPointChange (point : BitVec 2)
  /-- THERMAL_ALARM, R413: A die rises through 105 °C and a THERMAL report goes to world 0. -/
  | thermalAlarm (die : BitVec 3) (celsius : BitVec 8)
  /-- THERMAL_SHUTDOWN, R413: A die reaches 115 °C and the module performs a warm reset. -/
  | thermalShutdown (die : BitVec 3)
  /-- FIRMWARE_MAILBOX_WRITE, R411: A host write through BAR0 reaches the firmware mailbox; while the module stays in recovery, BAR0 accepts a new firmware image into slot A. -/
  | firmwareMailboxWrite (off : Nat) (bytes : List (BitVec 8))
  deriving DecidableEq, Repr

end Sys2Proof
end

