-- ==== Sys2Proof/WellFormed.lean ====
section
/-! DEFINITION. The field checks a word must pass whatever stream reaches it (R198 step 5, first part): reserved
fields are zero and no field holds a reserved code. An instruction that passes is `wf`; event rows carry no word and
pass. -/

namespace Sys2Proof

/-- Every bit of a reserved field is zero. -/
def rsv {n : Nat} (x : BitVec n) : Bool := x == 0

/-- Bits `[lo + n - 1 : lo]` of a field are reserved. -/
def rsvBits {m : Nat} (x : BitVec m) (lo n : Nat) : Bool := x.extractLsb' lo n == 0

/-- A field holds a code from the list. -/
def oneOf {n : Nat} (x : BitVec n) (l : List Nat) : Bool := l.contains x.toNat

/-- A field holds at most the value. -/
def atMost {n : Nat} (x : BitVec n) (m : Nat) : Bool := x.toNat ≤ m

/-- The agent scope of MOD[4:2] is one of the codes 0 to 5 (R17, R196). -/
def scopeOk (mod : BitVec 5) : Bool := atMost (mod.extractLsb' 2 3) 5

/-- A rounding field does not hold 5 or 6 (R213). -/
def rmOk (rm : BitVec 3) : Bool := rm.toNat ≠ 5 && rm.toNat ≠ 6

/-- A matrix format of the integer class (R212). -/
def fmtIntClass (c : BitVec 4) : Bool := oneOf c [0xA, 0xB, 0xC]

/-- A matrix format that may be sparse (R312). -/
def fmtSparseOk (c : BitVec 4) : Bool := oneOf c [0x0, 0x1, 0x5, 0x6, 0xA, 0xB, 0x4, 0x9, 0xC]

/-- The control register numbers of the map of R249. -/
def cregNumbers : List Nat :=
  [(0x00, 5), (0x08, 6), (0x10, 18), (0x28, 9), (0x34, 4)].flatMap fun (first, n) => (List.range n).map (first + ·)

/-- The microword of a copy holds no reserved combination (R272). -/
def uwOk (uw : BitVec 16) : Bool :=
  let b := uw.getLsbD
  let dk := (uw.extractLsb' 0 2).toNat
  let tr := !(uw.extractLsb' 8 2 == 0)
  rsvBits uw 2 5 && !(b 13 && (b 7 || tr || b 10 || b 11)) && !(b 10 && b 11) && !(b 7 && b 11) &&
    !(b 11 && 2 ≤ dk) && !(b 14 && 2 ≤ dk)

/-- Two-operand rows of the integer ALU (R233). -/
def wfAlu2 (f : FmtS) : Bool := rsv f.c && rsvBits f.mod 1 4
/-- One-operand rows of the integer ALU (R233). -/
def wfAlu1 (f : FmtS) : Bool := rsv f.b && rsv f.c && rsvBits f.mod 1 4
/-- Rounding rows of scalar FP (R237). -/
def wfFp (f : FmtS) : Bool := oneOf f.sz [2, 3] && rmOk (f.mod.extractLsb' 0 3) && rsvBits f.mod 3 2
/-- FCVT (R239). -/
def wfFcvt (f : FmtS) : Bool :=
  let src := f.c.extractLsb' 3 3
  let dst := f.c.extractLsb' 0 3
  rsv f.sz && rsv f.b && rsvBits f.mod 4 1 && rmOk (f.mod.extractLsb' 0 3) && src != dst &&
    !(4 ≤ src.toNat && 4 ≤ dst.toNat) && (!f.mod.getLsbD 3 || oneOf dst [2, 3])
/-- Predicate operations on two predicates (R242). -/
def wfPred (f : FmtS) : Bool :=
  rsvBits f.d 3 3 && rsvBits f.a 3 3 && rsvBits f.b 3 3 && rsv f.c && rsv f.sz && rsv f.mod
/-- Queue operations on a queue entry (R252). -/
def wfQueue (f : FmtS) : Bool :=
  rsvBits f.b 4 2 && rsv f.c && rsvBits f.mod 1 4 && (!oneOf f.b [12, 13] || f.sz == 3)
/-- A vector row whose T must come from the list (R289). -/
def wfV (l : List Nat) (f : FmtV) : Bool := oneOf f.t l
/-- As `wfV`, with vb reserved. -/
def wfV1 (l : List Nat) (f : FmtV) : Bool := oneOf f.t l && rsv f.vb
/-- T from 0 to 14. -/
def anyT : List Nat := [0, 1, 2, 3, 4, 5, 6, 7, 8, 9, 10, 11, 12, 13, 14]
/-- T from 0 to 7. -/
def intT : List Nat := [0, 1, 2, 3, 4, 5, 6, 7]
/-- T 8, 9 or 10. -/
def fpT : List Nat := [8, 9, 10]
/-- T from 0 to 10. -/
def numT : List Nat := [0, 1, 2, 3, 4, 5, 6, 7, 8, 9, 10]
/-- T whose elements are whole bytes: 0 to 12, and 14 (R305). -/
def byteT : List Nat := [0, 1, 2, 3, 4, 5, 6, 7, 8, 9, 10, 11, 12, 14]
/-- T of VACC (R308). -/
def accT : List Nat := [0, 2, 4, 8, 9, 10, 11, 12]
/-- A summing reduction: the rounding code of a float T, zero for an integer T (R299). -/
def wfSum (rm : BitVec 3) (f : FmtV) : Bool :=
  oneOf f.t numT && rsv f.vb && (if 8 ≤ f.t.toNat then rmOk rm else rsv rm)
/-- The array commands MMUL and MMULS (R316, R317). -/
def wfArray (f : FmtM) : Bool :=
  (fmtIntClass f.fmta == fmtIntClass f.fmtb) && f.acc.toNat + (f.ks.extractLsb' 0 6).toNat ≤ 63
/-- Fences (R337). -/
def wfFence (f : FmtS) : Bool := rsv f.d && rsv f.a && rsv f.b && rsv f.c && rsv f.sz && scopeOk f.mod
/-- Atomics (R340); `host` says whether host storage is allowed. -/
def wfAtomic (host : Bool) (f : FmtS) : Bool :=
  oneOf f.sz [2, 3] && scopeOk f.mod && (host || f.mod.extractLsb' 0 2 != 3)
/-- Exact-cell rows (R343). -/
def wfCell (f : FmtS) : Bool := (f.mod.extractLsb' 0 2 == 1) && scopeOk f.mod
/-- A P-format row that names only register a (R355). -/
def wfPa (f : FmtP) : Bool := rsv f.d && rsv f.b && rsv f.imm
/-- MIGCMD with command `n` (R362). -/
def wfMig (n : Nat) (f : FmtP) : Bool := f.imm.toNat == n
/-- PMCMD with operation `n` (R362). -/
def wfPm (n : Nat) (f : FmtP) : Bool := f.imm.toNat == n && rsv f.b
/-- PMCMD with operation 0x14, RELCTX, or one that R364 does not list, which answers BAD_REQ. -/
def wfRel (f : FmtP) : Bool := 0x14 ≤ f.imm.toNat && f.imm.toNat ≤ 0xFF && rsv f.b
/-- KEYCMD with operation `n` (R362). -/
def wfKey (n : Nat) (f : FmtP) : Bool := f.imm.toNat == n && rsv f.b

/-- The word-only checks of R198 step 5. -/
def Instr.wf : Instr → Bool
  | .add f | .sub f | .mul f | .mulh f | .mulhn f | .div f | .divn f | .rem f | .remn f => wfAlu2 f
  | .mad f => rsvBits f.mod 1 4
  | .and f | .or f | .xor f | .andn f | .orn f | .xnor f | .shl f | .shr f | .sar f | .rol f | .ror f => wfAlu2 f
  | .min f | .max f | .minn f | .maxn f | .slt f | .sltn f | .seq f | .sne f | .bext f | .bdep f => wfAlu2 f
  | .sel f => rsvBits f.c 3 3 && rsvBits f.mod 1 4
  | .clz f | .ctz f | .popc f | .brev f => wfAlu1 f
  | .addImm _ | .mulImm _ | .andImm _ | .orImm _ | .xorImm _ | .shlImm _ | .shrImm _ | .sarImm _ | .rolImm _
  | .rorImm _ | .minImm _ | .maxImm _ | .sltImm _ | .sltnImm _ | .seqImm _ | .sneImm _ => true
  | .ldi _ => true
  | .ldhi f => rsvBits f.imm 32 2
  | .fadd f | .fsub f | .fmul f | .fdiv f => wfFp f && rsv f.c
  | .ffma f => wfFp f
  | .fsqrt f => wfFp f && rsv f.b && rsv f.c
  | .fmin f | .fmax f => oneOf f.sz [2, 3] && rsv f.c && rsv f.mod
  | .fcvt f => wfFcvt f
  | .fcmp f => oneOf f.sz [2, 3] && rsvBits f.d 3 3 && atMost f.c 4 && rsv f.mod
  | .fclass f => oneOf f.sz [2, 3] && rsv f.b && rsv f.c && rsv f.mod
  | .pset f => rsvBits f.d 3 3 && atMost f.c 7 && rsv f.mod
  | .pand f | .por f | .pxor f => wfPred f
  | .pnot f => wfPred f && rsv f.b
  | .br f => atMost f.cnd 7 || (atMost f.cnd 9 && rsv f.b && rsvBits f.a 3 3)
  | .jmp f => rsv f.d && rsv f.a
  | .jmpr f => rsv f.d
  | .call f => rsv f.a
  | .ret f => rsv f.d && rsv f.imm
  | .loop f => rsv f.a && f.d != 0
  | .ld _ _ f | .st _ f => scopeOk f.mod
  | .ldx _ _ f | .stx _ f => scopeOk f.mod && rsv f.c
  | .mfc f => rsv f.a && atMost f.imm 255 && oneOf f.imm cregNumbers
  | .mtc f => rsv f.d && atMost f.imm 255 && oneOf f.imm cregNumbers
  | .qpush f => wfQueue f && rsv f.d
  | .qpop f | .qpeek f => wfQueue f && rsv f.a
  | .qlevel f => rsvBits f.b 4 2 && rsv f.c && rsv f.mod && rsv f.sz && rsv f.a
  | .nop f | .endTask f | .halt f => rsv f.d && rsv f.a && rsv f.imm
  | .yield f => rsv f.d && rsv f.a && rsvBits f.imm 10 13
  | .suspend f => rsv f.d && rsv f.a && rsvBits f.imm 15 8 && atMost (f.imm.extractLsb' 0 14) 10922
  | .trap f | .bkpt f => rsv f.d && rsv f.a && rsvBits f.imm 16 7
  | .vld _ _ _ | .vldx _ _ _ | .vst _ _ _ | .vstx _ _ _ => true
  | .gath _ c f => c != 3 && rsvBits f.step 2 12
  | .scat _ c f => c != 3 && rsvBits f.step 2 12 && f.q.toNat != 8 + (f.step.extractLsb' 0 2).toNat
  | .lds _ _ _ | .sts _ _ _ => true
  | .movs f => rsvBits f.b 3 3 && rsv f.step
  | .pref stor k f => oneOf stor [1, 3] && atMost k 6 && rsv f.q
  | .probe _ | .probeNf _ => true
  | .probeInv f | .probeCfg f => rsv f.off
  | .copy f => uwOk f.uw && atMost f.sc 5
  | .cwaita f | .cfind f => rsvBits f.imm 1 17
  | .cwaitl f => rsvBits f.imm 1 17 && rsv f.b
  | .vadd f | .vsub f | .vmul f | .vmulh f | .vmin f | .vmax f | .vadds f | .vsubs f | .vavg f => wfV intT f
  | .vabs f | .vneg f => wfV1 [0, 2, 4, 6] f
  | .vmaxd _ f => wfV [0, 1, 2, 3, 4, 5] f
  | .vand f | .vor f | .vxor f | .vandn f | .vshl f | .vshr f | .vsar f => wfV intT f
  | .vfadd rm f | .vfsub rm f | .vfmul rm f | .vffma rm f | .vfdiv rm f => wfV fpT f && rmOk rm
  | .vfmin f | .vfmax f => wfV fpT f
  | .vexp2 rm f => wfV fpT f && rmOk rm
  | .vlog2 rm f | .vrcp rm f | .vrsqrt rm f => wfV1 fpT f && rmOk rm
  | .vrsum rm f | .vcsum rm f => wfSum rm f
  | .vrmax f | .vrmin f | .vcmax f | .vargmax f => wfV1 numT f
  | .vcvt _ rm f => wfV1 (anyT.erase 14) f && rmOk rm
  | .vqmx f => wfV [0, 11, 12, 13] f
  | .vdqmx _ rm f => wfV fpT f && rmOk rm
  | .vcmp cc f => atMost cc 4 && wfV numT f && (cc != 4 || wfV fpT f)
  | .vsel f => wfV anyT f
  | .vmov f | .vbcastRow f | .vbcastCol f | .vbcastOne f | .vpopq f | .vpushq f => wfV1 anyT f
  | .vtrans f => wfV1 byteT f
  | .vslide f | .vperm f => wfV byteT f
  | .vacc _ rm f | .vaccZ _ rm f => wfV accT f && rsvBits f.vb 0 2 && rmOk rm
  | .vaccw f => wfV fpT f && rsvBits f.vb 0 2
  | .vaccwAdd rm f => wfV fpT f && rsvBits f.vb 0 2 && rmOk rm
  | .veRepetitionExecute _ => true
  | .mloadw f => rsv f.ra && rsv f.acc && rsv f.fmta && rsvBits f.ks 2 6 && (!f.ks.getLsbD 1 || fmtSparseOk f.fmtb)
  | .mswap f => rsv f.ra && rsv f.rb && rsv f.acc && rsv f.fmta && rsv f.fmtb && rsv f.ks
  | .mmul f => wfArray f && rsv f.rb && rsvBits f.ks 6 2
  | .mmuls f => wfArray f && rsv f.rb && rsvBits f.ks 6 1 && fmtSparseOk f.fmtb
  | .mzero f =>
    rsv f.ra && rsv f.rb && rsv f.fmta && rsv f.fmtb && rsvBits f.ks 6 1 &&
      f.acc.toNat + (f.ks.extractLsb' 0 6).toNat ≤ 63
  | .meCommandStart _ _ | .meCommandRetire _ => true
  | .semsig f | .semwait f => rsv f.d && rsv f.a && rsv f.b && rsvBits f.imm 5 13
  | .mfence f => rsv f.d && rsv f.a && rsv f.b && rsv f.imm
  | .fence f | .ofence f | .xfence f => wfFence f
  | .mark f => rsv f.d && rsv f.a && rsv f.b && rsv f.c && rsv f.sz && rsv f.mod
  | .aadd _ f | .aswap _ f => wfAtomic true f && rsv f.c
  | .aand _ f | .aor _ f | .axor _ f | .amin _ f | .amax _ f | .aminn _ f | .amaxn _ f => wfAtomic false f && rsv f.c
  | .acas _ f => wfAtomic true f
  | .afxinit _ f => wfCell f && rsv f.sz && rsv f.d && rsv f.c
  | .afxadd _ f => wfCell f && oneOf f.sz [1, 2] && rsv f.d && rsv f.c
  | .afxrd _ f | .afxrdClr _ f => wfCell f && oneOf f.sz [2, 3] && rsv f.b
  | .barinit f => atMost f.imm 4
  | .bar f => atMost f.imm 1 && rsv f.b
  | .ctradd f => f.imm != 0 && atMost f.imm 63 && rsv f.d && rsv f.b
  | .ctrrd f => atMost f.imm 1 && rsv f.b
  | .tagalloc _ => true
  | .publ f | .tagfree f => wfPa f
  | .tagqry f => rsv f.b && rsv f.imm
  | .spawn f => atMost f.imm 1 && rsv f.b
  | .spawnW f => f.imm.getLsbD 1 && atMost f.imm 255 && rsv f.b
  | .evwait f =>
    f.imm.extractLsb' 0 8 != 0 && atMost f.imm 0x1FF && rsv f.a && rsv f.b && f.d != 0 && atMost f.d 56
  | .evdone f | .olock f | .orel f => wfPa f
  | .tmarm f => rsv f.d && rsv f.imm
  | .tmrd f => rsv f.b && rsv f.imm
  | .notify f => rsv f.d && rsv f.imm
  | .pksend f => rsv f.b && rsv f.imm
  | .trgarmEntry f => f.imm.toNat == 0
  | .trgarmDesc f => f.imm.toNat == 1
  | .trgdisEntry f => f.imm.toNat == 0 && rsv f.b
  | .trgdisDesc f => f.imm.toNat == 1 && rsv f.b
  | .trgrdEntry f => !f.imm.getLsbD 0 && atMost f.imm 15 && rsv f.b
  | .trgrdDesc f => f.imm.getLsbD 0 && atMost f.imm 7 && rsv f.b
  | .start f => wfMig 0 f
  | .cancel f => wfMig 1 f
  | .query f => wfMig 2 f
  | .release f => wfMig 3 f
  | .livemark f => wfMig 4 f
  | .hotcfg f => wfMig 5 f
  | .errlog f => wfMig 6 f
  | .pcreate f => wfPm 0x00 f
  | .pchange f => wfPm 0x01 f
  | .preset f => wfPm 0x02 f
  | .pdestroy f => wfPm 0x03 f
  | .quota f => wfPm 0x04 f
  | .ctralloc f => wfPm 0x05 f
  | .ctrfree f => wfPm 0x06 f
  | .frame f => wfPm 0x07 f
  | .shslot f => wfPm 0x08 f
  | .wdog f => wfPm 0x09 f
  | .xlate f => wfPm 0x0A f
  | .inval f => wfPm 0x0B f
  | .track f => wfPm 0x0C f
  | .ovq f => wfPm 0x0D f
  | .rxovf f => wfPm 0x0E f
  | .nbind f => wfPm 0x0F f
  | .jbind f => wfPm 0x10 f
  | .bufrd f => wfPm 0x11 f
  | .ownrd f => wfPm 0x12 f
  | .debug f => wfPm 0x13 f
  | .discard f => wfRel f
  | .resume f | .save f | .load f | .stopw f | .startw f | .dhalt f | .dresume f => wfPm 0x14 f
  | .wcreate f => wfKey 0 f
  | .wdestroy f => wfKey 1 f
  | .linkgen f => wfKey 2 f
  | .wkimport f => wfKey 3 f
  | .wkgen f => wfKey 4 f
  | .seal f => wfKey 5 f
  | .attest f => wfKey 6 f
  | .health f => wfKey 7 f
  | .securityCompletion _ | .trngHealthFail | .trngRecovery => true
  | .dlogswap f => rsv f.imm
  | .admission | .overflowReturn _ | .dispatch _ | .taskRetirement _ | .taskSuspension _ | .watchdogExpiry _
  | .queueDeadlock _ | .faultStop _ | .deferredFault _ _ | .lateResponse _ _ | .poison _ | .frameEdge _
  | .sealedFrameStart _ | .contextRestore _ | .copyRingAllocate _ _ | .copyQueuePush _ _ | .copyComplete _ _
  | .uetPacketArrival _ | .taggedSendMatch _ | .rmaAccess _ | .rmaAtomic _ | .domainRemoteAccess _
  | .remoteResponse _ _ | .sendCompletion _ _ | .triggerLaunch _ | .triggerCopy _ | .triggerSend _
  | .triggerEvent _ | .notifyWrite _ | .lanternPost _ | .timerExpiry _ _ | .timeStep _ | .msixDoorbell _
  | .registerWrite _ _ | .dupWriteRelease _ | .crumbCopy _ | .motionCommit _ | .motionComplete _
  | .motionDestFailure _ _ | .motionSourceFailure _ _ | .motionAbortComplete _ | .t2LinkDown _ | .t2LinkUp _
  | .memoryScrub _ | .coldReset | .warmReset | .maintReset _ | .opPointChange _ | .thermalAlarm _ _
  | .thermalShutdown _ | .firmwareMailboxWrite _ _ => true

end Sys2Proof
end

