-- ==== Sys2Proof/Decode.lean ====
section
/-! DEFINITION. The decoder of the 48-bit instruction word, total and rejecting by name (R191 to R198), and the
encoder written from the same tables. Whether a stream may run a word is decided when the word executes. -/

namespace Sys2Proof

/-- Why a word is no instruction. Each is ILLEGAL_INSTR (R198 steps 2, 4 and 5). -/
inductive DecodeError where
  /-- OP is 0x00 or reserved (step 2). -/
  | reservedOp
  /-- FN is not assigned in its group (step 4). -/
  | unassignedFn
  /-- A reserved field is nonzero or a field holds a reserved code (step 5). -/
  | reservedField
  deriving DecidableEq, Repr

/-! ## Fields of the ten formats (R192) -/

/-- OP, bits [47:42]. -/
def opOf (w : Insn) : BitVec 6 := w.extractLsb' 42 6

def unpackS (w : Insn) : FmtS :=
  { d := w.extractLsb' 28 6, a := w.extractLsb' 22 6, b := w.extractLsb' 16 6, c := w.extractLsb' 10 6,
    pg := w.extractLsb' 7 3, sz := w.extractLsb' 5 2, mod := w.extractLsb' 0 5 }
def unpackI (w : Insn) : FmtI :=
  { d := w.extractLsb' 32 6, a := w.extractLsb' 26 6, pg := w.extractLsb' 23 3, imm := w.extractLsb' 0 23 }
def unpackL (w : Insn) : FmtL := { d := w.extractLsb' 34 6, imm := w.extractLsb' 0 34 }
def unpackB (w : Insn) : FmtB :=
  { cnd := w.extractLsb' 38 4, a := w.extractLsb' 32 6, b := w.extractLsb' 26 6, off := w.extractLsb' 0 26 }
def unpackA (w : Insn) : FmtA :=
  { q := w.extractLsb' 32 4, b := w.extractLsb' 26 6, step := w.extractLsb' 12 14, rep := w.extractLsb' 0 12 }
def unpackV (w : Insn) : FmtV :=
  { vd := w.extractLsb' 31 4, va := w.extractLsb' 27 4, vb := w.extractLsb' 23 4, t := w.extractLsb' 19 4,
    stp := w.extractLsb' 15 4, pm := w.extractLsb' 12 3, rep := w.extractLsb' 0 12 }
def unpackM (w : Insn) : FmtM :=
  { ra := w.extractLsb' 35 3, rb := w.extractLsb' 32 3, acc := w.extractLsb' 26 6, fmta := w.extractLsb' 22 4,
    fmtb := w.extractLsb' 18 4, ws := w.extractLsb' 13 5, ss := w.extractLsb' 8 5, ks := w.extractLsb' 0 8 }
def unpackC (w : Insn) : FmtC :=
  { desc := w.extractLsb' 34 6, tag := w.extractLsb' 28 6, uw := w.extractLsb' 12 16, sc := w.extractLsb' 8 4,
    buf := w.extractLsb' 0 8 }
def unpackP (w : Insn) : FmtP :=
  { d := w.extractLsb' 30 6, a := w.extractLsb' 24 6, b := w.extractLsb' 18 6, imm := w.extractLsb' 0 18 }
def unpackQ (w : Insn) : FmtQ :=
  { d := w.extractLsb' 34 6, a := w.extractLsb' 28 6, tt := w.extractLsb' 25 3, off := w.extractLsb' 0 25 }

/-! ## FN of each group -/

/-- Rows of major 0x01 (R233). -/
def aluRows : List (Nat × (FmtS → Instr)) :=
  [(0x00, .add), (0x01, .sub), (0x02, .mul), (0x03, .mulh), (0x04, .mulhn), (0x05, .div), (0x06, .divn),
    (0x07, .rem), (0x08, .remn), (0x09, .mad), (0x10, .and), (0x11, .or), (0x12, .xor), (0x13, .andn),
    (0x14, .orn), (0x15, .xnor), (0x18, .shl), (0x19, .shr), (0x1A, .sar), (0x1B, .rol), (0x1C, .ror)] ++
  [(0x20, .min), (0x21, .max), (0x22, .minn), (0x23, .maxn), (0x24, .slt), (0x25, .sltn), (0x26, .seq),
    (0x27, .sne), (0x28, .sel), (0x30, .clz), (0x31, .ctz), (0x32, .popc), (0x33, .brev), (0x34, .bext),
    (0x35, .bdep)]
/-- Rows of major 0x02 (R235). -/
def immRows : List (Nat × (FmtI → Instr)) :=
  [(0x0, .addImm), (0x1, .mulImm), (0x2, .andImm), (0x3, .orImm), (0x4, .xorImm), (0x5, .shlImm), (0x6, .shrImm),
    (0x7, .sarImm), (0x8, .rolImm), (0x9, .rorImm), (0xA, .minImm), (0xB, .maxImm), (0xC, .sltImm),
    (0xD, .sltnImm), (0xE, .seqImm), (0xF, .sneImm)]
/-- Rows of major 0x03 (R236). -/
def ldiRows : List (Nat × (FmtL → Instr)) := [(0, .ldi), (1, .ldhi)]
/-- Rows of major 0x04 (R237). -/
def fpRows : List (Nat × (FmtS → Instr)) :=
  [(0x00, .fadd), (0x01, .fsub), (0x02, .fmul), (0x03, .ffma), (0x04, .fdiv), (0x05, .fsqrt), (0x06, .fmin),
    (0x07, .fmax), (0x08, .fcvt), (0x09, .fcmp), (0x0A, .fclass)]
/-- Rows of major 0x05 (R242). -/
def predRows : List (Nat × (FmtS → Instr)) :=
  [(0x00, .pset), (0x01, .pand), (0x02, .por), (0x03, .pxor), (0x04, .pnot)]
/-- Rows of major 0x07 (R244). -/
def jumpRows : List (Nat × (FmtI → Instr)) := [(0, .jmp), (1, .jmpr), (2, .call), (3, .ret), (4, .loop)]
/-- Rows of major 0x09 (R249). -/
def cregRows : List (Nat × (FmtI → Instr)) := [(0, .mfc), (1, .mtc)]
/-- Rows of major 0x0A (R252). -/
def queueRows : List (Nat × (FmtS → Instr)) := [(0x00, .qpush), (0x01, .qpop), (0x02, .qpeek), (0x03, .qlevel)]
/-- Rows of major 0x0B (R253). -/
def systemRows : List (Nat × (FmtI → Instr)) :=
  [(0, .nop), (1, .endTask), (2, .yield), (3, .suspend), (4, .trap), (5, .bkpt), (6, .halt)]
/-- Rows of major 0x14 (R267). -/
def probeRows : List (Nat × (FmtQ → Instr)) := [(0, .probe), (1, .probeNf), (2, .probeInv), (3, .probeCfg)]
/-- Rows of major 0x19 (R285). -/
def cwaitRows : List (Nat × (FmtP → Instr)) := [(0, .cwaita), (1, .cwaitl), (2, .cfind)]
/-- Rows of major 0x20 but VMAXD (R292). -/
def vintRows : List (Nat × (FmtV → Instr)) :=
  [(0x00, .vadd), (0x01, .vsub), (0x02, .vmul), (0x03, .vmulh), (0x04, .vmin), (0x05, .vmax), (0x06, .vabs),
    (0x07, .vneg), (0x08, .vadds), (0x09, .vsubs), (0x0A, .vavg), (0x18, .vmaxd 0), (0x19, .vmaxd 1),
    (0x1A, .vmaxd 2), (0x1B, .vmaxd 3)]
/-- Rows of major 0x21 (R293). -/
def vlogRows : List (Nat × (FmtV → Instr)) :=
  [(0x00, .vand), (0x01, .vor), (0x02, .vxor), (0x03, .vandn), (0x08, .vshl), (0x09, .vshr), (0x0A, .vsar)]
/-- Rows of major 0x22 that round, by FN[6:3] (R295). -/
def vfpRows : List (Nat × (BitVec 3 → FmtV → Instr)) :=
  [(0, .vfadd), (1, .vfsub), (2, .vfmul), (3, .vffma), (4, .vfdiv)]
/-- Rows of major 0x23, by FN[6:3] (R296). -/
def vspecRows : List (Nat × (BitVec 3 → FmtV → Instr)) := [(0, .vexp2), (1, .vlog2), (2, .vrcp), (3, .vrsqrt)]
/-- Rows of major 0x26 (R304). -/
def vcmpRows : List (Nat × (FmtV → Instr)) :=
  [(0, .vcmp 0), (1, .vcmp 1), (2, .vcmp 2), (3, .vcmp 3), (4, .vcmp 4), (8, .vsel)]
/-- Rows of major 0x27 (R305). -/
def vmovRows : List (Nat × (FmtV → Instr)) :=
  [(0x00, .vmov), (0x01, .vbcastRow), (0x02, .vbcastCol), (0x03, .vbcastOne), (0x08, .vpopq), (0x09, .vpushq),
    (0x10, .vtrans), (0x18, .vslide), (0x19, .vperm)]
/-- Rows of major 0x30 (R316). -/
def matrixRows : List (Nat × (FmtM → Instr)) :=
  [(0, .mloadw), (1, .mswap), (2, .mmul), (3, .mmuls), (4, .mzero)]
/-- Rows of major 0x31 (R328). -/
def semRows : List (Nat × (FmtP → Instr)) := [(0, .semsig), (1, .semwait), (2, .mfence)]
/-- Rows of major 0x34 (R337). -/
def fenceRows : List (Nat × (FmtS → Instr)) := [(0x00, .fence), (0x01, .ofence), (0x02, .xfence), (0x03, .mark)]
/-- Rows of major 0x36, by FN[3:0] (R340). -/
def atomicRows : List (Nat × (BitVec 2 → FmtS → Instr)) :=
  [(0, .aadd), (1, .aand), (2, .aor), (3, .axor), (4, .amin), (5, .amax), (6, .aminn), (7, .amaxn), (8, .aswap),
    (9, .acas)]
/-- Rows of major 0x37, by FN[3:0] (R343). -/
def cellRows : List (Nat × (BitVec 2 → FmtS → Instr)) := [(0, .afxinit), (1, .afxadd), (2, .afxrd), (3, .afxrdClr)]
/-- Rows of major 0x35 (R346). -/
def barRows : List (Nat × (FmtP → Instr)) := [(0, .barinit), (1, .bar)]
/-- Rows of major 0x38 (R350). -/
def ctrRows : List (Nat × (FmtP → Instr)) := [(0, .ctradd), (1, .ctrrd)]
/-- Rows of major 0x39 (R351). -/
def tagRows : List (Nat × (FmtP → Instr)) := [(0, .tagalloc), (1, .publ), (2, .tagqry), (3, .tagfree)]
/-- Rows of major 0x3C (R355). -/
def npEventRows : List (Nat × (FmtP → Instr)) :=
  [(0, .evwait), (1, .evdone), (2, .olock), (3, .orel), (4, .tmarm), (5, .tmrd)]
/-- MIGCMD commands (R139). -/
def migRows : List (Nat × (FmtP → Instr)) :=
  [(0, .start), (1, .cancel), (2, .query), (3, .release), (4, .livemark), (5, .hotcfg), (6, .errlog)]
/-- PMCMD operations but RELCTX (R364). -/
def pmRows : List (Nat × (FmtP → Instr)) :=
  [(0x00, .pcreate), (0x01, .pchange), (0x02, .preset), (0x03, .pdestroy), (0x04, .quota), (0x05, .ctralloc),
    (0x06, .ctrfree), (0x07, .frame), (0x08, .shslot), (0x09, .wdog), (0x0A, .xlate), (0x0B, .inval),
    (0x0C, .track), (0x0D, .ovq), (0x0E, .rxovf), (0x0F, .nbind), (0x10, .jbind), (0x11, .bufrd),
    (0x12, .ownrd), (0x13, .debug)]
/-- Major 0x08 (R246). -/
def decodeMem (fn : BitVec 8) (f : FmtS) : Option Instr :=
  if fn.extractLsb' 4 4 != 0 then none
  else match fn.getLsbD 3, fn.getLsbD 2 with
    | false, false => some (.ld (fn.getLsbD 1) (fn.getLsbD 0) f)
    | false, true => some (.ldx (fn.getLsbD 1) (fn.getLsbD 0) f)
    | true, false => if fn.getLsbD 1 then none else some (.st (fn.getLsbD 0) f)
    | true, true => if fn.getLsbD 1 then none else some (.stx (fn.getLsbD 0) f)

/-- Majors 0x10 and 0x11 (R259). -/
def decodeRow (load : Bool) (fn : BitVec 6) (f : FmtA) : Instr :=
  let stor := fn.extractLsb' 3 2
  let k := fn.extractLsb' 0 3
  match load, fn.getLsbD 5 with
  | true, false => .vld stor k f
  | true, true => .vldx stor k f
  | false, false => .vst stor k f
  | false, true => .vstx stor k f

/-- Major 0x12 (R261). -/
def decodeGath (fn : BitVec 6) (f : FmtA) : Option Instr :=
  if fn.getLsbD 0 then none
  else if fn.getLsbD 5 then some (.scat (fn.extractLsb' 3 2) (fn.extractLsb' 1 2) f)
  else some (.gath (fn.extractLsb' 3 2) (fn.extractLsb' 1 2) f)

/-- Major 0x13 (R263). -/
def decodeLds (fn : BitVec 6) (f : FmtA) : Option Instr :=
  let stor := fn.extractLsb' 4 2
  let c := fn.extractLsb' 2 2
  match (fn.extractLsb' 0 2).toNat with
  | 0 => some (.lds stor c f)
  | 1 => some (.sts stor c f)
  | 2 => if fn.extractLsb' 2 4 == 0 then some (.movs f) else none
  | _ => none

/-- Major 0x22 (R295). -/
def decodeVfp (fn : BitVec 7) (f : FmtV) : Option Instr :=
  match (fn.extractLsb' 3 4).toNat with
  | 5 => if fn.extractLsb' 0 3 == 0 then some (.vfmin f) else none
  | 6 => if fn.extractLsb' 0 3 == 0 then some (.vfmax f) else none
  | n => (vfpRows.lookup n).map fun c => c (fn.extractLsb' 0 3) f

/-- Major 0x24 (R299). -/
def decodeVred (fn : BitVec 7) (f : FmtV) : Option Instr :=
  let rm := fn.extractLsb' 0 3
  match (fn.extractLsb' 3 4).toNat with
  | 0 => some (.vrsum rm f)
  | 3 => some (.vcsum rm f)
  | 1 => if rm == 0 then some (.vrmax f) else none
  | 2 => if rm == 0 then some (.vrmin f) else none
  | 4 => if rm == 0 then some (.vcmax f) else none
  | 5 => if rm == 0 then some (.vargmax f) else none
  | _ => none

/-- Major 0x25 (R301). -/
def decodeVcvt (fn : BitVec 7) (f : FmtV) : Option Instr :=
  match (fn.extractLsb' 4 3).toNat with
  | 0 => some (.vcvt (fn.getLsbD 3) (fn.extractLsb' 0 3) f)
  | 1 => if fn.extractLsb' 0 4 == 0 then some (.vqmx f) else none
  | 2 => some (.vdqmx (fn.getLsbD 3) (fn.extractLsb' 0 3) f)
  | _ => none

/-- Major 0x28 (R307). -/
def decodeVacc (fn : BitVec 7) (f : FmtV) : Option Instr :=
  match (fn.extractLsb' 4 3).toNat with
  | 0 => some (.vacc (fn.getLsbD 3) (fn.extractLsb' 0 3) f)
  | 1 => some (.vaccZ (fn.getLsbD 3) (fn.extractLsb' 0 3) f)
  | 2 => if fn.extractLsb' 0 4 == 0 then some (.vaccw f) else none
  | 3 => if fn.getLsbD 3 then none else some (.vaccwAdd (fn.extractLsb' 0 3) f)
  | _ => none

/-- Major 0x15 (R264). -/
def decodePref (fn : BitVec 6) (f : FmtA) : Instr := .pref (fn.extractLsb' 4 2) (fn.extractLsb' 0 4) f

/-- Majors 0x36 and 0x37: FN[7:6] is 0, FN[5:4] the ordering (R340, R343). -/
def decodeOrd (rows : List (Nat × (BitVec 2 → FmtS → Instr))) (fn : BitVec 8) (f : FmtS) : Option Instr :=
  if fn.extractLsb' 6 2 != 0 then none
  else (rows.lookup (fn.extractLsb' 0 4).toNat).map fun c => c (fn.extractLsb' 4 2) f

/-- Major 0x3D (R359). -/
def decodeNet (fn : BitVec 6) (f : FmtP) : Option Instr :=
  let desc := f.imm.getLsbD 0
  match fn.toNat with
  | 0 => some (.notify f)
  | 1 => some (.pksend f)
  | 2 => some (if desc then .trgarmDesc f else .trgarmEntry f)
  | 3 => some (if desc then .trgdisDesc f else .trgdisEntry f)
  | 4 => some (if desc then .trgrdDesc f else .trgrdEntry f)
  | _ => none

/-- Major 0x3E but KEYCMD (R362). PMCMD 0x14 and the codes that R364 does not list are read as `.discard`; the step chooses the
RELCTX row by the request block's action (R389). -/
def decodeSup (fn : BitVec 6) (f : FmtP) : Option Instr :=
  match fn.toNat with
  | 0 => (migRows.lookup (f.imm.extractLsb' 0 3).toNat).map fun c => c f
  | 1 => some (((pmRows.lookup (f.imm.extractLsb' 0 8).toNat).getD .discard) f)
  | 3 => some (.dlogswap f)
  | _ => none

/-- The row of a group whose FN selects it alone. -/
def pick {α : Type} (rows : List (Nat × (α → Instr))) {n : Nat} (fn : BitVec n) (f : α) : Option Instr :=
  (rows.lookup fn.toNat).map fun c => c f

/-- The groups of R197: `none` for OP 0x00 and the reserved values, otherwise the row FN selects, if any. -/
def decodeGroup (w : Insn) : Option (Option Instr) :=
  let fnS : BitVec 8 := w.extractLsb' 34 8
  let fnI : BitVec 4 := w.extractLsb' 38 4
  let fn6 : BitVec 6 := w.extractLsb' 36 6
  let fnV : BitVec 7 := w.extractLsb' 35 7
  let fn2 : BitVec 2 := w.extractLsb' 40 2
  match (opOf w).toNat with
  | 0x01 => some (pick aluRows fnS (unpackS w))
  | 0x02 => some (pick immRows fnI (unpackI w))
  | 0x03 => some (pick ldiRows fn2 (unpackL w))
  | 0x04 => some (pick fpRows fnS (unpackS w))
  | 0x05 => some (pick predRows fnS (unpackS w))
  | 0x06 => some (if atMost (unpackB w).cnd 9 then some (.br (unpackB w)) else none)
  | 0x07 => some (pick jumpRows fnI (unpackI w))
  | 0x08 => some (decodeMem fnS (unpackS w))
  | 0x09 => some (pick cregRows fnI (unpackI w))
  | 0x0A => some (pick queueRows fnS (unpackS w))
  | 0x0B => some (pick systemRows fnI (unpackI w))
  | 0x10 => some (some (decodeRow true fn6 (unpackA w)))
  | 0x11 => some (some (decodeRow false fn6 (unpackA w)))
  | 0x12 => some (decodeGath fn6 (unpackA w))
  | 0x13 => some (decodeLds fn6 (unpackA w))
  | 0x14 => some (pick probeRows fn2 (unpackQ w))
  | 0x15 => some (some (decodePref fn6 (unpackA w)))
  | 0x18 => some (if fn2 == 0 then some (.copy (unpackC w)) else none)
  | 0x19 => some (pick cwaitRows fn6 (unpackP w))
  | 0x20 => some (pick vintRows fnV (unpackV w))
  | 0x21 => some (pick vlogRows fnV (unpackV w))
  | 0x22 => some (decodeVfp fnV (unpackV w))
  | 0x23 => some ((vspecRows.lookup (fnV.extractLsb' 3 4).toNat).map fun c => c (fnV.extractLsb' 0 3) (unpackV w))
  | 0x24 => some (decodeVred fnV (unpackV w))
  | 0x25 => some (decodeVcvt fnV (unpackV w))
  | 0x26 => some (pick vcmpRows fnV (unpackV w))
  | 0x27 => some (pick vmovRows fnV (unpackV w))
  | 0x28 => some (decodeVacc fnV (unpackV w))
  | 0x30 => some (pick matrixRows fnI (unpackM w))
  | 0x31 => some (pick semRows fn6 (unpackP w))
  | 0x34 => some (pick fenceRows fnS (unpackS w))
  | 0x35 => some (pick barRows fn6 (unpackP w))
  | 0x36 => some (decodeOrd atomicRows fnS (unpackS w))
  | 0x37 => some (decodeOrd cellRows fnS (unpackS w))
  | 0x38 => some (pick ctrRows fn6 (unpackP w))
  | 0x39 => some (pick tagRows fn6 (unpackP w))
  | 0x3A => some (if fn6 == 0 then some (if (unpackP w).imm.getLsbD 1 then .spawnW (unpackP w) else .spawn (unpackP w)) else none)
  | 0x3C => some (pick npEventRows fn6 (unpackP w))
  | 0x3D => some (decodeNet fn6 (unpackP w))
  | 0x3E => some (decodeSup fn6 (unpackP w))
  | _ => none

/-- What the decoder reads from a word: the row of a group table, or a KEYCMD with its operation (R170). -/
inductive Decoded where
  | row (i : Instr)
  | key (op : BitVec 3) (f : FmtP)
  deriving DecidableEq, Repr

/-- The decoder: steps 2, 4 and 5 (first part) of R198. -/
def decodeWord (w : Insn) : Except DecodeError Decoded :=
  if opOf w == 0x3E && w.extractLsb' 36 6 == 2 then
    let f := unpackP w
    if wfKey (f.imm.extractLsb' 0 3).toNat f then .ok (.key (f.imm.extractLsb' 0 3) f) else .error .reservedField
  else match decodeGroup w with
    | none => .error .reservedOp
    | some none => .error .unassignedFn
    | some (some i) => if i.wf then .ok (.row i) else .error .reservedField

/-- The row of a decoded word. (Lean's compiler does not build the constructors of `Instr` past its 245th, so this
map is for statements; the step calls the same meanings without it.) -/
noncomputable def Decoded.toInstr : Decoded → Instr
  | .row i => i
  | .key op f =>
    match op.toNat with
    | 0 => .wcreate f
    | 1 => .wdestroy f
    | 2 => .linkgen f
    | 3 => .wkimport f
    | 4 => .wkgen f
    | 5 => .seal f
    | 6 => .attest f
    | _ => .health f

/-- The instruction of a word. -/
noncomputable def decode (w : Insn) : Except DecodeError Instr :=
  match decodeWord w with
  | .ok d => .ok d.toInstr
  | .error e => .error e

/-- The little-endian bytes of an instruction word (R3, R191). -/
def insnBytes (w : Insn) : List Byte := (List.range 6).map fun j => w.extractLsb' (8 * j) 8

/-- The instruction word that six bytes hold. -/
def insnOfBytes (l : List Byte) : Insn := l.foldr (fun b w => (w <<< 8) ||| b.setWidth 48) 0

/-- The instruction in bytes: the decoder over six bytes, and the bytes after them. -/
noncomputable def decodeBytes (l : List Byte) : Option (Instr × List Byte) :=
  if l.length < 6 then none
  else match decode (insnOfBytes (l.take 6)) with
    | .ok i => some (i, l.drop 6)
    | .error _ => none

/-- The host's reading of a table row's bits: an instruction is one 48-bit word, bit 0 its least significant bit. -/
noncomputable def decodeTableWord (_nbits w : Nat) : Option Instr :=
  (decodeBytes (insnBytes (BitVec.ofNat 48 w))).map Prod.fst

/-! ## The encoder -/

def packS (op : BitVec 6) (fn : BitVec 8) (f : FmtS) : Insn :=
  op ++ fn ++ f.d ++ f.a ++ f.b ++ f.c ++ f.pg ++ f.sz ++ f.mod
def packI (op : BitVec 6) (fn : BitVec 4) (f : FmtI) : Insn := op ++ fn ++ f.d ++ f.a ++ f.pg ++ f.imm
def packL (op : BitVec 6) (fn : BitVec 2) (f : FmtL) : Insn := op ++ fn ++ f.d ++ f.imm
def packB (op : BitVec 6) (f : FmtB) : Insn := op ++ f.cnd ++ f.a ++ f.b ++ f.off
def packA (op : BitVec 6) (fn : BitVec 6) (f : FmtA) : Insn := op ++ fn ++ f.q ++ f.b ++ f.step ++ f.rep
def packV (op : BitVec 6) (fn : BitVec 7) (f : FmtV) : Insn :=
  op ++ fn ++ f.vd ++ f.va ++ f.vb ++ f.t ++ f.stp ++ f.pm ++ f.rep
def packM (op : BitVec 6) (fn : BitVec 4) (f : FmtM) : Insn :=
  op ++ fn ++ f.ra ++ f.rb ++ f.acc ++ f.fmta ++ f.fmtb ++ f.ws ++ f.ss ++ f.ks
def packC (op : BitVec 6) (f : FmtC) : Insn := op ++ (0 : BitVec 2) ++ f.desc ++ f.tag ++ f.uw ++ f.sc ++ f.buf
def packP (op : BitVec 6) (fn : BitVec 6) (f : FmtP) : Insn := op ++ fn ++ f.d ++ f.a ++ f.b ++ f.imm
def packQ (op : BitVec 6) (fn : BitVec 2) (f : FmtQ) : Insn := op ++ fn ++ f.d ++ f.a ++ f.tt ++ f.off

/-- One bit as a field. -/
def bit1 (b : Bool) : BitVec 1 := BitVec.ofBool b

/-- The word of an instruction (R192, R197 and the group tables); an event row has none. -/
def encode : Instr → Option Insn
  | .add f => some (packS 0x01 0x00 f)
  | .sub f => some (packS 0x01 0x01 f)
  | .mul f => some (packS 0x01 0x02 f)
  | .mulh f => some (packS 0x01 0x03 f)
  | .mulhn f => some (packS 0x01 0x04 f)
  | .div f => some (packS 0x01 0x05 f)
  | .divn f => some (packS 0x01 0x06 f)
  | .rem f => some (packS 0x01 0x07 f)
  | .remn f => some (packS 0x01 0x08 f)
  | .mad f => some (packS 0x01 0x09 f)
  | .and f => some (packS 0x01 0x10 f)
  | .or f => some (packS 0x01 0x11 f)
  | .xor f => some (packS 0x01 0x12 f)
  | .andn f => some (packS 0x01 0x13 f)
  | .orn f => some (packS 0x01 0x14 f)
  | .xnor f => some (packS 0x01 0x15 f)
  | .shl f => some (packS 0x01 0x18 f)
  | .shr f => some (packS 0x01 0x19 f)
  | .sar f => some (packS 0x01 0x1A f)
  | .rol f => some (packS 0x01 0x1B f)
  | .ror f => some (packS 0x01 0x1C f)
  | .min f => some (packS 0x01 0x20 f)
  | .max f => some (packS 0x01 0x21 f)
  | .minn f => some (packS 0x01 0x22 f)
  | .maxn f => some (packS 0x01 0x23 f)
  | .slt f => some (packS 0x01 0x24 f)
  | .sltn f => some (packS 0x01 0x25 f)
  | .seq f => some (packS 0x01 0x26 f)
  | .sne f => some (packS 0x01 0x27 f)
  | .sel f => some (packS 0x01 0x28 f)
  | .clz f => some (packS 0x01 0x30 f)
  | .ctz f => some (packS 0x01 0x31 f)
  | .popc f => some (packS 0x01 0x32 f)
  | .brev f => some (packS 0x01 0x33 f)
  | .bext f => some (packS 0x01 0x34 f)
  | .bdep f => some (packS 0x01 0x35 f)
  | .addImm f => some (packI 0x02 0x0 f)
  | .mulImm f => some (packI 0x02 0x1 f)
  | .andImm f => some (packI 0x02 0x2 f)
  | .orImm f => some (packI 0x02 0x3 f)
  | .xorImm f => some (packI 0x02 0x4 f)
  | .shlImm f => some (packI 0x02 0x5 f)
  | .shrImm f => some (packI 0x02 0x6 f)
  | .sarImm f => some (packI 0x02 0x7 f)
  | .rolImm f => some (packI 0x02 0x8 f)
  | .rorImm f => some (packI 0x02 0x9 f)
  | .minImm f => some (packI 0x02 0xA f)
  | .maxImm f => some (packI 0x02 0xB f)
  | .sltImm f => some (packI 0x02 0xC f)
  | .sltnImm f => some (packI 0x02 0xD f)
  | .seqImm f => some (packI 0x02 0xE f)
  | .sneImm f => some (packI 0x02 0xF f)
  | .ldi f => some (packL 0x03 0 f)
  | .ldhi f => some (packL 0x03 1 f)
  | .fadd f => some (packS 0x04 0x00 f)
  | .fsub f => some (packS 0x04 0x01 f)
  | .fmul f => some (packS 0x04 0x02 f)
  | .ffma f => some (packS 0x04 0x03 f)
  | .fdiv f => some (packS 0x04 0x04 f)
  | .fsqrt f => some (packS 0x04 0x05 f)
  | .fmin f => some (packS 0x04 0x06 f)
  | .fmax f => some (packS 0x04 0x07 f)
  | .fcvt f => some (packS 0x04 0x08 f)
  | .fcmp f => some (packS 0x04 0x09 f)
  | .fclass f => some (packS 0x04 0x0A f)
  | .pset f => some (packS 0x05 0x00 f)
  | .pand f => some (packS 0x05 0x01 f)
  | .por f => some (packS 0x05 0x02 f)
  | .pxor f => some (packS 0x05 0x03 f)
  | .pnot f => some (packS 0x05 0x04 f)
  | .br f => some (packB 0x06 f)
  | .jmp f => some (packI 0x07 0 f)
  | .jmpr f => some (packI 0x07 1 f)
  | .call f => some (packI 0x07 2 f)
  | .ret f => some (packI 0x07 3 f)
  | .loop f => some (packI 0x07 4 f)
  | .ld sgn acq f => some (packS 0x08 ((0 : BitVec 6) ++ bit1 sgn ++ bit1 acq) f)
  | .ldx sgn acq f => some (packS 0x08 ((1 : BitVec 6) ++ bit1 sgn ++ bit1 acq) f)
  | .st rel f => some (packS 0x08 ((4 : BitVec 7) ++ bit1 rel) f)
  | .stx rel f => some (packS 0x08 ((6 : BitVec 7) ++ bit1 rel) f)
  | .mfc f => some (packI 0x09 0 f)
  | .mtc f => some (packI 0x09 1 f)
  | .qpush f => some (packS 0x0A 0x00 f)
  | .qpop f => some (packS 0x0A 0x01 f)
  | .qpeek f => some (packS 0x0A 0x02 f)
  | .qlevel f => some (packS 0x0A 0x03 f)
  | .nop f => some (packI 0x0B 0 f)
  | .endTask f => some (packI 0x0B 1 f)
  | .yield f => some (packI 0x0B 2 f)
  | .suspend f => some (packI 0x0B 3 f)
  | .trap f => some (packI 0x0B 4 f)
  | .bkpt f => some (packI 0x0B 5 f)
  | .halt f => some (packI 0x0B 6 f)
  | .vld stor k f => some (packA 0x10 ((0 : BitVec 1) ++ stor ++ k) f)
  | .vldx stor k f => some (packA 0x10 ((1 : BitVec 1) ++ stor ++ k) f)
  | .vst stor k f => some (packA 0x11 ((0 : BitVec 1) ++ stor ++ k) f)
  | .vstx stor k f => some (packA 0x11 ((1 : BitVec 1) ++ stor ++ k) f)
  | .gath stor c f => some (packA 0x12 ((0 : BitVec 1) ++ stor ++ c ++ (0 : BitVec 1)) f)
  | .scat stor c f => some (packA 0x12 ((1 : BitVec 1) ++ stor ++ c ++ (0 : BitVec 1)) f)
  | .lds stor c f => some (packA 0x13 (stor ++ c ++ (0 : BitVec 2)) f)
  | .sts stor c f => some (packA 0x13 (stor ++ c ++ (1 : BitVec 2)) f)
  | .movs f => some (packA 0x13 2 f)
  | .pref stor k f => some (packA 0x15 (stor ++ k) f)
  | .probe f => some (packQ 0x14 0 f)
  | .probeNf f => some (packQ 0x14 1 f)
  | .probeInv f => some (packQ 0x14 2 f)
  | .probeCfg f => some (packQ 0x14 3 f)
  | .copy f => some (packC 0x18 f)
  | .cwaita f => some (packP 0x19 0 f)
  | .cwaitl f => some (packP 0x19 1 f)
  | .cfind f => some (packP 0x19 2 f)
  | .vadd f => some (packV 0x20 0x00 f)
  | .vsub f => some (packV 0x20 0x01 f)
  | .vmul f => some (packV 0x20 0x02 f)
  | .vmulh f => some (packV 0x20 0x03 f)
  | .vmin f => some (packV 0x20 0x04 f)
  | .vmax f => some (packV 0x20 0x05 f)
  | .vabs f => some (packV 0x20 0x06 f)
  | .vneg f => some (packV 0x20 0x07 f)
  | .vadds f => some (packV 0x20 0x08 f)
  | .vsubs f => some (packV 0x20 0x09 f)
  | .vavg f => some (packV 0x20 0x0A f)
  | .vmaxd n f => some (packV 0x20 ((6 : BitVec 5) ++ n) f)
  | .vand f => some (packV 0x21 0x00 f)
  | .vor f => some (packV 0x21 0x01 f)
  | .vxor f => some (packV 0x21 0x02 f)
  | .vandn f => some (packV 0x21 0x03 f)
  | .vshl f => some (packV 0x21 0x08 f)
  | .vshr f => some (packV 0x21 0x09 f)
  | .vsar f => some (packV 0x21 0x0A f)
  | .vfadd rm f => some (packV 0x22 ((0 : BitVec 4) ++ rm) f)
  | .vfsub rm f => some (packV 0x22 ((1 : BitVec 4) ++ rm) f)
  | .vfmul rm f => some (packV 0x22 ((2 : BitVec 4) ++ rm) f)
  | .vffma rm f => some (packV 0x22 ((3 : BitVec 4) ++ rm) f)
  | .vfdiv rm f => some (packV 0x22 ((4 : BitVec 4) ++ rm) f)
  | .vfmin f => some (packV 0x22 0x28 f)
  | .vfmax f => some (packV 0x22 0x30 f)
  | .vexp2 rm f => some (packV 0x23 ((0 : BitVec 4) ++ rm) f)
  | .vlog2 rm f => some (packV 0x23 ((1 : BitVec 4) ++ rm) f)
  | .vrcp rm f => some (packV 0x23 ((2 : BitVec 4) ++ rm) f)
  | .vrsqrt rm f => some (packV 0x23 ((3 : BitVec 4) ++ rm) f)
  | .vrsum rm f => some (packV 0x24 ((0 : BitVec 4) ++ rm) f)
  | .vrmax f => some (packV 0x24 0x8 f)
  | .vrmin f => some (packV 0x24 0x10 f)
  | .vcsum rm f => some (packV 0x24 ((3 : BitVec 4) ++ rm) f)
  | .vcmax f => some (packV 0x24 0x20 f)
  | .vargmax f => some (packV 0x24 0x28 f)
  | .vcvt sat rm f => some (packV 0x25 ((0 : BitVec 3) ++ bit1 sat ++ rm) f)
  | .vqmx f => some (packV 0x25 0x10 f)
  | .vdqmx sat rm f => some (packV 0x25 ((2 : BitVec 3) ++ bit1 sat ++ rm) f)
  | .vcmp cc f => some (packV 0x26 ((0 : BitVec 4) ++ cc) f)
  | .vsel f => some (packV 0x26 8 f)
  | .vmov f => some (packV 0x27 0x00 f)
  | .vbcastRow f => some (packV 0x27 0x01 f)
  | .vbcastCol f => some (packV 0x27 0x02 f)
  | .vbcastOne f => some (packV 0x27 0x03 f)
  | .vpopq f => some (packV 0x27 0x08 f)
  | .vpushq f => some (packV 0x27 0x09 f)
  | .vtrans f => some (packV 0x27 0x10 f)
  | .vslide f => some (packV 0x27 0x18 f)
  | .vperm f => some (packV 0x27 0x19 f)
  | .vacc sat rm f => some (packV 0x28 ((0 : BitVec 3) ++ bit1 sat ++ rm) f)
  | .vaccZ sat rm f => some (packV 0x28 ((1 : BitVec 3) ++ bit1 sat ++ rm) f)
  | .vaccw f => some (packV 0x28 0x20 f)
  | .vaccwAdd rm f => some (packV 0x28 ((6 : BitVec 4) ++ rm) f)
  | .mloadw f => some (packM 0x30 0 f)
  | .mswap f => some (packM 0x30 1 f)
  | .mmul f => some (packM 0x30 2 f)
  | .mmuls f => some (packM 0x30 3 f)
  | .mzero f => some (packM 0x30 4 f)
  | .semsig f => some (packP 0x31 0 f)
  | .semwait f => some (packP 0x31 1 f)
  | .mfence f => some (packP 0x31 2 f)
  | .fence f => some (packS 0x34 0x00 f)
  | .ofence f => some (packS 0x34 0x01 f)
  | .xfence f => some (packS 0x34 0x02 f)
  | .mark f => some (packS 0x34 0x03 f)
  | .aadd ord f => some (packS 0x36 ((0 : BitVec 2) ++ ord ++ (0 : BitVec 4)) f)
  | .aand ord f => some (packS 0x36 ((0 : BitVec 2) ++ ord ++ (1 : BitVec 4)) f)
  | .aor ord f => some (packS 0x36 ((0 : BitVec 2) ++ ord ++ (2 : BitVec 4)) f)
  | .axor ord f => some (packS 0x36 ((0 : BitVec 2) ++ ord ++ (3 : BitVec 4)) f)
  | .amin ord f => some (packS 0x36 ((0 : BitVec 2) ++ ord ++ (4 : BitVec 4)) f)
  | .amax ord f => some (packS 0x36 ((0 : BitVec 2) ++ ord ++ (5 : BitVec 4)) f)
  | .aminn ord f => some (packS 0x36 ((0 : BitVec 2) ++ ord ++ (6 : BitVec 4)) f)
  | .amaxn ord f => some (packS 0x36 ((0 : BitVec 2) ++ ord ++ (7 : BitVec 4)) f)
  | .aswap ord f => some (packS 0x36 ((0 : BitVec 2) ++ ord ++ (8 : BitVec 4)) f)
  | .acas ord f => some (packS 0x36 ((0 : BitVec 2) ++ ord ++ (9 : BitVec 4)) f)
  | .afxinit ord f => some (packS 0x37 ((0 : BitVec 2) ++ ord ++ (0 : BitVec 4)) f)
  | .afxadd ord f => some (packS 0x37 ((0 : BitVec 2) ++ ord ++ (1 : BitVec 4)) f)
  | .afxrd ord f => some (packS 0x37 ((0 : BitVec 2) ++ ord ++ (2 : BitVec 4)) f)
  | .afxrdClr ord f => some (packS 0x37 ((0 : BitVec 2) ++ ord ++ (3 : BitVec 4)) f)
  | .barinit f => some (packP 0x35 0 f)
  | .bar f => some (packP 0x35 1 f)
  | .ctradd f => some (packP 0x38 0 f)
  | .ctrrd f => some (packP 0x38 1 f)
  | .tagalloc f => some (packP 0x39 0 f)
  | .publ f => some (packP 0x39 1 f)
  | .tagqry f => some (packP 0x39 2 f)
  | .tagfree f => some (packP 0x39 3 f)
  | .spawn f => some (packP 0x3A 0 f)
  | .spawnW f => some (packP 0x3A 0 f)
  | .evwait f => some (packP 0x3C 0 f)
  | .evdone f => some (packP 0x3C 1 f)
  | .olock f => some (packP 0x3C 2 f)
  | .orel f => some (packP 0x3C 3 f)
  | .tmarm f => some (packP 0x3C 4 f)
  | .tmrd f => some (packP 0x3C 5 f)
  | .notify f => some (packP 0x3D 0 f)
  | .pksend f => some (packP 0x3D 1 f)
  | .trgarmEntry f => some (packP 0x3D 2 f)
  | .trgarmDesc f => some (packP 0x3D 2 f)
  | .trgdisEntry f => some (packP 0x3D 3 f)
  | .trgdisDesc f => some (packP 0x3D 3 f)
  | .trgrdEntry f => some (packP 0x3D 4 f)
  | .trgrdDesc f => some (packP 0x3D 4 f)
  | .start f => some (packP 0x3E 0 f)
  | .cancel f => some (packP 0x3E 0 f)
  | .query f => some (packP 0x3E 0 f)
  | .release f => some (packP 0x3E 0 f)
  | .livemark f => some (packP 0x3E 0 f)
  | .hotcfg f => some (packP 0x3E 0 f)
  | .errlog f => some (packP 0x3E 0 f)
  | .pcreate f => some (packP 0x3E 1 f)
  | .pchange f => some (packP 0x3E 1 f)
  | .preset f => some (packP 0x3E 1 f)
  | .pdestroy f => some (packP 0x3E 1 f)
  | .quota f => some (packP 0x3E 1 f)
  | .ctralloc f => some (packP 0x3E 1 f)
  | .ctrfree f => some (packP 0x3E 1 f)
  | .frame f => some (packP 0x3E 1 f)
  | .shslot f => some (packP 0x3E 1 f)
  | .wdog f => some (packP 0x3E 1 f)
  | .xlate f => some (packP 0x3E 1 f)
  | .inval f => some (packP 0x3E 1 f)
  | .track f => some (packP 0x3E 1 f)
  | .ovq f => some (packP 0x3E 1 f)
  | .rxovf f => some (packP 0x3E 1 f)
  | .nbind f => some (packP 0x3E 1 f)
  | .jbind f => some (packP 0x3E 1 f)
  | .bufrd f => some (packP 0x3E 1 f)
  | .ownrd f => some (packP 0x3E 1 f)
  | .debug f => some (packP 0x3E 1 f)
  | .discard f => some (packP 0x3E 1 f)
  | .resume f => some (packP 0x3E 1 f)
  | .save f => some (packP 0x3E 1 f)
  | .load f => some (packP 0x3E 1 f)
  | .stopw f => some (packP 0x3E 1 f)
  | .startw f => some (packP 0x3E 1 f)
  | .dhalt f => some (packP 0x3E 1 f)
  | .dresume f => some (packP 0x3E 1 f)
  | .wcreate f => some (packP 0x3E 2 f)
  | .wdestroy f => some (packP 0x3E 2 f)
  | .linkgen f => some (packP 0x3E 2 f)
  | .wkimport f => some (packP 0x3E 2 f)
  | .wkgen f => some (packP 0x3E 2 f)
  | .seal f => some (packP 0x3E 2 f)
  | .attest f => some (packP 0x3E 2 f)
  | .health f => some (packP 0x3E 2 f)
  | .dlogswap f => some (packP 0x3E 3 f)
  | .veRepetitionExecute _ | .meCommandStart _ _ | .meCommandRetire _ | .securityCompletion _ | .trngHealthFail
  | .trngRecovery | .admission | .overflowReturn _ | .dispatch _ | .taskRetirement _ | .taskSuspension _
  | .watchdogExpiry _ | .queueDeadlock _ | .faultStop _ | .deferredFault _ _ | .lateResponse _ _
  | .poison _ | .frameEdge _ | .sealedFrameStart _ | .contextRestore _ | .copyRingAllocate _ _ | .copyQueuePush _ _
  | .copyComplete _ _ | .uetPacketArrival _ | .taggedSendMatch _ | .rmaAccess _ | .rmaAtomic _ | .domainRemoteAccess _
  | .remoteResponse _ _ | .sendCompletion _ _ | .triggerLaunch _ | .triggerCopy _ | .triggerSend _
  | .triggerEvent _ | .notifyWrite _ | .lanternPost _ | .timerExpiry _ _ | .timeStep _ | .msixDoorbell _
  | .registerWrite _ _ | .dupWriteRelease _ | .crumbCopy _ | .motionCommit _ | .motionComplete _
  | .motionDestFailure _ _ | .motionSourceFailure _ _ | .motionAbortComplete _ | .t2LinkDown _ | .t2LinkUp _
  | .memoryScrub _ | .coldReset | .warmReset | .maintReset _ | .opPointChange _ | .thermalAlarm _ _
  | .thermalShutdown _ | .firmwareMailboxWrite _ _ => none

end Sys2Proof
end

