-- ==== Sys2Proof/Machine/Tbl.lean ====
section
/-! DEFINITION. Tables by natural-number key in one canonical form: keys strictly rising, and no entry equal to the
value an unlisted key reads as. Memory, register files and every numbered table of the machine are such tables. -/

namespace Sys2Proof.Machine

/-- A table: entries by rising key. -/
abbrev Tbl (α : Type) := List (Nat × α)

/-- The entry of a key, or the default. -/
def Tbl.get {α : Type} (d : α) : Tbl α → Nat → α
  | [], _ => d
  | (k, v) :: t, i => if i = k then v else if i < k then d else Tbl.get d t i

/-- A key set to a value; a default value is not listed. (`dropWhile` drops nothing from a table in its canonical form; with it
a key reads as it was set in any list.) -/
def Tbl.set {α : Type} [DecidableEq α] (d : α) : Tbl α → Nat → α → Tbl α
  | [], i, x => if x = d then [] else [(i, x)]
  | (k, v) :: t, i, x =>
    if i = k then (if x = d then t.dropWhile (fun e => decide (e.1 ≤ i)) else (i, x) :: t)
    else if i < k then (if x = d then (k, v) :: t else (i, x) :: (k, v) :: t)
    else (k, v) :: Tbl.set d t i x

/-- Every key of the table is above `lo` (when given), they rise, and no entry is the default. -/
def Tbl.wfAbove {α : Type} [DecidableEq α] (d : α) : Option Nat → Tbl α → Bool
  | _, [] => true
  | lo, (k, v) :: t => (match lo with | none => true | some l => decide (l < k)) && decide (v ≠ d) && Tbl.wfAbove d (some k) t

/-- The canonical form. -/
def Tbl.wf {α : Type} [DecidableEq α] (d : α) (t : Tbl α) : Bool := Tbl.wfAbove d none t

/-- Memory in its canonical form: addresses strictly rising, no byte listed that an unlisted one reads as (0, log 1). -/
def Memory.wf (m : Tbl Byte) : Bool := m.wf 0

/-- The listed keys. -/
def Tbl.keys {α : Type} (t : Tbl α) : List Nat := t.map Prod.fst

end Sys2Proof.Machine
end

