-- ==== Sys2Proof/Machine/State.lean ====
section
/-! DEFINITION. The state of the machine as plain data, and the state after a cold reset (R7, R410). Tables list only
what differs from the default that their accessor names. -/

namespace Sys2Proof.Machine

/-- Why a run stops. -/
inductive Fault where
  /-- Raised by the meaning of an instruction word when `State.cur` names no stream that executes one. The step always
  names a running stream, so this is safe: the hardware never does it. -/
  | noStream
  deriving DecidableEq, Repr

/-- Why the model has no answer. -/
inductive Refusal where
  /-- An instruction without a meaning in this model: safe, the run ends. No arm of `exec` uses it. -/
  | notModelled (mnemonic : String)
  deriving DecidableEq, Repr

/-! ## Streams -/

/-- What a waiting word waits on (R187, R385). -/
inductive Wait where
  /-- a full or an empty architectural queue (R186) -/
  | queue (code : Nat)
  /-- a semaphore unit (R327) -/
  | sem (n : Nat)
  /-- room in a semaphore at 0xFFFF (R327) -/
  | signal (n : Nat)
  /-- CWAITA or CWAITL (R285), or the tag wait of COPY (R274) -/
  | copyTag
  /-- a tag-table fill (R270) -/
  | fill
  /-- the copies that a publication covers (R84) -/
  | publ (ids : List Nat)
  /-- MFENCE (R328) -/
  | matrix
  /-- a full mcq (R318) -/
  | mcq
  /-- the VE's limit of pending words (R287) -/
  | vector
  /-- engine work that MFC, MTC, SEMSIG or a stochastic draw follows (R221, R184, R328, R216) -/
  | control
  /-- a barrier phase (R349) -/
  | bar
  /-- a full overflow queue (R91) -/
  | spawn
  /-- an event (R356) -/
  | event
  /-- an ordering lock (R72) -/
  | olock
  /-- an outbound message slot (R46) -/
  | outbound
  /-- responses that a context still awaits (R386) -/
  | late
  /-- other streams' stores on their way to another module (R338) -/
  | fence
  /-- words of other threads that complete before their stop (R385) -/
  | finish
  deriving DecidableEq, Repr

/-- How a stream has left (R254, R393). -/
inductive Exit where
  | running | ended | suspended
  deriving DecidableEq, Repr

/-- A BAR that has arrived and waits (R349): the word's VA, its place, and the phase it arrived in. -/
structure BarRec where
  va : W64
  pa : Nat
  phase : BitVec 16
  d : BitVec 6
  deriving DecidableEq, Repr

/-- Where a remote response goes (R112, R384): a register with the access's width and extension, or bytes of the lq row
that awaits them. -/
inductive Landing where
  | reg (d : Nat) (bytes : Nat) (sgn : Bool)
  | row (queue : Nat) (off bytes : Nat)
  | none
  deriving DecidableEq, Repr

/-- An outstanding response of a stream (R384, R386): its number, where it lands, the operand and the access kind, and
the PC and repetition of the word that issued it. -/
structure Outstanding where
  id : Nat
  landing : Landing
  operand : W64
  kind : Nat
  pc : Int
  rep : Nat
  deriving DecidableEq, Repr

/-- One stream: the registers of R177, the PC, the repeat state, the stream's control registers (R249) and how it
waits or has left; `ir` is the word it has fetched and not yet finished (R191). -/
structure Stream where
  regs : Tbl W64
  preds : Tbl Bool
  pc : Int
  rpt : Nat
  exit : Exit
  resume : BitVec 14
  fpctl : W64
  fpstat : W64
  lfsr : BitVec 128
  wait : Option Wait
  bar : Option BarRec
  yield : Nat
  out : List Outstanding
  ir : Option Insn
  deriving DecidableEq, Repr

/-- A stream at launch, but for its PC and arguments (R36, R189, R249). -/
def Stream.launch : Stream :=
  { regs := [], preds := [], pc := 0, rpt := 0, exit := .running, resume := 0, fpctl := 0, fpstat := 0, lfsr := 1,
    wait := none, bar := none, yield := 0, out := [], ir := none }

/-! ## Queues and engines of a task -/

/-- A queue row or entry: its bytes, and whether they have all arrived (R186). -/
structure Row where
  bytes : List Byte
  arrived : Bool
  deriving DecidableEq, Repr

/-- An architectural queue: the slot of its head, and its rows oldest first (R185, R392). -/
structure Queue where
  head : Nat
  rows : List Row
  deriving DecidableEq, Repr

def Queue.empty : Queue := { head := 0, rows := [] }

/-- A vector word issued to the VE (R287): its captured registers, the repetitions issued and still to execute, and
whether the E stream may issue more of it. -/
structure VePend where
  word : Insn
  pc : Int
  next : Nat
  upto : Nat
  more : Bool
  vshape : W64
  vksc : W64
  fpctl : W64
  vw : Tbl W64
  deriving DecidableEq, Repr

/-- A command in mcq (R319 to R321, R394): its unit has started it, its WS unit is taken, the slabs done, the mq
entries installed, its first assigned ring slot, the numbers of its slots and xq entries, and whether it has finished, or
has met a fault: its cause and payload D (R332). -/
structure MCmd where
  word : Insn
  pc : Int
  started : Bool
  wsTaken : Bool
  slabs : Nat
  installed : Nat
  slot0 : Nat
  nslots : Nat
  nxq : Nat
  finished : Bool
  refused : Option (Nat × Nat)
  deriving DecidableEq, Repr

/-- A stationary of the ME (R311): its format, flags, value stream, scales as read, metadata plane by K step, and the
ring slots it holds: ring, first slot and number. -/
structure Stationary where
  fmt : Option (BitVec 4)
  sparse : Bool
  isSealed : Bool
  vals : List Byte
  scales : List Byte
  plane : Tbl (BitVec 512)
  source : Option (Nat × Nat × Nat)
  deriving DecidableEq, Repr

/-- What the E stream's issue image says of a stationary (R318): format, none when empty, sparse and sealed. -/
structure StatImage where
  fmt : Option (BitVec 4)
  sparse : Bool
  isSealed : Bool
  deriving DecidableEq, Repr

def StatImage.empty : StatImage := { fmt := none, sparse := false, isSealed := false }

def Stationary.empty : Stationary :=
  { fmt := none, sparse := false, isSealed := false, vals := [], scales := [], plane := [], source := none }

/-- A tag-table entry (R265): pending, block number and recency rank; an invalid entry is not listed. -/
structure TagSlot where
  valid : Bool
  pending : Bool
  block : Nat
  rank : Nat
  deriving DecidableEq, Repr

def TagSlot.empty : TagSlot := { valid := false, pending := false, block := 0, rank := 0 }

/-- A fault as a context records it (R387, R393): payloads B to F. -/
structure FaultRec where
  (b c d e f : W64)
  deriving DecidableEq, Repr

/-- Where a context stands (R35, R97, R402). -/
inductive Phase where
  | standby | running
  /-- a fault has been raised and the stop is not yet done (R383) -/
  | stopping
  /-- a faulted context, held (R97); the number orders two held contexts of one core (R389) -/
  | held (nth : Nat)
  /-- debug halt (R402) -/
  | halted
  | preempted
  deriving DecidableEq, Repr

/-- A task's context (R176, R265, R393): its record as admitted, its two streams (a control task uses `e`), its
registers, queues and engine state, its tag references and faults, and the delay of its first fetch (R169); while it does not run, what it keeps of its
stationaries. `readPos` of a ring counts the slots from HEAD to the
next one to assign (R320); `imgAct` and `imgShad` are the issue images. -/
structure Ctx where
  recva : Nat
  readWorld : Nat
  hdr : W64
  code : W64
  argp : W64
  partw : W64
  ext : List W64
  world : Nat
  place : Place
  disp : Nat
  a : Stream
  e : Stream
  mxstat : W64
  vshape : W64
  vksc : W64
  vw : Tbl W64
  swait : Tbl W64
  slotw : Tbl W64
  extBit : Bool
  rgd : Tbl W64
  filled : Tbl Bool
  released : Tbl Bool
  readPos : Tbl Nat
  imgAct : StatImage
  imgShad : StatImage
  queues : Tbl Queue
  mcq : List MCmd
  ve : List VePend
  msem : Tbl Nat
  ctb : W64
  ctStatus : Tbl W64
  ttd : Tbl W64
  tt : Tbl TagSlot
  tagRefs : List Nat
  wdcnt : Nat
  claimNs : Nat
  primary : Option FaultRec
  pending : Option FaultRec
  statAct : Stationary
  statShad : Stationary
  phase : Phase
  deriving DecidableEq, Repr

/-! ## Cores -/

/-- A request of a copy to another module (R112): its number, whether it writes, the row and offset it is for, and the response. -/
structure CopyAsk where
  id : Nat
  write : Bool
  pos : Nat × Nat
  rsp : Option Response
  deriving DecidableEq, Repr

/-- A ring slot that a copy has allocated (R279): its core, the dispatch that held the ring, ring and slot, and its first
pool byte. -/
structure SlotRef where
  (core disp ring slot base : Nat)
  deriving DecidableEq, Repr

/-- What one copy carries (R273 to R284, R394). `chunks` counts the chunks written, `crc` and `padrows` say what they gave, `barrier`
that one met a live barrier word, and `asks` what the next one waits for. `task` is the dispatch that issued it, none for an orphan or a trigger
copy; `slots` the ring slots allocated; `covers` the copies its publication awaits. -/
structure Copy where
  id : Nat
  world : Nat
  task : Option Nat
  tag : Option Nat
  fill : Option (Nat × Nat)
  trigger : Option Nat
  uw : BitVec 16
  sc : Nat
  buf : Option Nat
  partw : W64
  desc : List W64
  chunks : Nat
  padrows : Nat
  crc : BitVec 32
  barrier : Bool
  slots : List SlotRef
  allocated : Bool
  pushed : Nat
  covers : List Nat
  early : Option W64
  paused : Bool
  asks : List CopyAsk
  deriving DecidableEq, Repr

/-- A core: its banks, SRAM pool and owner tags (R178, R167), frame registers (R98) with the writes that wait for an edge (keys 0 to 15 FTn, 16 FTCTL, 17 FTEPOCH), the current entry and the instant at
which the next one begins, shadow slots by world (R102), stationaries (R311), copies (R283), the count of R187, the
instant at which its work starts (R101, R169), the end of a sealed edge's 5 µs (R101), and the banks claimed in the current frame (R169). -/
structure Core where
  bank0 : Option Ctx
  bank1 : Option Ctx
  active : Bool
  sram : Tbl Byte
  owner : Tbl Nat
  ft : Tbl W64
  ftctl : W64
  ftepoch : W64
  ftNew : Tbl (Option W64)
  cur : Nat
  nextEdge : Nat
  shadow : Tbl (Nat × Nat)
  act : Stationary
  shad : Stationary
  copies : List Copy
  deadlock : Nat
  startAt : Option Nat
  sealTill : Nat
  claimed : Tbl Bool
  deriving DecidableEq, Repr

def Core.empty : Core :=
  { bank0 := none, bank1 := none, active := false, sram := [], owner := [], ft := [], ftctl := 0,
    ftepoch := 0, ftNew := [], cur := 0, nextEdge := 0, shadow := [], act := .empty, shad := .empty, copies := [],
    deadlock := 0, startAt := none, sealTill := 0, claimed := [] }

/-- A context saved to a place (R391, R392): the core and world it belongs to, the place (0 pre-empted, 1 faulted or
halted, further ones in the context area), the physical address of its image, the context (none for orphan copies alone, or where a bank still holds a halted
context), its copies, and the responses still to come for its A and E (true) streams (R386). -/
structure Saved where
  core : Nat
  world : Nat
  plc : Nat
  pa : Nat
  ctx : Option Ctx
  copies : List Copy
  late : List (Bool × Outstanding)
  deriving DecidableEq, Repr

/-- It stands as a context of its own: orphans alone share the place of the context saved after them. -/
def Saved.recorded (v : Saved) : Bool := v.ctx.isSome || v.plc != 0

/-! ## Worlds and the Poleth die -/

/-- A world's partition on the module (R15). -/
structure Partition where
  cores : BitVec 128
  threads : Nat
  failed : Bool
  debug : Bool
  deriving DecidableEq, Repr

/-- A nonce counter and what has been said of it (R171). -/
structure Nonce where
  count : Nat
  low : Bool
  exhausted : Bool
  deriving DecidableEq, Repr

/-- What a world has besides its tasks: partition, translation and watchdog words, tracked ranges, quotas, overflow
queue and overflow region, buffer counters, keys (`wkGens`: installed weight-key generations with their keys). Quota keys: 0 tags, 1 resident pool, 2 trigger entries, 3 timers,
16 + c events of class c. A key epoch counts the keys generated for the world. -/
structure World where
  part : Option Partition
  ttw : W64
  domw : W64
  wdog : W64
  track : Tbl W64
  quota : Tbl Nat
  ovq : Option (Nat × Nat)
  ovHead : Nat
  ovCount : Nat
  rxovf : Option (Nat × Nat × Nat × Nat)
  rxFill : Nat
  bufBytes : Tbl Nat
  bufStall : Tbl Nat
  memKey : Option Nat
  epochs : Nat
  wkGens : List (Nat × Nat)
  wkNonce : Tbl Nonce
  attested : Nat
  deriving DecidableEq, Repr

def World.empty : World :=
  { part := none, ttw := 0, domw := 0, wdog := 0, track := [], quota := [], ovq := none, ovHead := 0, ovCount := 0,
    rxovf := none, rxFill := 0, bufBytes := [], bufStall := [], memKey := none, epochs := 0, wkGens := [],
    wkNonce := [], attested := 0 }

/-- A counter (R57). -/
structure Counter where
  value : W64
  alloc : Bool
  owner : Nat
  nwatch : Nat
  deriving DecidableEq, Repr

def Counter.empty : Counter := { value := 0, alloc := false, owner := 0, nwatch := 0 }

/-- States of a readiness tag (R82). -/
inductive TagState where
  | free | allocated | published | retired
  deriving DecidableEq, Repr

/-- A readiness tag (R79). -/
structure Tag where
  gen : BitVec 24
  world : Nat
  st : TagState
  scope : Nat
  pv : Bool
  pcore : Nat
  base : Nat
  refs : Nat
  len : Nat
  deriving DecidableEq, Repr

def Tag.empty : Tag :=
  { gen := 0, world := 0, st := .free, scope := 0, pv := false, pcore := 0, base := 0, refs := 0, len := 0 }

/-- States of a trigger entry (R67). -/
inductive TrigState where
  | free | armed | firing | disarmed
  deriving DecidableEq, Repr

/-- A trigger entry (R60, R61): its state and counts, and its eight words as armed, THR kept current. `arm` tells one
arming from the next. -/
structure Trigger where
  st : TrigState
  missed : Nat
  fires : BitVec 16
  hits : Nat
  words : List W64
  arm : Nat
  deriving DecidableEq, Repr

def Trigger.empty : Trigger := { st := .free, missed := 0, fires := 0, hits := 0, words := [], arm := 0 }

/-- An action still to be issued (R65): the entry, its arming, and what it needs even after a TRGDIS. -/
structure Fired where
  entry : Nat
  arm : Nat
  words : List W64
  value : W64
  deriving DecidableEq, Repr

/-- An admitted record (R30 to R35, R90): the world whose translation read it, its words and extension words, thresholds by slot, satisfied slots, times,
tag references, and the core of the tag publication that last satisfied one (R93). -/
structure PoolRec where
  recva : Nat
  readWorld : Nat
  world : Nat
  words : List W64
  ext : List W64
  thr : List W64
  sat : BitVec 11
  ready : Option Nat
  admitted : Nat
  lastCore : Option Nat
  refs : List Nat
  deriving DecidableEq, Repr

/-- A submission (R30, R31): the record, the world whose translation reads it, and the world its header must name, none
for any. -/
structure Submission where
  recva : Nat
  readWorld : Nat
  expect : Option Nat
  deriving DecidableEq, Repr

/-- A record in its world's overflow queue (R90, R91): the core of the publication that last satisfied a wait (R93), the tags it
refers to, and whether it has been discarded. -/
structure Spilled where
  recva : Nat
  readWorld : Nat
  world : Nat
  lastCore : Option Nat
  refs : List Nat
  dropped : Bool
  deriving DecidableEq, Repr

/-- States of an event (R72). DONE events are dropped. -/
inductive EvState where
  | posted | taken | locked | released
  deriving DecidableEq, Repr

/-- An event (R69): class, world, ordering queue and number, its words, its state and the thread that holds it. -/
structure Event where
  cls : Nat
  world : Nat
  oqn : Nat
  oseq : Nat
  words : List W64
  st : EvState
  holder : Option Nat
  deriving DecidableEq, Repr

/-- What waits to be posted (R71): kind, world, class, queue and payload; for a report of a faulted core or thread, and
for a completion notice, the place it holds up. -/
structure HeldEvent where
  kind : Nat
  world : Nat
  cls : Nat
  oqn : Nat
  payload : List W64
  from_ : Option Place
  deriving DecidableEq, Repr

/-- A timer (R78): `due` is the deadline of an event not yet posted. -/
structure Timer where
  armed : Bool
  deadline : Nat
  period : Nat
  cls : Nat
  oqn : Nat
  due : Option Nat
  deriving DecidableEq, Repr

def Timer.empty : Timer := { armed := false, deadline := 0, period := 0, cls := 0, oqn := 0, due := none }

/-- A lantern (R74). -/
structure Lantern where
  value : W64
  count : Nat
  pending : Bool
  deriving DecidableEq, Repr

def Lantern.empty : Lantern := { value := 0, count := 0, pending := false }

/-- States of a motion record (R141). -/
inductive MotionState where
  | free | copying | draining | committing | aborting
  deriving DecidableEq, Repr

/-- A leaf of a moving unit (R137): its PTE, its source and destination, the bytes of its page and of its stored part, and
the value the engine last wrote to it. -/
structure MotionLeaf where
  pte : Nat
  src : Nat
  dst : Nat
  page : Nat
  len : Nat
  value : W64
  deriving DecidableEq, Repr

/-- A motion record (R137 to R144). `failed` is the block and crumb that its notice names (R147); `alone` says that motion goes on from the destination alone. -/
structure Motion where
  st : MotionState
  va : Nat
  spa : Nat
  dpa : Nat
  world : Nat
  cur : Nat
  nblk : Nat
  stat : Nat
  fcr : Nat
  failed : Nat × Nat
  bitmap : BitVec 512
  inj : Option (Nat × Nat)
  leaves : List MotionLeaf
  alone : Bool
  deriving DecidableEq, Repr

def Motion.empty : Motion :=
  { st := .free, va := 0, spa := 0, dpa := 0, world := 0, cur := 0, nblk := 0, stat := 0, fcr := 0, failed := (0, 0), bitmap := 0,
    inj := none, leaves := [], alone := false }

/-- A barrier word that is live (R345 to R349): its world, level, count, arrivals, phase, and its instance: the number
of the core, quad, die or module, or the thread alone. -/
structure Barrier where
  world : Nat
  va : Nat
  level : Nat
  count : Nat
  arrived : Nat
  phase : BitVec 16
  inst : Nat
  thread : Option Nat
  deriving DecidableEq, Repr

/-- The translation units (R121). -/
inductive TlbUnit where
  | scalar (ag : Agent)
  | stream (core which : Nat)
  | die (d : Nat)
  | poleth
  deriving DecidableEq, Repr

/-- A TLB entry: the world and the page it maps, its leaf as held and where the leaf stands. -/
structure TlbEntry where
  unit : TlbUnit
  world : Nat
  base : Nat
  log2 : Nat
  leaf : W64
  ptePa : Nat
  level : Nat
  deriving DecidableEq, Repr

/-- Under what a granule of memory was last written (R161): a world's key and storage VA, a world's key and the tweak of an evicted
bank (R168), or raw bytes. -/
inductive EncTag where
  | key (world epoch granule : Nat)
  | bank (world epoch tweak : Nat)
  | raw
  deriving DecidableEq, Repr

/-- A write held for a DUP page (R128): the agent, and the bytes by address with the key they are written under. -/
structure HeldWrite where
  ag : Option Agent
  bytes : List (Nat × Byte)
  tag : Option EncTag
  deriving DecidableEq, Repr

/-- A read-duplicated page with holders (R127, R128): its physical address and bytes; dies 0 to 3 and the Poleth die, 4. -/
structure DupPage where
  page : Nat
  size : Nat
  holders : List Nat
  held : List HeldWrite
  deriving DecidableEq, Repr

/-- A key operation in progress (R170, R365). -/
structure KeyOp where
  op : Nat
  world : Nat
  domain : Nat
  tag : W64
  cls : Nat
  oqn : Nat
  args : List W64
  deriving DecidableEq, Repr

/-- The link keys of a secure domain (R171): installed generations with their epochs, and a nonce counter for each
generation. -/
structure LinkKey where
  world : Nat
  gens : List (Nat × Nat)
  nonce : Tbl Nonce
  deriving DecidableEq, Repr

/-- An outbound message (R55, R56): its number, the world and its descriptor. -/
structure OutMsg where
  id : Nat
  world : Nat
  desc : List W64
  deriving DecidableEq, Repr

/-- An inbound message (R48, R51): its number, sender, descriptor and its words when matched, length, bytes arrived, whether it has failed and
whether it has met a live barrier word; for an unmatched message, its address in the overflow region and match bits. -/
structure InMsg where
  msg : Nat
  job : Nat
  src : Nat
  ddi : Option Nat
  desc : Option (List W64)
  world : Nat
  len : Nat
  got : Nat
  failed : Bool
  barrier : Bool
  overflow : Option Nat
  bits : W64
  deriving DecidableEq, Repr

/-- The NACKs of the transport (R45 to R51). -/
inductive Nack where
  | unsupported | invalidJob | accessError | retry | resource
  deriving DecidableEq, Repr

/-- What the module sends out. -/
inductive Output where
  /-- a NACK to the sender of a message -/
  | nack (msg : Nat) (why : Nack)
  /-- an acknowledgement, or the bytes of a read or atomic, to the sender of a message -/
  | answer (msg : Nat) (bytes : List Byte)
  /-- an outbound message: its number, its descriptor and its payload (R56) -/
  | message (id : Nat) (desc : List W64) (bytes : List Byte)
  /-- a domain-window or host access awaiting its response (R112) -/
  | remote (id module job va : Nat) (kind : RmaKind)
  /-- a write to a notify register of another module (R359) -/
  | notify (module reg : Nat) (value : W64)
  /-- an MSI-X vector (R408) -/
  | msix (vector : Nat)
  /-- what the host reads from a notify register (R73) -/
  | notifyRead (reg : Nat) (value : W64)
  deriving DecidableEq, Repr

/-- Boot (R411). -/
inductive Boot where
  | pending | running | recovery
  deriving DecidableEq, Repr

/-- What the outside world, or a test, lets the machine do next: one stream's turn, or one event with what it brings. -/
inductive Turn where
  | run (ag : Agent)
  | event (i : Instr)
  /-- power management may gate the event path (R75) -/
  | gate
  deriving DecidableEq, Repr

/-- The event path (R74, R75): running, gated, or waking until an instant. -/
inductive Gate where
  | running | gated
  | waking (till : Nat)
  deriving DecidableEq, Repr

/-- The machine. -/
structure State where
  -- the model's own fields (log 2, 3): the turns to take first, the round robin's place, the number of the step that
  -- selects free values, the agent whose word executes, the next dispatch, copy and message numbers
  agenda : List Turn
  rr : Nat
  seq : Nat
  cur : Option Agent
  nextDisp : Nat
  nextId : Nat
  -- cores, NP threads and worlds
  cores : Tbl Core
  threads : Tbl (Option Ctx)
  worlds : Tbl World
  saved : List Saved
  -- save areas that hold a copy of a bank (R168), by core * 4096 + world * 64 + bank
  evicted : Tbl Bool
  -- memory, its encryption, standing ECC errors (by granule: 1 correctable, 2 not; of SRAM by core * 2^20 + 64-bit word of
  -- the pool, the shadow stores as the pool of a core 128), translation caches, duplicates, barriers
  mem : Tbl Byte
  enc : Tbl (Option EncTag)
  ecc : Tbl Nat
  sramEcc : Tbl Nat
  tlb : List TlbEntry
  dup : List DupPage
  barriers : Tbl (Option Barrier)
  -- the Poleth die
  counters : Tbl Counter
  triggers : Tbl Trigger
  fired : List Fired
  ddesc : Tbl (List W64)
  tags : Tbl Tag
  pool : List PoolRec
  spilled : List Spilled
  submits : List Submission
  events : List Event
  oseq : Tbl Nat
  held : List HeldEvent
  nbind : Tbl W64
  lanterns : Tbl Lantern
  gate : Gate
  now : Nat
  timers : Tbl Timer
  motions : Tbl Motion
  hotArray : Option (Nat × Nat)
  hotReqs : Tbl Nat
  hotSamples : Tbl Nat
  dead : Tbl Bool
  errRing : Option (Nat × Nat)
  linkDown : Tbl Bool
  -- security engine
  trngFailed : Bool
  keyOps : List KeyOp
  linkKeys : Tbl (Option LinkKey)
  keyEpoch : Nat
  lms : Nat
  -- network
  jobs : Tbl (Option Nat)
  outbound : List OutMsg
  inbound : List InMsg
  outbox : List Output
  -- packets that wait for nonces (world, nonces needed), and open packet delivery contexts, with the place in the
  -- sending order that each matches next (R46, R48)
  stalled : List (Nat × Nat × Output)
  pdcs : Tbl (Option Nat)
  -- platform
  boot : Boot
  flashA : Tbl Byte
  flashB : Tbl Byte
  point : BitVec 2
  -- the instant from which the C-dies fetch again after a change of point (R412)
  fetchAt : Nat
  hot : Tbl Bool
  deriving DecidableEq, Repr

/-- World 0's class-0 event quota, which firmware may raise and never set below 512 (R68). -/
def World.reset0 : World := { World.empty with quota := [(16, 512)] }

/-- Right after a cold reset (R7, R410): every state at its reset value, boot about to run. Values the spec does not
state are those of log 4. -/
def State.reset : State :=
  { agenda := [], rr := 0, seq := 0, cur := none, nextDisp := 1, nextId := 1,
    cores := [], threads := [], worlds := [(0, World.reset0)], saved := [], evicted := [],
    mem := [], enc := [], ecc := [], sramEcc := [], tlb := [], dup := [], barriers := [],
    counters := [], triggers := [], fired := [], ddesc := [], tags := [], pool := [], spilled := [], submits := [],
    events := [], oseq := [], held := [], nbind := [], lanterns := [], gate := .running, now := 0, timers := [], motions := [],
    hotArray := none, hotReqs := [], hotSamples := [], dead := [], errRing := none, linkDown := [],
    trngFailed := false, keyOps := [], linkKeys := [], keyEpoch := 0, lms := 0,
    jobs := [], outbound := [], inbound := [], outbox := [], stalled := [], pdcs := [],
    boot := .pending, flashA := [], flashB := [], point := 0, fetchAt := 0, hot := [] }

end Sys2Proof.Machine
end

