-- ==== Sys2Proof/Machine/Words.lean ====
section
/-! DEFINITION. The words every other file is written with: agents, cause and status codes, bytes and words, and the places of
cores, contexts and worlds in the state. -/

namespace Sys2Proof

/-- Where an agent's task runs. -/
def Agent.place : Agent → Place
  | .a c => .core c
  | .e c => .core c
  | .np t => .thread t

/-- The core of an agent, 0 for a thread. -/
def Agent.core : Agent → Nat
  | .a c => c
  | .e c => c
  | .np _ => 0

/-- The AGENT code of a stream (R382). -/
def Agent.code : Agent → Nat
  | .a _ => 0
  | .e _ => 1
  | .np _ => 5

end Sys2Proof

namespace Sys2Proof.Machine

/-! ## Cause codes (R381) and status codes (R336) -/

namespace Cause
def illegalInstr : Nat := 0x01
def stream : Nat := 0x02
def fetchRange : Nat := 0x03
def viewRange : Nat := 0x04
def ringRange : Nat := 0x05
def misaligned : Nat := 0x06
def trap : Nat := 0x07
def exitMismatch : Nat := 0x08
def matrixCmd : Nat := 0x09
def badOperand : Nat := 0x0A
def addrForm : Nat := 0x10
def nomap : Nat := 0x11
def badPte : Nat := 0x12
def perm : Nat := 0x13
def scopeMismatch : Nat := 0x14
def spRange : Nat := 0x15
def remoteAccess : Nat := 0x16
def walkError : Nat := 0x17
def memError : Nat := 0x20
def migrationAbort : Nat := 0x21
def lossyAccess : Nat := 0x22
def tierDown : Nat := 0x23
def landingError : Nat := 0x24
def unbound : Nat := 0x25
def badSend : Nat := 0x26
def notifyDiscard : Nat := 0x27
def badCopy : Nat := 0x28
def staleTag : Nat := 0x30
def barrierWord : Nat := 0x31
def queueDeadlock : Nat := 0x32
def tagState : Nat := 0x33
def notOwned : Nat := 0x34
def eventState : Nat := 0x35
def barrierState : Nat := 0x36
def badRecord : Nat := 0x37
def integrity : Nat := 0x40
def keyExhausted : Nat := 0x41
def sealAccess : Nat := 0x42
def watchdog : Nat := 0x50
def poisoned : Nat := 0x51
def gangStop : Nat := 0x52
def thermal : Nat := 0x53
def halt : Nat := 0x60
end Cause

namespace Status
def ok : Nat := 0x00
def badReq : Nat := 0x01
def badDesc : Nat := 0x02
def badEntry : Nat := 0x03
def watchFull : Nat := 0x04
def full : Nat := 0x05
def state : Nat := 0x06
def badDest : Nat := 0x07
def overlap : Nat := 0x08
def busy : Nat := 0x09
def late : Nat := 0x0A
def entropy : Nat := 0x0B
def sigExhausted : Nat := 0x0C
def keyLow : Nat := 0x0D
def admitted : Nat := 0x10
def spilled : Nat := 0x11
def refused : Nat := 0x12
end Status

/-! ## Small helpers on words -/

/-- Bits `[lo + n - 1 : lo]` of a word as a number. -/
def bits (x : W64) (lo n : Nat) : Nat := (x.toNat >>> lo) % 2 ^ n
/-- A number as a word. -/
def w64 (n : Nat) : W64 := BitVec.ofNat 64 n
/-- Byte j of a little-endian number. -/
def byteOf (x : Nat) (j : Nat) : Byte := BitVec.ofNat 8 (x >>> (8 * j))
/-- The n low bytes of a number, little-endian (R3). -/
def leBytes (n x : Nat) : List Byte := (List.range n).map (byteOf x)
/-- The number that little-endian bytes hold (R3). -/
def ofBytes (l : List Byte) : Nat := l.foldr (fun b acc => acc * 256 + b.toNat) 0
/-- The little-endian words of bytes. -/
def wordsOf (n : Nat) (l : List Byte) : List W64 := (List.range n).map fun i => w64 (ofBytes ((l.drop (8 * i)).take 8))
/-- Word i of a list of words. -/
def wd (l : List W64) (i : Nat) : W64 := l.getD i 0
/-- Exactly n bytes: missing ones 0, surplus dropped. -/
def fitBytes (n : Nat) (l : List Byte) : List Byte := l.take n ++ List.replicate (n - l.length) 0

/-! ## Places, cores, worlds -/

def State.core (s : State) (c : Nat) : Core := s.cores.get .empty c
def State.setCore (s : State) (c : Nat) (k : Core) : State := { s with cores := s.cores.set .empty c k }
def State.world (s : State) (w : Nat) : World := s.worlds.get .empty w
def State.setWorld (s : State) (w : Nat) (x : World) : State := { s with worlds := s.worlds.set .empty w x }

/-- A core's context in its active bank, or in the other one. -/
def Core.ctx (k : Core) : Option Ctx := if k.active then k.bank1 else k.bank0
def Core.other (k : Core) : Option Ctx := if k.active then k.bank0 else k.bank1
def Core.setCtx (k : Core) (x : Option Ctx) : Core := if k.active then { k with bank1 := x } else { k with bank0 := x }
def Core.setOther (k : Core) (x : Option Ctx) : Core :=
  if k.active then { k with bank0 := x } else { k with bank1 := x }

/-- The context a place runs. -/
def State.ctx (s : State) : Place → Option Ctx
  | .core c => (s.core c).ctx
  | .thread t => s.threads.get none t
def State.setCtx (s : State) (p : Place) (x : Option Ctx) : State :=
  match p with
  | .core c => s.setCore c ((s.core c).setCtx x)
  | .thread t => { s with threads := s.threads.set none t x }

/-- The stream of an agent in its context. -/
def Ctx.stream (x : Ctx) : Agent → Stream
  | .a _ => x.a
  | _ => x.e
def Ctx.setStream (x : Ctx) (ag : Agent) (st : Stream) : Ctx :=
  match ag with
  | .a _ => { x with a := st }
  | _ => { x with e := st }

/-- The control task bit of the header (R21). -/
def Ctx.control (x : Ctx) : Bool := x.hdr.getLsbD 0

/-- The module number as a natural number. -/
def moduleNo : Nat := Config.moduleNumber.toNat

/-- The quota of a kind (World's keys). -/
def State.quota (s : State) (w kind : Nat) : Nat := (s.world w).quota.get 0 kind

/-- The epoch of the key that a world's memory is encrypted under now: while it has no memory key, the count of keys made so
far, under which nothing made before can be read (log 6). -/
def World.keyNow (x : World) : Nat := x.memKey.getD x.epochs

/-- A world has a partition. -/
def State.hasPart (s : State) (w : Nat) : Bool := (s.world w).part.isSome
/-- A world's partition holds a core. -/
def State.holdsCore (s : State) (w c : Nat) : Bool :=
  match (s.world w).part with
  | some p => decide (c < 128) && p.cores.getLsbD c
  | none => false

end Sys2Proof.Machine
end

