-- ==== Sys2Proof/Machine/Phys.lean ====
section
/-! DEFINITION. Memory by physical address: the windows of R107, encryption by granule (R161), live bits (R154, R155), motion
(R145), the held writes of duplicated pages (R128), hotness (R149), standing errors and the error ring (R156, R157). Every access
of the machine to memory, translated or not, goes through the operations of this file. -/

namespace Sys2Proof.Machine

/-! ## Memory by physical address (R107, R437)

Bytes as the agents that use physical addresses see them. What an unlisted byte reads as is 0 (log 1). -/

/-- The windows of R107. -/
inductive Window where
  | t0 | t1 | t2 (port : Nat) | host | device
  deriving DecidableEq, Repr

/-- The window of an installed byte. -/
def windowOf (pa : Nat) : Option Window :=
  if pa < 2 ^ 39 then some .t0
  else if pa < 2 ^ 42 then none
  else if pa < 2 ^ 42 + 2 ^ 41 then some .t1
  else if pa < 2 ^ 44 then none
  else if pa < 2 ^ 44 + 2 ^ 43 then (if pa - 2 ^ 44 < Config.t2Bytes 0 then some (.t2 0) else none)
  else if pa < 2 ^ 45 then (if pa - 2 ^ 44 - 2 ^ 43 < Config.t2Bytes 1 then some (.t2 1) else none)
  else if pa < 2 ^ 46 then none
  else if pa < 2 ^ 47 then some .host
  else if 0xF000000000000 ≤ pa ∧ pa < 0xF000020000000 then some .device
  else if 0xFFC0000000000 ≤ pa ∧ pa < 0xFFC0004000000 then some .device
  else if 0xFFF0000000000 ≤ pa ∧ pa < 0xFFF0000010000 then some .device
  else none

/-- The byte is in device memory: T0, T1 or T2. -/
def tiered (pa : Nat) : Bool :=
  match windowOf pa with
  | some .t0 | some .t1 | some (.t2 _) => true
  | _ => false

/-- Tier code of a physical address (R133). -/
def tierOf (pa : Nat) : Nat :=
  match windowOf pa with
  | some .t1 => 1
  | some (.t2 _) => 2
  | _ => 0

/-- The doorbell word (R408). -/
def doorbellPa : Nat := 0xFFF0000000000

/-- Bytes at and after a physical address. -/
def State.peek (s : State) (pa n : Nat) : List Byte := (List.range n).map fun i => s.mem.get 0 (pa + i)
/-- A word at a physical address. -/
def State.peek64 (s : State) (pa : Nat) : W64 := w64 (ofBytes (s.peek pa 8))
/-- Bytes written at a physical address. -/
def State.poke (s : State) (pa : Nat) : List Byte → State
  | [] => s
  | b :: l => State.poke { s with mem := s.mem.set 0 pa b } (pa + 1) l
/-- A word written at a physical address. -/
def State.poke64 (s : State) (pa : Nat) (v : W64) : State := s.poke pa (leBytes 8 v.toNat)

/-! ## Encryption (R161, R162)

A granule is held as its bytes under the view it was last written in; reading it in another view deciphers what the
first view enciphered (log 6). -/

/-- The XTS tweak of a granule (R161). -/
def encTweak (world granule : Nat) : Nat := granule % 2 ^ 50 + (world % 64) <<< 50

def toNats (l : List Byte) : List Nat := l.map BitVec.toNat
def ofNats (l : List Nat) : List Byte := l.map (BitVec.ofNat 8)

/-- Stored bytes of 64 plaintext bytes in a view; raw bytes are the stored bytes. -/
def EncTag.store (t : EncTag) (l : List Byte) : List Byte :=
  match t with
  | .raw => l
  | .key w e g => ofNats (xts true (Config.memoryKey w e) (encTweak w g) (toNats l))
  | .bank w e k => ofNats (xts true (Config.memoryKey w e) k (toNats l))
/-- Plaintext of 64 stored bytes in a view. -/
def EncTag.load (t : EncTag) (l : List Byte) : List Byte :=
  match t with
  | .raw => l
  | .key w e g => ofNats (xts false (Config.memoryKey w e) (encTweak w g) (toNats l))
  | .bank w e k => ofNats (xts false (Config.memoryKey w e) k (toNats l))

/-- The view of an access that names a physical address and no world: world 0's key, with the tweak the granule was
written under; bytes so written are kept untagged. Of an evicted bank it sees the stored bytes (log 6). -/
def State.ownView (s : State) (gr : Nat) : Option EncTag :=
  match s.enc.get none gr with
  | some (.key _ _ g) => some (.key 0 (s.world 0).keyNow g)
  | some _ => some .raw
  | none => none

/-- The view an access reads a granule in. -/
def State.viewed (s : State) (gr : Nat) (v : Option EncTag) : Option EncTag := v.orElse fun _ => s.ownView gr

/-- The bytes of a granule as a view reads them. -/
def State.granule (s : State) (gr : Nat) (v : Option EncTag) : List Byte :=
  let plain := s.peek (gr * 64) 64
  match s.enc.get none gr, s.viewed gr v with
  | some t, some u => if t = u then plain else u.load (t.store plain)
  | _, _ => plain

/-- A granule held in a view from now on. -/
def State.retag (s : State) (gr : Nat) (v : Option EncTag) : State :=
  match s.enc.get none gr with
  | none => { s with enc := s.enc.set none gr v }
  | some t =>
    if s.viewed gr v = some t then s
    else { s.poke (gr * 64) (s.granule gr v) with enc := s.enc.set none gr v }

/-! ## The SRAM's check code (R173) -/

/-- The first byte of the shadow stores, which `sramEcc` names as the pool of a core 128 (R391). -/
def shadowBase : Nat := 0xF000000000000
/-- A byte of the shadow stores. -/
def inShadow (pa : Nat) : Bool := decide (shadowBase ≤ pa) && decide (pa < shadowBase + 2 ^ 29)

/-- The 64-bit words that n bytes of a core's pool lie in, as `sramEcc` names them. -/
def sramWords (c off n : Nat) : List Nat :=
  (List.range ((off + n - 1) / 8 - off / 8 + 1)).map fun i => c * 2 ^ 20 + off / 8 + i

/-- A read of n bytes of a core's pool meets an error that SECDED detects and cannot correct. -/
def State.sramBad (s : State) (c off n : Nat) : Bool :=
  !s.sramEcc.isEmpty && n != 0 && (sramWords c off n).any fun i => s.sramEcc.get 0 i == 2

/-- A read of n bytes corrects the single errors it meets. -/
def State.sramCorrected (s : State) (c off n : Nat) : State :=
  if s.sramEcc.isEmpty ∨ n = 0 then s
  else { s with sramEcc := (sramWords c off n).foldl (fun t i => if t.get 0 i = 1 then t.set 0 i 0 else t) s.sramEcc }

/-- The words that a write of n bytes covers whole hold no error after it (log 51). -/
def State.sramRewritten (s : State) (c off n : Nat) : State :=
  { s with sramEcc := s.sramEcc.filter fun (i, _) =>
      !(decide (c * 2 ^ 20 + (off + 7) / 8 ≤ i) && decide (i < c * 2 ^ 20 + (off + n) / 8)) }

/-- The same of a physical range in the shadow stores. -/
def State.shadowRewritten (s : State) (pa n : Nat) : State := if inShadow pa then s.sramRewritten 128 (pa - shadowBase) n else s

/-! ## Live bits (R154, R155) -/

/-- The live-bit block of a byte of T0 or T1: its PA in units of 2 MiB. -/
def blockOf (pa : Nat) : Nat := pa / 2 ^ 21

/-- Bytes, tags and standing errors of a physical range forgotten: it reads 0. -/
def State.clearRange (s : State) (pa n : Nat) : State :=
  let s := s.shadowRewritten pa n
  { s with mem := s.mem.filter fun (a, _) => !(decide (pa ≤ a) && decide (a < pa + n)),
           enc := s.enc.filter fun (g, _) => !(decide (pa / 64 ≤ g) && decide (g < (pa + n) / 64)),
           ecc := s.ecc.filter fun (g, _) => !(decide (pa / 64 ≤ g) && decide (g < (pa + n) / 64)) }

/-- A write to a block that is not live makes it live, every byte reading 0 (R155). -/
def State.revive (s : State) (pa : Nat) : State :=
  if s.dead.get false (blockOf pa) then
    { s.clearRange (blockOf pa * 2 ^ 21) (2 ^ 21) with dead := s.dead.set false (blockOf pa) false }
  else s

/-! ## Motion (R143 to R145) -/

/-! Statuses of a motion (R147). -/

namespace Stat
def committed : Nat := 0
def destError : Nat := 1
def destLink : Nat := 2
def pteChanged : Nat := 3
def lostError : Nat := 4
def lostLink : Nat := 5
def cancelled : Nat := 6
def reset : Nat := 7
def injected : Nat := 8
end Stat

/-- The bytes of a moving unit. -/
def Motion.size (m : Motion) : Nat := (m.nblk + 1) * 2 ^ 21

/-- A record whose source has failed. -/
def Motion.lost (m : Motion) : Bool := m.st == .aborting && (m.stat == Stat.lostError || m.stat == Stat.lostLink)

/-- The pieces a unit moves in: source, destination and length (R137). A record whose source has failed moves nothing any
more: both places are at rest (R144). -/
def Motion.pieces (m : Motion) : List (Nat × Nat × Nat) :=
  if m.st = .free || m.lost then [] else m.leaves.map fun l => (l.src, l.dst, l.len)

/-- A crumb of the unit has been copied, by the offset in the unit. -/
def Motion.copied (m : Motion) (off : Nat) : Bool :=
  match m.st with
  | .copying => decide (off / 2 ^ 21 < m.cur) || (off / 2 ^ 21 == m.cur && m.bitmap.getLsbD (off % 2 ^ 21 / 4096))
  | .draining | .committing => true
  | _ => false

/-- Where a byte is read, and where else a write of it is applied. -/
def Motion.place (m : Motion) (pa : Nat) : Option (Nat × Option Nat) :=
  (m.pieces.find? fun (a, b, n) =>
      (decide (a ≤ pa) && decide (pa < a + n)) || (decide (b ≤ pa) && decide (pa < b + n))).map fun (a, b, n) =>
    let off := if a ≤ pa && pa < a + n then pa - a else pa - b
    if m.alone then (b + off, none)
    else (a + off, if m.copied (b + off - m.dpa) then some (b + off) else none)

/-- The places of a byte under the motion records. -/
def State.sequenced (s : State) (pa : Nat) : Nat × Option Nat :=
  match s.motions.findSome? fun (_, m) => m.place pa with
  | some r => r
  | none => (pa, none)

/-- A page in a T2 expander whose link is down, and not in motion (R136). -/
def State.tierDown (s : State) (pa : Nat) : Bool :=
  match windowOf pa with
  | some (.t2 p) => s.linkDown.get false p && !(s.motions.any fun (_, m) => (m.place pa).isSome)
  | _ => false

/-! ## Bytes -/

/-- A byte as a view reads it. -/
def State.readByte (s : State) (pa : Nat) (v : Option EncTag) : Byte :=
  let (p, _) := s.sequenced pa
  if s.dead.get false (blockOf p) then 0
  else
    match s.enc.get none (p / 64) with
    | some t => if s.viewed (p / 64) v = some t then s.mem.get 0 p else (s.granule (p / 64) v).getD (p % 64) 0
    | none => s.mem.get 0 p

/-- A byte written in a view at one place. -/
def State.writeAt (s : State) (pa : Nat) (v : Option EncTag) (b : Byte) : State :=
  let s := (s.revive pa).retag (pa / 64) v
  { s with mem := s.mem.set 0 pa b }

/-- A byte written in a view, at every place the motion rules name. -/
def State.writeByte (s : State) (pa : Nat) (v : Option EncTag) (b : Byte) : State :=
  let (p, q) := s.sequenced pa
  let s := s.writeAt p v b
  match q with
  | some q => s.writeAt q v b
  | none => s

/-- The granules that a write of n bytes covers whole, and in the shadow stores the words, hold no standing error after it (log 51). -/
def State.rewritten (s : State) (pa n : Nat) : State :=
  let s := s.shadowRewritten pa n
  { s with ecc := (List.range ((pa + n) / 64 - (pa + 63) / 64)).foldl (fun t i =>
      match s.sequenced (((pa + 63) / 64 + i) * 64) with
      | (p, some q) => (t.set 0 (p / 64) 0).set 0 (q / 64) 0
      | (p, none) => t.set 0 (p / 64) 0) s.ecc }

/-! ## Writes held for a duplicated page (R128) -/

/-- The tag of a held byte: the granule follows the byte's address. -/
def heldView (tag : Option EncTag) (first pa : Nat) : Option EncTag :=
  match tag with
  | some (.key w e g) => some (.key w e (g + (pa / 64 - first / 64)))
  | t => t

/-- A held write becomes visible. -/
def State.applyHeld (s : State) (h : HeldWrite) : State :=
  match h.bytes with
  | [] => s
  | (p0, _) :: _ =>
    let s := h.bytes.foldl (fun s (p, b) => s.writeByte p (heldView h.tag p0 p) b) s
    if (h.bytes.getLast?.map Prod.fst) = some (p0 + (h.bytes.length - 1)) then s.rewritten p0 h.bytes.length else s

/-- The last holder has acknowledged: held writes become visible in order and the holder set is empty (R128). -/
def State.dupRelease (s : State) (page : Nat) : State :=
  ((s.dup.filter fun d => d.page == page).flatMap DupPage.held).foldl State.applyHeld
    { s with dup := s.dup.filter fun d => d.page != page }

/-- The holders of every page that a condition names acknowledge (log 52). -/
def State.dupReleaseIf (s : State) (p : DupPage → Bool) : State :=
  ((s.dup.filter p).map DupPage.page).foldl State.dupRelease s

/-- The holders of the pages that meet a physical range acknowledge, and hold nothing of it any more. -/
def State.dupSettle (s : State) (pa n : Nat) : State :=
  s.dupReleaseIf fun d => decide (d.page < pa + n) && decide (pa < d.page + d.size)

/-- A write of the agent is held for the page. -/
def DupPage.holdsFor (d : DupPage) (ag : Agent) : Bool := d.held.any fun h => h.ag == some ag

/-- The agent's held writes become visible, but for those of one page, named by address and size. -/
def State.dupFlush (s : State) (ag : Agent) (except : Option (Nat × Nat)) : State :=
  s.dupReleaseIf fun d => d.holdsFor ag && some (d.page, d.size) != except

/-! ## Reads and writes by physical address -/

/-- n bytes at a physical address. -/
def State.readPhys (s : State) (pa n : Nat) : List Byte := (List.range n).map fun i => s.readByte (pa + i) none
/-- A word at a physical address. -/
def State.read64 (s : State) (pa : Nat) : W64 := w64 (ofBytes (s.readPhys pa 8))
/-- Bytes written at a physical address. -/
def State.writePa (s : State) (pa : Nat) (l : List Byte) : State :=
  (l.zipIdx.foldl (fun s (b, i) => s.writeByte (pa + i) none b) (s.dupSettle pa l.length)).rewritten pa l.length
/-- A word written at a physical address. -/
def State.write64 (s : State) (pa : Nat) (v : W64) : State := s.writePa pa (leBytes 8 v.toNat)

/-! ## Whole granules -/

/-- The bytes of a granule that are not 0 as a view reads them, by offset. -/
def State.granuleTbl (s : State) (gr : Nat) (v : Option EncTag) : Tbl Byte :=
  let p := (s.sequenced (gr * 64)).1
  if s.dead.get false (blockOf p) then []
  else
    let t := s.enc.get none (p / 64)
    if t = none ∨ t = s.viewed (p / 64) v then (s.mem.filter fun (a, _) => a / 64 == p / 64).map fun (a, b) => (a % 64, b)
    else ((s.granule (p / 64) v).zipIdx.filter fun (b, _) => b != 0).map fun (b, i) => (i, b)

/-- A granule written whole at one place. -/
def State.granuleAt (s : State) (pa : Nat) (v : Option EncTag) (l : Tbl Byte) : State :=
  let s := (s.revive pa).clearRange (pa / 64 * 64) 64
  { s with mem := l.foldl (fun m (i, b) => m.set 0 (pa / 64 * 64 + i) b) s.mem, enc := s.enc.set none (pa / 64) v }

/-- A granule written whole, in a view, at every place that the motion rules name. -/
def State.putGranule (s : State) (gr : Nat) (v : Option EncTag) (l : Tbl Byte) : State :=
  let s := s.dupSettle (gr * 64) 64
  match s.sequenced (gr * 64) with
  | (p, some q) => (s.granuleAt p v l).granuleAt q v l
  | (p, none) => s.granuleAt p v l

/-! ## The error log (R156, R157) -/

/-- The entry of the ring, among those not yet consumed, that already logs a corrected granule. -/
def errFind (s : State) (pa lg : Nat) (dpa : W64) : Nat → Nat → Option Nat
  | 0, _ => none
  | k + 1, i =>
    let e := pa + 64 + 32 * (i % 2 ^ lg)
    if s.read64 e = dpa && bits (s.read64 (e + 8)) 0 8 == 1 then some e else errFind s pa lg dpa k (i + 1)

/-- An entry logged; in a full ring a corrected error of a granule already logged adds to its count, and any other is
dropped. -/
def State.logError (s : State) (granule kind : Nat) : State :=
  match s.errRing with
  | none => s
  | some (pa, lg) =>
    let prod := (s.read64 pa).toNat
    let cons := (s.read64 (pa + 8)).toNat
    let dpa := w64 (moduleNo * 2 ^ 52 + granule * 64)
    if 2 ^ lg ≤ prod - cons then
      match if kind = 1 then errFind s pa lg dpa (prod - cons) cons else none with
      | some e =>
        let w := s.read64 (e + 8)
        if bits w 32 32 = 2 ^ 32 - 1 then s else s.write64 (e + 8) (w + w64 (2 ^ 32))
      | none => s.write64 (pa + 16) (s.read64 (pa + 16) + 1)
    else
      let e := pa + 64 + 32 * (prod % 2 ^ lg)
      let s := s.write64 e dpa
      let s := s.write64 (e + 8) (w64 (2 ^ 32 + tierOf (granule * 64) * 2 ^ 8 + kind))
      let s := s.write64 (e + 16) (w64 s.now)
      let s := s.write64 (e + 24) 0
      s.write64 pa (w64 (prod + 1))

/-! ## Standing errors (R156) -/

/-- The granules that n bytes from an address lie in. -/
def granules (pa n : Nat) : List Nat := (List.range ((pa + n - 1) / 64 - pa / 64 + 1)).map fun i => pa / 64 + i

/-- The granule of a read of n bytes that answers an uncorrectable error: in a block that is live, and in no crumb that motion has
copied, which is corrected from the destination (R143, R155); of the shadow stores, the first one read (R173). -/
def State.badGranule (s : State) (pa n : Nat) : Option Nat :=
  if inShadow pa && s.sramBad 128 (pa - shadowBase) n then some (pa / 64)
  else if s.ecc.isEmpty then none
  else (granules pa n).findSome? fun g =>
    let (p, q) := s.sequenced (g * 64)
    if q.isNone && s.ecc.get 0 (p / 64) == 2 && !s.dead.get false (blockOf p) then some (p / 64) else none

/-- A read of n bytes corrects and logs what can be corrected: single errors of live blocks, and an uncorrectable one in a copied
crumb, whose destination has the bytes (R143, R156). -/
def State.corrected (s : State) (pa n : Nat) : State :=
  let s := if inShadow pa then s.sramCorrected 128 (pa - shadowBase) n else s
  if s.ecc.isEmpty then s
  else (granules pa n).foldl (fun s g =>
    let (p, q) := s.sequenced (g * 64)
    if !s.dead.get false (blockOf p) && (s.ecc.get 0 (p / 64) == 1 || (q.isSome && s.ecc.get 0 (p / 64) == 2)) then
      let s := s.logError (p / 64) 1
      { s with ecc := s.ecc.set 0 (p / 64) 0 } else s) s

/-! ## Hotness (R148, R149) -/

/-- The home controller of a byte and its block's index in the hotness array (R134, R148). -/
def hotIndex (pa : Nat) : Option (Nat × Nat) :=
  match windowOf pa with
  | some .t0 => some (pa / 2 ^ 21 % 8, pa / 2 ^ 21)
  | some .t1 => let b := (pa - 2 ^ 42) / 2 ^ 21; some (8 + b % 8, 262144 + b)
  | some (.t2 p) => some (16 + p, 1310720 + (pa - 2 ^ 44) / 2 ^ 21)
  | _ => none

/-- The controller of a counter of the array. -/
def hotController (i : Nat) : Nat :=
  if i < 262144 then i % 8 else if i < 1310720 then 8 + (i - 262144) % 8
  else if i - 1310720 < 2 ^ 22 then 16 else 17

/-- The counter of the array that a byte of memory holds, where the array stands or at the other place of its page in motion. -/
def State.hotCell (s : State) (base a : Nat) : Option Nat :=
  let here (a : Nat) : Option Nat := if base ≤ a ∧ a < base + 9699328 then some (a - base) else none
  (here a).orElse fun _ => s.motions.findSome? fun (_, m) => m.pieces.findSome? fun (x, y, n) =>
    if x ≤ a ∧ a < x + n then here (y + (a - x)) else if y ≤ a ∧ a < y + n then here (x + (a - y)) else none

/-- Every counter of a controller halved. -/
def State.hotHalve (s : State) (base ctl : Nat) : State :=
  let halved := s.mem.map fun (a, b) => if (s.hotCell base a).map hotController = some ctl then (a, b >>> 1) else (a, b)
  { s with mem := halved.filter fun (_, b) => b != 0 }

/-- One 64-byte request at a physical address. A sample adds to the counter's byte as it stands, what firmware has stored there included
(DESIGN CHOICE, log 66). -/
def State.hotRequest (s : State) (pa : Nat) : State :=
  match s.hotArray, hotIndex pa with
  | some (base, sr), some (ctl, i) =>
    let n := s.hotReqs.get 0 ctl
    let s := { s with hotReqs := s.hotReqs.set 0 ctl (n + 1) }
    if (n + Config.hotPhase ctl) % 2 ^ sr ≠ 0 then s
    else
      let b := s.readByte (base + i) none
      let s := s.writePa (base + i) [if b = 255 then 255 else b + 1]
      let k := s.hotSamples.get 0 ctl + 1
      if k = 2 ^ 20 then (({ s with hotSamples := s.hotSamples.set 0 ctl 0 }).hotHalve base ctl)
      else { s with hotSamples := s.hotSamples.set 0 ctl k }
  | _, _ => s

/-- The requests of n bytes from a physical address. -/
def State.hotRequests (s : State) (pa n : Nat) : State :=
  if s.hotArray.isNone ∨ n = 0 then s else (granules pa n).foldl (fun s g => s.hotRequest (g * 64)) s

/-- What a read of n bytes by an agent of the machine does besides: corrections and samples. -/
def State.touched (s : State) (pa n : Nat) : State := (s.corrected pa n).hotRequests pa n

/-- Bytes written at a physical address by an agent of the machine, a request at the home controllers (R149). -/
def State.putPhys (s : State) (pa : Nat) (l : List Byte) : State := (s.writePa pa l).hotRequests pa l.length

/-! ## Errors that go with their bytes (R173) -/

/-- The 64-bit words of the granule at an address whose read meets an uncorrectable error. -/
def State.badWords (s : State) (pa : Nat) : List Nat :=
  if inShadow pa then (List.range 8).filter fun i => s.sramBad 128 (pa - shadowBase + 8 * i) 8
  else if (s.badGranule pa 64).isSome then List.range 8 else []

/-- Words of the pool of a core from a byte on spoiled. -/
def State.spoilPool (s : State) (c off : Nat) (ws : List Nat) : State :=
  { s with sramEcc := ws.foldl (fun t i => t.set 0 (c * 2 ^ 20 + off / 8 + i) 2) s.sramEcc }

/-- Words of the granule at an address spoiled: what is moved from a word with an uncorrectable error stays one where it is written
(DESIGN CHOICE, log 51). -/
def State.spoil (s : State) (pa : Nat) (ws : List Nat) : State :=
  if ws.isEmpty then s
  else if inShadow pa then s.spoilPool 128 (pa - shadowBase) ws
  else { s with ecc := s.ecc.set 0 ((s.sequenced pa).1 / 64) 2 }

end Sys2Proof.Machine
end

