-- ==== Sys2Proof/Machine/Ops.lean ====
section
/-! DEFINITION. The named operations every meaning is written with: the monad of a word, registers and streams, the
wrappers that execute a word (guard, stream check, PC), taking a fault, and posting events. -/

namespace Sys2Proof.Machine

/-! ## The monad of a word -/

/-- A fault as its word raises it: cause, payloads C and D, whether it came with a response (R384), and for an
uncorrectable error the granule to log (R156). -/
structure FaultInfo where
  cause : Nat
  c : W64
  d : W64
  defer : Bool
  log : Option Nat
  deriving DecidableEq, Repr

/-- Why a word does not complete now. -/
inductive Stop where
  | fault (f : FaultInfo)
  | wait (w : Wait)
  /-- for a nonce of a world's messages (R171) -/
  | stall (world : Nat)
  | noStream
  deriving DecidableEq, Repr

/-- A computation over the machine that may stop; a stop leaves the state as it was. -/
abbrev M := StateT State (Except Stop)

def M.fault {α : Type} (cause : Nat) (c : W64 := 0) (d : W64 := 0) : M α :=
  fun _ => .error (.fault { cause, c, d, defer := false, log := none })
def M.wait {α : Type} (w : Wait) : M α := fun _ => .error (.wait w)
/-- A plain update of the state. -/
def M.upd (f : State → State) : M Unit := fun s => .ok ((), f s)
/-- A value read from the state. -/
def M.get {α : Type} (f : State → α) : M α := fun s => .ok (f s, s)
/-- A value and an update together. -/
def M.step {α : Type} (f : State → α × State) : M α := fun s => .ok (f s)
/-- Fault with a cause unless the condition holds. -/
def M.check (ok : Bool) (cause : Nat) (c : W64 := 0) (d : W64 := 0) : M Unit :=
  if ok then pure () else M.fault cause c d
/-- Wait unless the condition holds. -/
def M.await (ok : Bool) (w : Wait) : M Unit := if ok then pure () else M.wait w

/-- Run on a state; a stop changes nothing. -/
def M.try {α : Type} (m : M α) (s : State) : Except FaultInfo (α × State) :=
  match m s with
  | .ok r => .ok r
  | .error (.fault f) => .error f
  | .error _ => .error { cause := 0, c := 0, d := 0, defer := false, log := none }

/-- The same within a word: a fault is answered as a value and leaves the state as it was; a wait still waits. -/
def M.attempt {α : Type} (m : M α) : M (Except FaultInfo α) := fun s =>
  match m s with
  | .ok (x, s') => .ok (.ok x, s')
  | .error (.fault f) => .ok (.error f, s)
  | .error e => .error e

/-! ## The current stream -/

/-- The agent whose word executes. -/
def curAgent : M Agent := fun s =>
  match s.cur with
  | some ag => .ok (ag, s)
  | none => .error .noStream

/-- Its context. -/
def curCtx : M Ctx := fun s =>
  match s.cur with
  | none => .error .noStream
  | some ag =>
    match s.ctx ag.place with
    | some x => .ok (x, s)
    | none => .error .noStream

/-- Update its context. -/
def modCtx (f : Ctx → Ctx) : M Unit := fun s =>
  match s.cur with
  | none => .error .noStream
  | some ag =>
    match s.ctx ag.place with
    | some x => .ok ((), s.setCtx ag.place (some (f x)))
    | none => .error .noStream

/-- The stream. -/
def curStream : M Stream := fun s =>
  match s.cur with
  | none => .error .noStream
  | some ag =>
    match s.ctx ag.place with
    | some x => .ok (x.stream ag, s)
    | none => .error .noStream

/-- Update the stream. -/
def modStream (f : Stream → Stream) : M Unit := fun s =>
  match s.cur with
  | none => .error .noStream
  | some ag =>
    match s.ctx ag.place with
    | some x => .ok ((), s.setCtx ag.place (some (x.setStream ag (f (x.stream ag)))))
    | none => .error .noStream

/-- The world of the executing task. -/
def curWorld : M Nat := do return (← curCtx).world

/-! ## Registers (R177) -/

/-- Register n: s0 reads 0. -/
def Stream.reg (st : Stream) (n : Nat) : W64 := if n = 0 then 0 else st.regs.get 0 n
/-- A write of register n: a write to s0 is discarded. -/
def Stream.setReg (st : Stream) (n : Nat) (v : W64) : Stream :=
  if n = 0 then st else { st with regs := st.regs.set 0 n v }
/-- Predicate n: p0 reads 1. -/
def Stream.pred (st : Stream) (n : Nat) : Bool := if n = 0 then true else st.preds.get false n
/-- A write of predicate n: a write to p0 is discarded. -/
def Stream.setPred (st : Stream) (n : Nat) (b : Bool) : Stream :=
  if n = 0 then st else { st with preds := st.preds.set false n b }

def sreg (n : BitVec 6) : M W64 := do return (← curStream).reg n.toNat
def writeSreg (n : BitVec 6) (v : W64) : M Unit := modStream fun st => st.setReg n.toNat v
def preg (n : Nat) : M Bool := do return (← curStream).pred n
def writePreg (n : Nat) (b : Bool) : M Unit := modStream fun st => st.setPred n b

/-- OR flags into FPSTAT (R218). -/
def setFlags (fl : BitVec 7) : M Unit := modStream fun st => { st with fpstat := st.fpstat ||| fl.setWidth 64 }

/-- The next PC. -/
def setPc (pc : Int) : M Unit := modStream fun st => { st with pc := pc }

/-! ## Reports and events (R68 to R72, R382) -/

/-- Payload B of a report (R382). -/
def reportB (cause : Nat) (p : Option Place) (agent : Nat) (defer : Bool) : W64 :=
  w64 (cause + (match p with
    | some (.core c) => c <<< 8 + agent <<< 15
    | some (.thread t) => 5 <<< 15 + t <<< 18
    | none => 7 <<< 15) + (if defer then 1 <<< 26 else 0))

/-- The ordering queue of a report for a place (R382). -/
def reportOqn : Option Place → Nat
  | some (.core c) => c
  | some (.thread t) => 128 + t
  | none => 1002

/-- Events of a world in a class that count against its quota. -/
def State.eventCount (s : State) (w cls : Nat) : Nat :=
  (s.events.filter fun e => e.world == w && e.cls == cls).length

/-- A world's quota in a class has room. -/
def State.eventRoom (s : State) (w cls : Nat) : Bool := s.eventCount w cls < s.quota w (16 + cls)

/-- An event posted (R69, R72): it takes the next OSEQ of its queue. -/
def State.post (s : State) (kind w cls oqn : Nat) (payload : List W64) : State :=
  let key := w * 1024 + oqn
  let n := s.oseq.get 0 key
  let word0 := w64 ((n % 2 ^ 32) <<< 32 + w <<< 21 + oqn <<< 11 + cls <<< 8 + kind)
  { s with
    oseq := s.oseq.set 0 key (n + 1)
    events := s.events ++ [{ cls, world := w, oqn, oseq := n, words := word0 :: w64 s.now :: fitWords payload,
                             st := .posted, holder := none }] }
where
  /-- Six payload words. -/
  fitWords (l : List W64) : List W64 := (List.range 6).map fun i => l.getD i 0

/-- An event posted, or held by its source until its world's quota has room (R71). -/
def State.postOrHold (s : State) (kind w cls oqn : Nat) (payload : List W64) (from_ : Option Place) : State :=
  if s.eventRoom w cls && !(s.held.any fun h => h.world == w && h.cls == cls) then s.post kind w cls oqn payload
  else { s with held := s.held ++ [{ kind, world := w, cls, oqn, payload, from_ }] }

/-- The held events that have room, in the order they arose (R71). -/
def State.releaseHeld (s : State) : State :=
  let rec go (s : State) (kept : List HeldEvent) : List HeldEvent → State
    | [] => { s with held := kept.reverse }
    | h :: t =>
      if s.eventRoom h.world h.cls && !(kept.any fun k => k.world == h.world && k.cls == h.cls) then
        go (s.post h.kind h.world h.cls h.oqn h.payload) kept t
      else go s (h :: kept) t
  go s [] s.held

/-- A fault report (R70, R382): to world 0, and a copy to a further world where a rule says so. -/
def State.report (s : State) (payload : List W64) (p : Option Place) (also : Option Nat) : State :=
  let s := s.postOrHold 0x04 0 0 (reportOqn p) payload p
  match also with
  | some w => if w = 0 then s else s.postOrHold 0x04 w 0 0 payload none
  | none => s

/-- A report of a Poleth die agent: record or zero, cause, C and D. -/
def State.dieReport (s : State) (a : W64) (cause : Nat) (c d : W64) (also : Option Nat) : State :=
  s.report [a, reportB cause none 7 false, c, d] none also

/-- An uncorrectable error of the tiers met by an access: logged, and a report of the controller to world 0, beside the one of the task
whose access it was (R156). That report has payload A 0, the granule's PA in C and D 0, and comes from AGENT 7 (DESIGN CHOICE, log 51).
An error of the SRAM has neither (R173). -/
def State.memError (s : State) (granule : Nat) : State :=
  if tiered (granule * 64) then (s.logError granule 2).dieReport 0 Cause.memError (w64 (granule * 64)) 0 none else s

/-! ## Nonce counters of a sending stream (R171) -/

/-- The limit of a nonce counter. -/
def nonceLimit : Nat := 2 ^ 48 - 1
/-- k more nonces bring a counter to the mark at which KEY_LOW is posted. -/
def nonceLow (n k : Nat) : Bool := decide (n < 2 ^ 48 - 2 ^ 32) && decide (2 ^ 48 - 2 ^ 32 ≤ n + k)

/-- The KEY_LOW event of a stream. -/
def State.keyLow (s : State) (a : W64) : State := s.postOrHold 0x09 0 0 1003 [a, w64 Status.keyLow] none

/-- k nonces of a stream: the first one, or none where the stream has stopped. It stops once its counter reaches the limit, or where a
message has more packets than nonces are left, which then waits whole (DEDUCED, log 27); that is reported once. -/
def State.takeNonces (s : State) (n : Nonce) (k : Nat) (a : W64) : Option Nat × Nonce × State :=
  let fits := decide (n.count + k ≤ nonceLimit)
  let stops := !fits || decide (n.count + k = nonceLimit)
  if k = 0 then (some n.count, n, s)
  else if n.exhausted then (none, n, s)
  else
    let low := fits && nonceLow n.count k
    let s := if low && !n.low then s.keyLow a else s
    (if fits then some n.count else none,
      { count := if fits then n.count + k else n.count, low := n.low || low, exhausted := stops },
      if stops then s.dieReport 0 Cause.keyExhausted 0 0 none else s)

/-- A nonce counter not yet used. -/
def Nonce.fresh : Nonce := { count := 0, low := false, exhausted := false }

/-- The secure domain that a world's messages are sent in: its lowest one with a key (log 27). -/
def State.secureDomain (s : State) (w : Nat) : Option (Nat × LinkKey) :=
  s.linkKeys.findSome? fun (d, k) =>
    match k with
    | some k => if k.world = w ∧ !k.gens.isEmpty then some (d, k) else none
    | none => none

/-- The current generation of a list of generations. -/
def currentGen (l : List (Nat × Nat)) : Nat := l.foldl (fun g (n, _) => if g < n then n else g) 0

/-- The packets of a message, of at most 4,096 payload bytes (R45). -/
def packets (len : Nat) : Nat := if len ≤ 4096 then 1 else (len + 4095) / 4096

/-- k nonces for packets of a world: whether they may leave. -/
def State.linkNonces (s : State) (w k : Nat) : Bool × State :=
  match s.secureDomain w with
  | none => (true, s)
  | some (d, key) =>
    let g := currentGen key.gens
    let (r, n, s) := s.takeNonces (key.nonce.get Nonce.fresh g) k (w64 (d + g * 2 ^ 32))
    (r.isSome, { s with linkKeys := s.linkKeys.set none d (some { key with nonce := key.nonce.set Nonce.fresh g n }) })

/-- The stream of a world has stopped, which is reported once. -/
def State.exhausted (s : State) (w : Nat) : State := (s.linkNonces w (nonceLimit + 1)).2

/-- Packets of a world leave, or stall until the next key generation is installed, in order (R171). -/
def State.sendOut (s : State) (w k : Nat) (o : Output) : State :=
  match s.linkNonces w k with
  | (true, s) => { s with outbox := s.outbox ++ [o] }
  | (false, s) => { s with stalled := s.stalled ++ [(w, k, o)] }

/-- What stalled of a world leaves, as far as the nonces go. -/
def State.unstall (s : State) (w : Nat) : State :=
  let mine := s.stalled.filter fun x => x.1 == w
  mine.foldl (fun s (w, k, o) => s.sendOut w k o) { s with stalled := s.stalled.filter fun x => x.1 != w }

/-- Stall for a nonce. -/
def M.stall {α : Type} (w : Nat) : M α := fun _ => .error (.stall w)
/-- A word stalls unless it gets k nonces of a world. -/
def awaitNonces (w k : Nat) : M Unit := fun s =>
  match s.linkNonces w k with
  | (true, s) => .ok ((), s)
  | (false, _) => .error (.stall w)

/-! ## Taking a fault (R97, R383, R387) -/

/-- A PC as a report's 17-bit field. -/
def pcField (pc : Int) : Nat := (pc % 2 ^ 17).toNat

/-- Payload E: the PCs of the streams at the stop. -/
def pcsWord (x : Ctx) : W64 :=
  if x.control then w64 (pcField x.e.pc) else w64 (pcField x.a.pc + pcField x.e.pc <<< 17)

/-- A fault recorded in a context whose task is running: the primary fault when there is none, else, for a deferred
one, the pending fault (R387). The task stops: no stream starts a further word. -/
def Ctx.recordFault (x : Ctx) (r : FaultRec) (defer : Bool) : Ctx :=
  match x.primary with
  | none => { x with primary := some r, phase := .stopping }
  | some _ =>
    let x := { x with a := { x.a with wait := none }, e := { x.e with wait := none } }
    if defer && x.pending.isNone then { x with pending := some r } else x

/-- Taking a fault: the ONE operation by which a word, an engine or a response stops its task. The context records the
cause with payloads B to D and, for a deferred fault, F; the drain, the bank switch and the report follow in the step
FAULT_STOP. -/
def State.raise (s : State) (p : Place) (agent : Nat) (f : FaultInfo) (issue : W64) : State :=
  match s.ctx p with
  | none => s
  | some x =>
    let r : FaultRec :=
      { b := reportB f.cause (some p) agent f.defer, c := f.c, d := f.d, e := 0, f := if f.defer then issue else 0 }
    s.setCtx p (some (x.recordFault r f.defer))

/-! ## Executing a word -/

/-- The streams a group is legal in (R197). -/
inductive Legal where
  | any | ae | aOnly | eOnly | npOnly | supervisor
  deriving DecidableEq, Repr

/-- A word of the group may run in this stream. -/
def Legal.ok (l : Legal) (ag : Agent) (world : Nat) : Bool :=
  match l, ag with
  | .any, _ => true
  | .ae, .np _ => false
  | .ae, _ => true
  | .aOnly, .a _ => true
  | .eOnly, .e _ => true
  | .npOnly, .np _ => true
  | .supervisor, .np _ => world == 0
  | _, _ => false

/-- The PC after a word that does not branch; the word is finished, with its repeat state and its wait (R191, R194). -/
def Stream.advance (st : Stream) : Stream := { st with pc := st.pc + 1, rpt := 0, wait := none, ir := none }

/-- Payload F of a deferred fault: the issuing word's PC and its repetition. -/
def issueField (pc : Int) (rep : Nat) : W64 := w64 (pcField pc + (rep % 2 ^ 12) <<< 17)

/-- An uncorrectable error that a fault carries is logged (R156). -/
def State.logFault (s : State) (f : FaultInfo) : State :=
  match f.log with
  | some g => s.memError g
  | none => s

/-- Causes whose report names in payload C the PC of the word that raised them (R382): those of R199, R232, R331 and R335
that are no faults of an access. -/
def Cause.named (cause : Nat) : Bool :=
  [illegalInstr, stream, viewRange, ringRange, trap, exitMismatch, matrixCmd, badOperand, staleTag, tagState, notOwned,
    eventState, barrierState, halt].contains cause

/-- A fault of the word at a PC (DEDUCED, log 30). -/
def FaultInfo.atWord (f : FaultInfo) (pc : Int) : FaultInfo :=
  if Cause.named f.cause then { f with c := w64 (pcField pc) } else f

/-- A word's computation over a state: its next state, the fault it takes, or the word waiting. A fault leaves every effect of
the word undone (R198); a deferred one is no stop of the word, but comes with a response (R384). -/
def State.runBody (s : State) (body : M Unit) : Host.Outcome State Fault Refusal :=
  match s.cur with
  | none => .fault .noStream
  | some ag =>
    match s.ctx ag.place with
    | none => .fault .noStream
    | some x =>
      let st := x.stream ag
      match body s with
      | .ok (_, s') => .next s'
      | .error (.fault f) => .next ((s.logFault f).raise ag.place ag.code (f.atWord st.pc) 0)
      | .error (.wait w) => .next (s.setCtx ag.place (some (x.setStream ag { st with wait := some w })))
      | .error (.stall w) =>
        .next ((s.exhausted w).setCtx ag.place (some (x.setStream ag { st with wait := some .outbound })))
      | .error .noStream => .fault .noStream

/-- The stream check of R198 step 3. -/
def requireLegal (l : Legal) : M Unit := do
  M.check (l.ok (← curAgent) (← curWorld)) Cause.stream

/-- An unguarded word: it advances the PC and takes its effect, which may set the PC again. -/
def word (l : Legal) (body : M Unit) (s : State) : Host.Outcome State Fault Refusal :=
  s.runBody do
    requireLegal l
    modStream Stream.advance
    body

/-- A guarded word (R195): with its guard 0 it only advances the PC. -/
def wordIf (l : Legal) (pg : BitVec 3) (body : M Unit) (s : State) : Host.Outcome State Fault Refusal :=
  s.runBody do
    requireLegal l
    let g ← preg pg.toNat
    modStream Stream.advance
    if g then body else pure ()

/-- A guarded word with decode checks that depend on the stream (R198 step 5), made whatever the guard. -/
def wordChecked (l : Legal) (checks : M Unit) (pg : BitVec 3) (body : M Unit) (s : State) :
    Host.Outcome State Fault Refusal :=
  s.runBody do
    requireLegal l
    checks
    let g ← preg pg.toNat
    modStream Stream.advance
    if g then body else pure ()

/-- The PC of the word whose body runs. -/
def curPc : M Int := do return (← curStream).pc - 1

/-- The same where the word may be a repetition, whose PC advances only after the last. -/
def wordPc : M Int := do
  let st ← curStream
  return if st.rpt = 0 then st.pc - 1 else st.pc

/-- One repetition of a run-length word (R194): `body i` for repetition i; the repeat state moves to the next one, and
after the last the PC advances. The guard is read only when the word begins; `checks` are the decode checks that depend
on the stream. -/
def wordRep (l : Legal) (checks : M Unit) (pm : BitVec 3) (rep : Nat) (body : Nat → M Unit) (s : State) :
    Host.Outcome State Fault Refusal :=
  s.runBody do
    requireLegal l
    checks
    let st ← curStream
    if st.rpt = 0 && !st.pred pm.toNat then modStream Stream.advance
    else
      let i := st.rpt
      if i < rep then modStream fun st => { st with rpt := i + 1, wait := none } else modStream Stream.advance
      body i

/-- An event's update of the machine as an outcome. -/
def nextState (s : State) : Host.Outcome State Fault Refusal := .next s

end Sys2Proof.Machine
end

