-- ==== Sys2Proof/Machine/Translate.lean ====
section
/-! DEFINITION. Address forms, page-table walks, TLBs and permissions: how an address operand becomes a target
(R106 to R126). -/

namespace Sys2Proof.Machine

/-- What an access needs of its leaf (R117). -/
inductive Need where
  | exec | read | write | atomic
  deriving DecidableEq, Repr

/-- An access as the translation path sees it: its need, its kind in reports (R382), the stream that makes it (none for
an engine or an agent of the Poleth die), its die (4 for the Poleth die), the world, and the TLB that serves it. -/
structure Access where
  need : Need
  kind : Nat
  who : Option Agent
  die : Nat
  world : Nat
  unit : TlbUnit
  /-- the core whose scratchpad the own window is, with its task's PARTW -/
  own : Option (Nat × W64)
  /-- for a copy, the cores its multicast names: what it may reach by alias (R111) -/
  multicast : List Nat
  /-- the access may touch sealed blocks: false for a copy that breaks R163 -/
  sealOk : Bool
  deriving DecidableEq, Repr

/-- The fault of an access: the first faulting address, and the level of the walk beside the access kind (R120, R382). -/
def Access.fault (acc : Access) (cause va level : Nat) : FaultInfo :=
  { cause, c := w64 va, d := w64 (level + acc.kind <<< 4), defer := false, log := none }
def xfault {α : Type} (acc : Access) (cause va level : Nat) : Except FaultInfo α := .error (acc.fault cause va level)

/-! ## Leaves (R115) -/

def leafV (e : W64) : Bool := e.getLsbD 0
def leafLeaf (e : W64) : Bool := e.getLsbD 1
def leafRD (e : W64) : Bool := e.getLsbD 2
def leafWR (e : W64) : Bool := e.getLsbD 3
def leafEX (e : W64) : Bool := e.getLsbD 4
def leafAT (e : W64) : Bool := e.getLsbD 5
def leafA (e : W64) : Bool := e.getLsbD 6
def leafD (e : W64) : Bool := e.getLsbD 7
def leafMOT (e : W64) : Nat := bits e 8 2
def leafDUP (e : W64) : Bool := e.getLsbD 10
def leafLOSSY (e : W64) : Nat := bits e 11 2
def leafSEAL (e : W64) : Bool := e.getLsbD 15
/-- The page's physical address, for a page of 2^log2 bytes. -/
def leafPA (e : W64) (log2 : Nat) : Nat := bits e log2 (52 - log2) * 2 ^ log2

/-- The leaf grants what the access needs (R117). -/
def Need.granted (n : Need) (e : W64) : Bool :=
  match n with
  | .exec => leafEX e
  | .read => leafRD e
  | .write => leafWR e
  | .atomic => leafRD e && leafWR e && leafAT e

/-! ## The walk (R114, R116) -/

/-- The lowest VA bit a level indexes. -/
def levelLo : Nat → Nat
  | 4 => 44
  | 3 => 32
  | 2 => 26
  | 1 => 21
  | _ => 16
/-- The number of VA bits a level indexes. -/
def levelBits : Nat → Nat
  | 4 => 12
  | 3 => 12
  | 2 => 6
  | _ => 5
/-- The size of a level's table in bytes. -/
def tableSize (lvl : Nat) : Nat := 8 * 2 ^ levelBits lvl

/-- A leaf found by a walk: its value, where it stands and its level, and the entries that the walk read. -/
structure Found where
  leaf : W64
  ptePa : Nat
  level : Nat
  reads : List Nat
  deriving DecidableEq, Repr

/-- A walk that fails: the cause, the level, and the granule whose error it met. -/
structure WalkFail where
  cause : Nat
  level : Nat
  log : Option Nat
  deriving DecidableEq, Repr

/-- The walker's read of an entry (R116, R156, R159). An entry that is not installed reads 0 and is not valid (DESIGN CHOICE,
log 66). -/
def State.pteAt (s : State) (pa lvl : Nat) : Except WalkFail W64 :=
  if s.tierDown pa then .error { cause := Cause.tierDown, level := lvl, log := none }
  else
    match s.badGranule pa 8 with
    | some g => .error { cause := Cause.walkError, level := lvl, log := some g }
    | none => .ok (s.read64 pa)

/-- A leaf of a level that a walk accepts (R116). -/
def leafOk (e : W64) (lvl : Nat) : Bool := lvl != 4 && leafLOSSY e != 3 && bits e 16 (levelLo lvl - 16) == 0
/-- An entry that names the next table (R116). -/
def tableOk (e : W64) (lvl : Nat) : Bool := lvl != 0 && bits e 2 6 == 0 && bits e 0 52 % tableSize (lvl - 1) == 1
/-- The table that an entry names. -/
def nextTable (e : W64) : Nat := bits e 8 44 * 2 ^ 8

/-- One walk from the table of a level; `fuel` bounds the levels left. -/
def walkFrom (s : State) (va : Nat) : Nat → Nat → Nat → Except WalkFail Found
  | 0, _, lvl => .error { cause := Cause.badPte, level := lvl, log := none }
  | fuel + 1, tab, lvl =>
    let pa := tab + 8 * ((va >>> levelLo lvl) % 2 ^ levelBits lvl)
    let fail (cause : Nat) : Except WalkFail Found := .error { cause, level := lvl, log := none }
    match s.pteAt pa lvl with
    | .error f => .error f
    | .ok e =>
      if !leafV e then fail Cause.nomap
      else if bits e 52 12 ≠ 0 then fail Cause.badPte
      else if leafLeaf e then
        if leafOk e lvl then .ok { leaf := e, ptePa := pa, level := lvl, reads := [pa] } else fail Cause.badPte
      else if !tableOk e lvl then fail Cause.badPte
      else (walkFrom s va fuel (nextTable e) (lvl - 1)).map fun f => { f with reads := pa :: f.reads }

/-- Translation of a world is enabled (R113). -/
def State.translates (s : State) (w : Nat) : Bool := (s.world w).ttw.getLsbD 0
/-- The root table of a world. -/
def State.rootOf (s : State) (w : Nat) : Nat := bits (s.world w).ttw 15 37 * 2 ^ 15

/-- A walk of a world's tables; NOMAP with translation disabled, at level 4, where no table is read (DESIGN CHOICE, log 66). -/
def walk (s : State) (w va : Nat) : Except WalkFail Found :=
  if !s.translates w then .error { cause := Cause.nomap, level := 4, log := none } else walkFrom s va 5 (s.rootOf w) 4

/-- What the reads of a walk do at the controllers. -/
def State.walked (s : State) (reads : List Nat) : State := reads.foldl (fun s pa => s.touched pa 8) s

/-! ## TLBs (R121, R118) -/

/-- How many entries a unit holds; the last-level TLBs keep 4 GiB pages apart. -/
def TlbEntry.capacity (e : TlbEntry) : Nat :=
  match e.unit with
  | .scalar _ => 64
  | .stream _ _ => 8
  | .die _ => if e.level = 3 then 2048 else 6144
  | .poleth => 4096

/-- Two entries share one capacity. -/
def TlbEntry.sameSet (a b : TlbEntry) : Bool :=
  a.unit == b.unit && (match a.unit with | .die _ => (a.level == 3) == (b.level == 3) | _ => true)

def TlbEntry.hit (e : TlbEntry) (u : TlbUnit) (w va : Nat) : Bool :=
  e.unit == u && e.world == w && e.base == va >>> e.log2

/-- The last-level TLB behind a unit, if any. -/
def TlbUnit.next : TlbUnit → Option TlbUnit
  | .scalar ag => match ag with | .np _ => none | .a c => some (.die (c / 32)) | .e c => some (.die (c / 32))
  | .stream c _ => some (.die (c / 32))
  | .die _ => none
  | .poleth => none

/-- An entry installed; where its set is full the oldest entry of the set goes (log 9). -/
def installTlb (l : List TlbEntry) (e : TlbEntry) : List TlbEntry :=
  let n := (l.filter e.sameSet).length
  (if e.capacity ≤ n then l.eraseP e.sameSet else l) ++ [e]

/-- A bit ORed into a PTE at its location (R118). -/
def State.orPte (s : State) (pa : Nat) (m : W64) : State :=
  let s := s.dupSettle pa 8
  let e := s.read64 pa
  if e ||| m = e then s else (s.write64 pa (e ||| m)).hotRequests pa 8

/-- A leaf may map the byte for a world: it is installed, and a device register only for world 0 (R116). -/
def mayMap (w pa : Nat) : Bool :=
  match windowOf pa with
  | some .device => w == 0
  | some _ => true
  | none => false

/-- The entry of a unit that translates an address. -/
def State.tlbHit (s : State) (u : TlbUnit) (w va : Nat) : Option TlbEntry := s.tlb.find? fun e : TlbEntry => e.hit u w va

/-- The translation of an address in a unit: a TLB hit, or a walk that sets A and installs the leaf. -/
def lookup (s : State) (acc : Access) (va : Nat) : Except FaultInfo (TlbEntry × State) :=
  if !s.translates acc.world then xfault acc Cause.nomap va 4
  else
    match s.tlbHit acc.unit acc.world va with
    | some e => .ok (e, s)
    | none =>
      match acc.unit.next.bind fun u => s.tlbHit u acc.world va with
      | some e =>
        let e := { e with unit := acc.unit }
        .ok (e, { s with tlb := installTlb s.tlb e })
      | none =>
        match walk s acc.world va with
        | .error f => .error { acc.fault f.cause va f.level with log := f.log }
        | .ok f =>
          let log2 := levelLo f.level
          if !mayMap acc.world (leafPA f.leaf log2 + va % 2 ^ log2) then xfault acc Cause.badPte va f.level
          else
            let s := (s.walked f.reads).orPte f.ptePa (w64 0x40)
            let e : TlbEntry :=
              { unit := acc.unit, world := acc.world, base := va >>> log2, log2, leaf := f.leaf ||| 0x40,
                ptePa := f.ptePa, level := f.level }
            let s := match acc.unit.next with
              | some u => { s with tlb := installTlb s.tlb { e with unit := u } }
              | none => s
            .ok (e, { s with tlb := installTlb s.tlb e })

/-! ## Segments of a translated access -/

/-- A run of bytes of one page: its VA and length, where its stored bytes begin (for a lossy leaf, at half the
offset), their storage VA, the world and the leaf. -/
structure Seg where
  va : Nat
  len : Nat
  pa : Nat
  sva : Nat
  world : Nat
  entry : TlbEntry
  deriving DecidableEq, Repr

/-- The element width of a lossy leaf (R151). -/
def lossyWidth (e : W64) : Nat := if leafLOSSY e = 1 then 4 else 2

/-- Stored bytes of a segment. -/
def Seg.stored (g : Seg) : Nat := if leafLOSSY g.entry.leaf = 0 then g.len else g.len / 2

/-- The failing crumb and block of a LOST leaf: those of the record that lost it (R136), 0 where none holds it any more (log 66). -/
def State.lostAt (s : State) (ptePa : Nat) : Nat × Nat :=
  (s.motions.findSome? fun (_, m) => if m.lost && m.leaves.any (fun l => l.pte == ptePa) then some (m.fcr, m.cur) else none).getD (0, 0)

/-- The window of a leaf's page belongs to the storage scope (R109): host to 0b11, the others to 0b01. -/
def scopeFits (stor : Nat) (w : Window) : Bool := (w == .host) == (stor == 3)

/-- The checks of one segment in the order of R258: presence, scope, permission, then lossy, sealed and motion. -/
def checkSeg (s : State) (acc : Access) (stor : Nat) (g : Seg) (start total : Nat) : Except FaultInfo Unit :=
  let e := g.entry.leaf
  let first := leafPA e g.entry.log2 + g.va % 2 ^ g.entry.log2
  let bad (cause : Nat) : Except FaultInfo Unit := xfault acc cause g.va g.entry.level
  match windowOf first, windowOf (first + g.len - 1) with
  | some w, some _ =>
    if w == .device && acc.world != 0 then bad Cause.badPte
    else if !scopeFits stor w then bad Cause.scopeMismatch
    else if !acc.need.granted e then bad Cause.perm
    else if leafLOSSY e ≠ 0 &&
        (start % lossyWidth e ≠ 0 || total % lossyWidth e ≠ 0 || acc.need == .atomic || acc.need == .exec || leafSEAL e)
      then bad Cause.lossyAccess
    else if leafSEAL e && acc.world ≠ 0 && (acc.need == .atomic || acc.need == .exec || !acc.sealOk) then
      bad Cause.sealAccess
    else if leafMOT e = 3 then
      let (crumb, blk) := s.lostAt g.entry.ptePa
      let f := acc.fault Cause.migrationAbort g.va g.entry.level
      .error { f with d := f.d + w64 (crumb <<< 16 + blk <<< 25) }
    else if s.tierDown g.pa then bad Cause.tierDown
    else .ok ()
  | _, _ => bad Cause.badPte

/-- The segments of a world VA range, page by page, each checked (R191, R116); `fuel` bounds the pages. -/
def segments (acc : Access) (stor start total : Nat) :
    Nat → Nat → Nat → State → Except FaultInfo (List Seg × State)
  | 0, _, _, s => .ok ([], s)
  | fuel + 1, va, n, s =>
    if n = 0 then .ok ([], s)
    else if 2 ^ 56 ≤ va then xfault acc Cause.addrForm va 0
    else if va >>> 48 = 0xFF then
      xfault acc (if va % 2 ^ 48 < 2 ^ 30 then Cause.scopeMismatch else Cause.spRange) va 0
    else
      match lookup s acc va with
      | .error f => .error f
      | .ok (e, s) =>
        let page := 2 ^ e.log2
        let off := va % page
        let len := if n ≤ page - off then n else page - off
        let soff := if leafLOSSY e.leaf = 0 then off else off / 2
        let g : Seg :=
          { va, len, pa := leafPA e.leaf e.log2 + soff, sva := va - off + soff, world := acc.world, entry := e }
        match checkSeg s acc stor g start total with
        | .error f => .error f
        | .ok () =>
          match segments acc stor start total fuel (va + len) (n - len) s with
          | .error f => .error f
          | .ok (l, s) => .ok (g :: l, s)

/-! ## Targets (R109 to R112) -/

/-- Where an access goes: scratchpad bytes of a core with the address that names them, translated bytes of this module, another module, or nowhere, as its response
will say. `via` is the operand of a domain-remote access of this module itself (R112). -/
inductive Target where
  | pool (core off va : Nat)
  | mem (via : Option W64) (segs : List Seg)
  | remote (module job va : Nat)
  | refused (f : FaultInfo)
  deriving DecidableEq, Repr

/-- A scratchpad bank carries the world's owner tag; the tag word holds V in bit 6 (R167). -/
def Core.bankOwned (k : Core) (bank w : Nat) : Bool := k.owner.get 0 bank == 64 + w

/-- The units of a placement that are register space or accumulator store (R25, R178). -/
def computeUnits (partw : W64) : List Nat :=
  (List.range (bits partw 7 5)).map (bits partw 0 7 + ·) ++ (List.range (bits partw 19 6)).map (bits partw 12 7 + ·)

/-- Bytes of a core's pool that views and slabs alone reach: of its active task's register space and accumulator store (R178,
R309; DEDUCED, log 66). -/
def Core.computeOnly (k : Core) (x n : Nat) : Bool :=
  match k.ctx with
  | some t => (computeUnits t.partw).any fun u => decide (u * 65536 < x + n) && decide (x < (u + 1) * 65536)
  | none => false

/-- Every 128 KiB bank that holds a byte of a pool range carries the world's owner tag (R111). -/
def Core.rangeOwned (k : Core) (x n w : Nat) : Bool :=
  (List.range ((x + n - 1) / 2 ^ 17 - x / 2 ^ 17 + 1)).all fun i => k.bankOwned (x / 2 ^ 17 + i) w

/-- The runs of a pool range by core: past the end of a core's pool it goes on in the next one's, as the alias numbers them (R111). -/
def poolSpans : Nat → Nat → Nat → Nat → List (Nat × Nat × Nat)
  | 0, _, _, _ => []
  | k + 1, c, off, n =>
    if off + n ≤ 2 ^ 23 then [(c, off, n)] else (c, off, 2 ^ 23 - off) :: poolSpans k (c + 1) 0 (n - (2 ^ 23 - off))

/-- The runs of n pool bytes from a byte of a core on. -/
def poolRunsOf (c off n : Nat) : List (Nat × Nat × Nat) := poolSpans ((off + n) / 2 ^ 23 + 1) c off n

/-- An access to a run of another core's pool is performed (R111), outside what views and slabs alone reach (R178, R309). -/
def State.aliasHeld (s : State) (acc : Access) (c x n : Nat) : Bool :=
  s.holdsCore acc.world c &&
    (acc.multicast.contains c || (match acc.who with | some (.a m) | some (.e m) => m / 32 == c / 32 | _ => false)) &&
    (s.core c).rangeOwned x n acc.world && !(s.core c).computeOnly x n

/-- Scratchpad forms (R110, R111). -/
def resolvePool (s : State) (acc : Access) (ea : W64) (n : Nat) : Except FaultInfo Target :=
  let va := ea.toNat
  let bad (cause : Nat) : Except FaultInfo Target := xfault acc cause va 0
  if 2 ^ 56 ≤ va then bad Cause.addrForm
  else if va < 2 ^ 23 then
    match acc.own with
    | some (c, partw) =>
      if va + n ≤ bits partw 32 8 * 65536 then .ok (.pool c (bits partw 25 7 * 65536 + va) va) else bad Cause.spRange
    | none => bad Cause.spRange
  else if va >>> 48 ≠ 0xFF then bad Cause.scopeMismatch
  else
    let a := va % 2 ^ 48
    if a + n ≤ 2 ^ 30 && (poolRunsOf (a / 2 ^ 23) (a % 2 ^ 23) n).all fun (c, x, n) => s.aliasHeld acc c x n then
      .ok (.pool (a / 2 ^ 23) (a % 2 ^ 23) va)
    else bad Cause.spRange

/-- The world a JobID is bound to, where it has a partition (R47). -/
def State.jobWorld (s : State) (job : Nat) : Option Nat :=
  match s.jobs.get none job with
  | some w => if s.hasPart w then some w else none
  | none => none

/-- Payload D of LANDING_ERROR and UNBOUND (R382). -/
def landingD (job src : Nat) (ddi : Option Nat) : W64 :=
  w64 (job % 2 ^ 24 + src % 2 ^ 10 * 2 ^ 24 + (ddi.getD 65535) % 65536 * 2 ^ 34)

/-- The refusal of a domain-remote access, as its response brings it (R112). -/
def Access.refusal (acc : Access) (operand : W64) : FaultInfo :=
  { cause := Cause.remoteAccess, c := operand, d := w64 (acc.kind <<< 4), defer := true, log := none }

/-- A domain-remote operand (R112). On this module the access is resolved under the bound world, and a refusal of any kind comes
back with the response; an unbound JobID is reported as R47 gives. -/
def resolveRemote (s : State) (acc : Access) (ea : W64) (n : Nat) : Except FaultInfo (Target × State) :=
  let domw := (s.world acc.world).domw
  if !domw.getLsbD 24 then xfault acc Cause.remoteAccess ea.toNat 0
  else
    let m := bits ea 54 10
    let va := bits ea 0 54
    let job := bits domw 0 24
    if m ≠ moduleNo then .ok (.remote m job va, s)
    else
      match s.jobWorld job with
      | none => .ok (.refused (acc.refusal ea), s.dieReport 0 Cause.unbound 0 (landingD job moduleNo none) none)
      | some w =>
        match segments { acc with world := w, unit := .poleth } 1 va n (n / 65536 + 2) va n s with
        | .ok (l, s) => .ok (.mem (some ea) l, s)
        | .error f => .ok (.refused { acc.refusal ea with log := f.log }, s)

/-- Every check of an access of n bytes under a storage scope, and where it goes. -/
def resolve (acc : Access) (stor : Nat) (ea : W64) (n : Nat) : M Target := fun s =>
  let answer (r : Except FaultInfo (Target × State)) : Except Stop (Target × State) := r.mapError .fault
  match stor with
  | 0 => answer ((resolvePool s acc ea n).map (·, s))
  | 2 => answer (resolveRemote s acc ea n)
  | _ => answer ((segments acc stor ea.toNat n (n / 65536 + 2) ea.toNat n s).map fun (l, s) => (.mem none l, s))

/-- A walk whose failure is dropped: prefetches (R120, R122). It installs a leaf only where it grants what the access needs, in the
storage that its scope names (R117). -/
def prefetch (acc : Access) (stor va : Nat) : M Unit := M.upd fun s =>
  if 2 ^ 56 ≤ va ∨ va >>> 48 = 0xFF ∨ (stor ≠ 1 ∧ stor ≠ 3) then s
  else
    match lookup s acc va with
    | .ok (e, t) =>
      match windowOf (leafPA e.leaf e.log2 + va % 2 ^ e.log2) with
      | some w => if acc.need.granted e.leaf && scopeFits stor w then t else s
      | none => s
    | .error _ => s

/-- An access's page log2 where the unit already translates it. -/
def pageLog2 (s : State) (acc : Access) (va : Nat) : Nat :=
  match s.tlbHit acc.unit acc.world va with
  | some e => e.log2
  | none => 16

/-! ## Walking ahead (R122) -/

/-- The first byte, or going down the last, that a run of bytes has beyond a page; of the run that stands on the page, the part that
lies on in the direction of travel. -/
def runBeyond (down here : Bool) (log2 page : Nat) (run : Nat × Nat) : Option Nat :=
  let lo := run.1 >>> log2
  let hi := (run.1 + run.2 - 1) >>> log2
  if down then
    if !here && hi != page then some (run.1 + run.2 - 1) else if lo < page then some (page <<< log2 - 1) else none
  else if !here && lo != page then some run.1
  else if page < hi then some ((page + 1) <<< log2) else none

/-- A run of bytes has a byte in the page of an address. -/
def runMeets (log2 a : Nat) (run : Nat × Nat) : Bool :=
  decide (run.1 >>> log2 ≤ a >>> log2) && decide (a >>> log2 ≤ (run.1 + run.2 - 1) >>> log2)

/-- The walk ahead of a stream TLB: for each page that a command meets with a run of bytes, and did not meet with the one before,
the page that it reaches next; `rest` are the runs that follow (DEDUCED, log 9). -/
def walkAhead (acc : Access) (stor : Nat) (down : Bool) (prev : Option (Nat × Nat)) (now : Nat × Nat) (rest : Unit → List (Nat × Nat)) :
    M Unit := do
  if stor = 0 ∨ stor = 2 then return
  let last := now.1 + now.2 - 1
  go now.1
  if (← M.get fun s => last >>> pageLog2 s acc last) ≠ (← M.get fun s => now.1 >>> pageLog2 s acc last) then go last
where
  /-- For the page of one address. -/
  go (a : Nat) : M Unit := do
    let log2 ← M.get fun s => pageLog2 s acc a
    if !prev.any (runMeets log2 a) then
      match (runBeyond down true log2 (a >>> log2) now).orElse fun _ => (rest ()).findSome? (runBeyond down false log2 (a >>> log2)) with
      | some b => prefetch acc stor b
      | none => pure ()

/-! ## Invalidation (R124) -/

/-- Every entry of a world that maps a byte of the range dropped; length 0 names every entry. -/
def State.invalidate (s : State) (w va len : Nat) : State :=
  { s with tlb := s.tlb.filter fun e =>
      !(e.world == w && (len == 0 || (decide (e.base * 2 ^ e.log2 < va + len) && decide (va < (e.base + 1) * 2 ^ e.log2)))) }

end Sys2Proof.Machine
end

