-- ==== Sys2Proof/Machine/Access.lean ====
section
/-! DEFINITION. What an access does once it is translated: its view of a page (R161, R162), lossy pages (R151 to R153),
duplicates (R127, R128), dirty ranges (R130) and barrier words (R342). -/

namespace Sys2Proof.Machine

/-- The view of a byte of a segment: the world's key and the storage VA, raw through a raw leaf, none outside T0 to
T2. -/
def Seg.view (s : State) (g : Seg) (i : Nat) : Option EncTag :=
  if !tiered g.pa then none
  else if g.world = 0 && leafSEAL g.entry.leaf then some .raw
  else some (.key g.world (s.world g.world).keyNow ((g.sva + i) / 64))

/-! ## Lossy pages (R151 to R153) -/

/-- One element narrowed as a lossy leaf stores it. -/
def lossyNarrow (mode : Nat) (l : List Byte) : List Byte :=
  let x := ofBytes l
  if mode = 1 then
    match fpDecode .fp32 x with
    | .nan _ => leBytes 2 (x / 2 ^ 16 ||| 0x40)
    | v => leBytes 2 (fpPut .bf16 false .rne false 0 v.exact).1
  else
    match fpDecode .bf16 x with
    | .nan _ => leBytes 1 ((x / 2 ^ 15) * 2 ^ 7 + 0x7C + (x / 2 ^ 5 % 4 ||| 2))
    | v => leBytes 1 (fpPut .e5m2 false .rne false 0 v.exact).1

/-- One stored element widened. -/
def lossyWiden (mode : Nat) (l : List Byte) : List Byte :=
  let x := ofBytes l
  if mode = 1 then leBytes 4 (x * 2 ^ 16)
  else
    match fpDecode .e5m2 x with
    | .nan _ => leBytes 2 ((x / 2 ^ 7) * 2 ^ 15 + 0x7F80 + (x % 4) * 2 ^ 5)
    | v => leBytes 2 (fpPut .bf16 false .rne false 0 v.exact).1

/-- Lists of n bytes each. -/
def chunks (n : Nat) : Nat → List Byte → List (List Byte)
  | 0, _ => []
  | k + 1, l => l.take n :: chunks n k (l.drop n)

/-! ## Dirty ranges (R129, R130) -/

/-- The granule bits of one tracked-range slot set for a write. -/
def State.trackSlot (s : State) (w slot va n : Nat) : State :=
  let t := (s.world w).track
  let w0 := t.get 0 (slot * 3)
  let base := bits w0 16 40
  let ngr := bits (t.get 0 (slot * 3 + 1)) 0 40
  let bmap := bits (t.get 0 (slot * 3 + 2)) 6 46 * 64
  if !w0.getLsbD 0 || n == 0 then s
  else
    let g0 := va / 65536
    (List.range ((va + n - 1) / 65536 - g0 + 1)).foldl (fun s i =>
      let g := g0 + i
      if base ≤ g ∧ g < base + ngr then
        let a := bmap + (g - base) / 8
        (s.writePa a [s.readByte a none ||| BitVec.ofNat 8 (2 ^ ((g - base) % 8))]).hotRequests a 1
      else s) s

/-- A write to world VA bytes marks every tracked range of the world (R130). -/
def State.track (s : State) (w va n : Nat) : State :=
  if (s.world w).track.isEmpty then s else (List.range 16).foldl (fun s i => s.trackSlot w i va n) s

/-! ## Reading a segment -/

/-- The die that an agent belongs to, 4 for the Poleth die. -/
def dieOf : Agent → Nat
  | .a c => c / 32
  | .e c => c / 32
  | .np _ => 4

/-- The page of a segment as the duplicate table names it: the PA of its page. -/
def Seg.page (g : Seg) : Nat := leafPA g.entry.leaf g.entry.log2

/-- The segment's DUP page is the one that an entry of the duplicate table stands for. -/
def DupPage.isOf (d : DupPage) (g : Seg) : Bool := leafDUP g.entry.leaf && d.page == g.page && d.size == 2 ^ g.entry.log2
/-- The segment's page, whatever its leaf, meets the page that an entry stands for. -/
def DupPage.meets (d : DupPage) (g : Seg) : Bool := decide (d.page < g.page + 2 ^ g.entry.log2) && decide (g.page < d.page + d.size)

/-- A die holds a duplicate of the page, which serves its reads (R127). -/
def Seg.duplicated (s : State) (g : Seg) (die : Nat) : Bool :=
  s.dup.any fun d => d.isOf g && d.holders.contains die

/-- A read from home takes a duplicate of a DUP page that has no write held (R127; DESIGN CHOICE, log 52). -/
def State.takeDup (s : State) (g : Seg) (die : Nat) : State :=
  if !leafDUP g.entry.leaf then s
  else match s.dup.find? fun d => d.isOf g with
    | some d =>
      if d.held.isEmpty && !d.holders.contains die then
        { s with dup := s.dup.map fun x => if x.isOf g then { x with holders := x.holders ++ [die] } else x }
      else s
    | none => { s with dup := s.dup ++ [{ page := g.page, size := 2 ^ g.entry.log2, holders := [die], held := [] }] }

/-- The bytes of a segment as its page holds them. -/
def Seg.load (s : State) (g : Seg) : List Byte :=
  let stored := (List.range g.stored).map fun i => s.readByte (g.pa + i) (g.view s i)
  let mode := leafLOSSY g.entry.leaf
  if mode = 0 then stored
  else ((chunks (lossyWidth g.entry.leaf / 2) (g.len / lossyWidth g.entry.leaf) stored).map (lossyWiden mode)).flatten

/-- The bytes of a segment, with what a read does at home besides; a duplicate serves a read without it (R149). -/
def Seg.read (s : State) (acc : Access) (g : Seg) : List Byte × State :=
  (g.load s, if g.duplicated s acc.die then s else (s.takeDup g acc.die).touched g.pa g.stored)

/-- An uncorrectable error that a read of the segment meets (R136, R156): a domain-remote access is refused (R112). -/
def Seg.error (s : State) (acc : Access) (via : Option W64) (g : Seg) : Option FaultInfo :=
  if g.duplicated s acc.die then none
  else (s.badGranule g.pa g.stored).map fun b =>
    { (match via with | some ea => acc.refusal ea | none => acc.fault Cause.memError g.va g.entry.level) with log := some b }

/-- The bytes of segments one after another. -/
def readSegs (acc : Access) : List Seg → M (List Byte)
  | [] => pure []
  | g :: l => do
    let b ← M.step fun s => g.read s acc
    return b ++ (← readSegs acc l)

/-- n bytes of a core's pool as they stand. -/
def State.poolBytes (s : State) (c off n : Nat) : List Byte :=
  (poolRunsOf c off n).flatMap fun (c, x, n) => (List.range n).map fun i => (s.core c).sram.get 0 (x + i)

/-- A read of n bytes of a core's pool, with its check (R136, R173). -/
def readPool (acc : Access) (c off va n : Nat) : M (Except FaultInfo (List Byte)) := do
  if ← M.get fun s => (poolRunsOf c off n).any fun (c, x, n) => s.sramBad c x n then return .error (acc.fault Cause.memError va 0)
  M.upd fun s => (poolRunsOf c off n).foldl (fun s (c, x, n) => s.sramCorrected c x n) s
  return .ok (← M.get fun s => s.poolBytes c off n)

/-- What the response to a read brings: bytes, or the fault it comes with. A stream's own held writes of the page become
visible first (R128). -/
def readTarget (acc : Access) (n : Nat) : Target → M (Except FaultInfo (List Byte))
  | .pool c off va => readPool acc c off va n
  | .mem via segs => do
    match acc.who with
    | some ag => M.upd fun s => s.dupReleaseIf fun d => d.holdsFor ag && segs.any d.meets
    | none => pure ()
    match ← M.get fun s => segs.findSome? fun g => g.error s acc via with
    | some f => return .error f
    | none => return .ok (← readSegs acc segs)
  | .remote _ _ _ => pure (.ok [])
  | .refused f => pure (.error f)

/-- A read whose fault is precise. -/
def readNow (acc : Access) (n : Nat) (t : Target) : M (List Byte) := do
  match ← readTarget acc n t with
  | .ok l => return l
  | .error f => throw (.fault f)

/-! ## Writing a segment -/

/-- The key of the barrier word in the aligned 8 bytes of a physical address: for a page in motion, where it is read. -/
def State.barrierKey (s : State) (pa : Nat) : Nat := (s.sequenced pa).1 / 8
/-- A live barrier word stands there. -/
def State.liveAt (s : State) (pa : Nat) : Option Barrier := s.barriers.get none (s.barrierKey pa)

/-- A segment touches a live barrier word (R342). -/
def Seg.touchesBarrier (s : State) (g : Seg) : Bool :=
  !s.barriers.isEmpty && (List.range ((g.pa + g.stored - 1) / 8 - g.pa / 8 + 1)).any fun i =>
    (s.liveAt (g.pa + 8 * i)).isSome

/-- The bytes of live barrier words that a segment touches. -/
def Seg.barrierBytes (s : State) (g : Seg) : Nat :=
  if s.barriers.isEmpty then 0 else (List.range g.stored).countP fun i => (s.liveAt (g.pa + i)).isSome

/-- The refusal of a write that touches a live barrier word (R335, R342). -/
def barrierFault (acc : Access) (via : Option W64) (segs : List Seg) : FaultInfo :=
  match via with
  | some ea => acc.refusal ea
  | none =>
    { cause := Cause.barrierWord, c := w64 ((segs.map Seg.va).headD 0), d := 0, defer := true, log := none }

/-- The stored bytes of a segment's plain bytes, each with its view. -/
def Seg.encode (g : Seg) (l : List Byte) : List Byte :=
  let mode := leafLOSSY g.entry.leaf
  if mode = 0 then l
  else ((chunks (lossyWidth g.entry.leaf) (g.len / lossyWidth g.entry.leaf) l).map (lossyNarrow mode)).flatten

/-- The doorbell (R408): a stored vector number from 0 to 63 raises it. -/
def State.ring (s : State) (v : W64) : State :=
  if v.toNat < 64 then { s with outbox := s.outbox ++ [.msix v.toNat] } else s

/-- Bytes that a store to a segment of the platform page leaves as they are (R437). -/
def inPlatformPage (pa : Nat) : Bool := decide (doorbellPa ≤ pa) && decide (pa < doorbellPa + 65536)

/-- D set in the leaf's PTE and in the entries that hold it (R118). -/
def State.setDirty (s : State) (e : TlbEntry) : State :=
  if leafD e.leaf then s
  else
    let s := s.orPte e.ptePa 0x80
    { s with
      tlb := s.tlb.map fun x => if x.ptePa = e.ptePa ∧ x.world = e.world then { x with leaf := x.leaf ||| 0x80 } else x }

/-- A write of a stream to a DUP page with holders, or with writes held before it, is held (R128). -/
def Seg.held (s : State) (g : Seg) : Bool :=
  s.dup.any fun d => d.isOf g && (!d.holders.isEmpty || !d.held.isEmpty)

/-- The bytes of a segment in place, skipping those of live barrier words when `skip`. What a stream writes to a page with holders
is held; the holders acknowledge before any other write. -/
def Seg.put (s : State) (who : Option Agent) (skip : Bool) (g : Seg) (l : List Byte) : State :=
  let bytes := (g.encode l).zipIdx.filter fun (_, i) => !(skip && (s.liveAt (g.pa + i)).isSome)
  if who.isSome && g.held s then
    let h : HeldWrite :=
      { ag := who, bytes := bytes.map fun (b, i) => (g.pa + i, b),
        tag := (bytes.head?.map fun (_, i) => g.view s i).getD none }
    { s with dup := s.dup.map fun d => if d.isOf g then { d with held := d.held ++ [h] } else d }
  else
    let s := s.dupSettle g.pa g.stored
    let s := bytes.foldl (fun s (b, i) => s.writeByte (g.pa + i) (g.view s i) b) s
    if bytes.length = g.stored then s.rewritten g.pa g.stored else s

/-- What a write of a segment does before it is visible: D in the leaf and the tracked ranges (R118, R130). -/
def Seg.mark (s : State) (g : Seg) : State := (s.setDirty g.entry).track g.world g.va g.len

/-- The bytes of a segment put in place, or what they do in the platform page (R408, R437). -/
def Seg.apply (s : State) (who : Option Agent) (skip : Bool) (g : Seg) (l : List Byte) : State :=
  if inPlatformPage g.pa then (if g.pa = doorbellPa ∧ g.len = 8 then s.ring (w64 (ofBytes l)) else s)
  else g.put s who skip l

/-- One segment written. -/
def Seg.write (s : State) (acc : Access) (skip : Bool) (g : Seg) (l : List Byte) : State :=
  g.apply ((g.mark s).hotRequests g.pa g.stored) acc.who skip l

/-- The bytes of a store shared out over its segments. -/
def writeSegs (f : State → Seg → List Byte → State) : List Seg → List Byte → State → State
  | [], _, s => s
  | g :: t, l, s => writeSegs f t (l.drop g.len) (f s g (l.take g.len))

/-- Bytes written to one core's pool. -/
def State.putPoolRun (s : State) (c off : Nat) (l : List Byte) : State :=
  let k := s.core c
  (s.setCore c { k with sram := l.zipIdx.foldl (fun t (b, i) => t.set 0 (off + i) b) k.sram }).sramRewritten c off l.length

/-- Bytes written to a pool range. -/
def State.putPool (s : State) (c off : Nat) (l : List Byte) : State :=
  ((poolRunsOf c off l.length).foldl (fun (s, l) (c, x, n) => (s.putPoolRun c x (l.take n), l.drop n)) (s, l)).1

/-- Before a stream's store its earlier held writes become visible, but for those of the one page it goes to, behind which it
waits (R128). -/
def flushBefore (acc : Access) (t : Target) : M Unit :=
  match acc.who with
  | none => pure ()
  | some ag => M.upd fun s => s.dupFlush ag (match t with | .mem _ [g] => some (g.page, 2 ^ g.entry.log2) | _ => none)

/-- Bytes written to a target, or the refusal that the response brings: a store that touches a live barrier word is refused (R342),
unless the writer skips such words (R282). -/
def writeTarget (acc : Access) (skip : Bool) (l : List Byte) (t : Target) : M (Except FaultInfo Unit) := do
  flushBefore acc t
  match t with
  | .pool c off _ => M.upd fun s => s.putPool c off l
  | .mem via segs =>
    if !skip && (← M.get fun s => segs.any (Seg.touchesBarrier s)) then return .error (barrierFault acc via segs)
    M.upd fun s => writeSegs (fun s g l => g.write s acc skip l) segs l s
  | .remote _ _ _ => pure ()
  | .refused f => return .error f
  return .ok ()

/-- A write whose refusal is a fault like any other. -/
def writeNow (acc : Access) (skip : Bool) (l : List Byte) (t : Target) : M Unit := do
  match ← writeTarget acc skip l t with
  | .ok () => pure ()
  | .error f => throw (.fault f)

/-- An indivisible read and write of n bytes at the home atomic unit (R341): `f` gives the new bytes, or none where nothing is
written; the old bytes, or the refusal that the response brings. It is one request, the holders of a DUP page acknowledge within
it, and an uncorrectable error is a precise fault (R136). -/
def rmwTarget (acc : Access) (n : Nat) (f : List Byte → Option (List Byte)) (t : Target) :
    M (Except FaultInfo (List Byte)) := do
  flushBefore acc (.pool 0 0 0)
  match t with
  | .pool c off va =>
    match ← readPool acc c off va n with
    | .error e => throw (.fault e)
    | .ok old =>
      match f old with
      | some new => M.upd fun s => s.putPool c off new
      | none => pure ()
      return .ok old
  | .mem via segs =>
    M.upd fun s => segs.foldl (fun s g => s.dupSettle g.pa g.stored) s
    if ← M.get fun s => segs.any (Seg.touchesBarrier s) then return .error (barrierFault acc via segs)
    match ← M.get fun s => segs.findSome? fun g => g.error s acc via with
    | some e => if e.defer then return .error e else throw (.fault e)
    | none => pure ()
    let old ← M.get fun s => segs.flatMap (Seg.load s)
    M.upd fun s => segs.foldl (fun s g => s.touched g.pa g.stored) s
    match f old with
    | some new => M.upd fun s => writeSegs (fun s g l => g.apply (g.mark s) none false l) segs new s
    | none => pure ()
    return .ok old
  | .remote _ _ _ => return .ok []
  | .refused e => return .error e

/-! ## Accessors for agents -/

/-- The access of a stream: scalar, or a word of the A stream's own accesses, which the stream TLB serves (R121). -/
def streamAccess (need : Need) (kind : Nat) (vector : Bool) : M Access := do
  let ag ← curAgent
  let x ← curCtx
  return { need, kind, who := some ag, die := dieOf ag, world := x.world,
           unit := match ag with
             | .np _ => .poleth
             | .a c => if vector then .stream c 0 else .scalar ag
             | .e _ => .scalar ag
           own := match ag with | .np _ => none | .a c | .e c => some (c, x.partw),
           multicast := [], sealOk := true }

/-- An access of a Poleth die agent under a world's translation. -/
def polethAccess (need : Need) (kind w : Nat) : Access :=
  { need, kind, who := none, die := 4, world := w, unit := .poleth, own := none, multicast := [],
    sealOk := true }

/-- A release of the stream's earlier accesses: its writes that DUP pages hold become visible (R128, log 52); every other access has
been performed (log 2). -/
def releaseStores : M Unit := do
  let ag ← curAgent
  M.upd fun s => s.dupFlush ag none

/-- Bytes read under a world's translation by a Poleth die agent, or the fault. -/
def State.readVa (s : State) (kind w va n : Nat) : Except FaultInfo (List Byte × State) :=
  let acc := polethAccess .read kind w
  M.try (do let t ← resolve acc 1 (w64 va) n; readNow acc n t) s

/-- Bytes written under a world's translation by a Poleth die agent, or the fault; live barrier words are skipped. -/
def State.writeVa (s : State) (kind w va : Nat) (l : List Byte) : Except FaultInfo State :=
  let acc := polethAccess .write kind w
  match M.try (do let t ← resolve acc 1 (w64 va) l.length; writeNow acc true l t) s with
  | .ok (_, s) => .ok s
  | .error f => .error f

end Sys2Proof.Machine
end

