-- ==== Sys2Proof/Machine/Flags.lean ====
section
/-! DEFINITION. Where flags come from and go: FPSTAT of a stream, MXSTAT of a task, the rounding mode and the modes of
FPCTL (R213, R217, R218, R220). -/

namespace Sys2Proof.Machine

/-- FPCTL.RM as a mode (R217). -/
def fpctlRm (fpctl : W64) : Rm := Rm.ofCode (bits fpctl 0 3)
/-- FPCTL.SATF. -/
def fpctlSatf (fpctl : W64) : Bool := fpctl.getLsbD 3
/-- FPCTL.FTZ. -/
def fpctlFtz (fpctl : W64) : Bool := fpctl.getLsbD 4

/-- A rounding field under a value of FPCTL: code 7 selects FPCTL.RM (R213). -/
def rmOf (rm : BitVec 3) (fpctl : W64) : Rm := if rm = 7 then fpctlRm fpctl else Rm.ofCode rm.toNat

/-- The next draw of the stream's LFSR (R215). -/
def drawSr : M (BitVec 32) := do
  let st ← curStream
  let (l, d) := srDraw st.lfsr
  modStream fun st => { st with lfsr := l }
  return d

/-- One draw under SR, none otherwise (R216). -/
def drawIf (rm : Rm) : M (BitVec 32) := if rm = .sr then drawSr else pure 0

/-- Integer division by zero (R234): IDZ. -/
def idzFlag (y : Nat) : Flags := if y = 0 then flagIDZ else noFlags

/-- Flags ORed into a task's MXSTAT (R218): FPSTAT's places but for DZ and SAT, which the ME never sets. -/
def Ctx.setMx (x : Ctx) (fl : Flags) : Ctx := { x with mxstat := x.mxstat ||| (fl &&& 0x1D).setWidth 64 }

/-- Writing FPCTL a value with RM 5, 6 or 7 is refused (R217). -/
def fpctlOk (v : W64) : Bool := bits v 0 3 < 5
/-- The RW bits of FPCTL (R217) and of FPSTAT (R218). -/
def fpctlMask : W64 := 0x1F
def fpstatMask : W64 := 0x7F
/-- The RW bits of MXSTAT (R218). -/
def mxstatMask : W64 := 0x1D

end Sys2Proof.Machine
end

