-- ==== Sys2Proof/Machine/Operands.lean ====
section
/-! DEFINITION. Operand forms: integer operands at a width, immediates, FP operands, addresses of loads and stores, and
results written with their extension (R193, R231, R237, R246). -/

namespace Sys2Proof.Machine

/-- The operand width in bits (R231). -/
def widthOf (sz : BitVec 2) : Nat := 8 * 2 ^ sz.toNat
/-- The operand width in bytes. -/
def bytesOf (sz : BitVec 2) : Nat := 2 ^ sz.toNat

/-- The low w bits read unsigned. -/
def uintW (w : Nat) (x : W64) : Nat := x.toNat % 2 ^ w
/-- A number below 2^w read signed. -/
def toSigned (w n : Nat) : Int := if n < 2 ^ (w - 1) then n else (n : Int) - (2 ^ w : Nat)
/-- The low w bits read signed. -/
def sintW (w : Nat) (x : W64) : Int := toSigned w (uintW w x)
/-- trunc(r, w) of an exact integer. -/
def truncW (w : Nat) (r : Int) : Nat := (r % (2 ^ w : Nat)).toNat
/-- A w-bit result extended to a register: sext when X = 1, zext otherwise (R231). -/
def extendW (w : Nat) (sgn : Bool) (r : Nat) : W64 :=
  if sgn then BitVec.ofInt 64 (toSigned w r) else w64 r
/-- An immediate read as sext. -/
def sextImm {n : Nat} (x : BitVec n) : W64 := x.signExtend 64

/-- The integer operands of an ALU row: width, x, y and z unsigned, and the shift amount (R233). -/
structure AluIn where
  w : Nat
  x : Nat
  y : Nat
  z : Nat
  n : Nat
  deriving DecidableEq, Repr

/-- x and y read signed. -/
def AluIn.xs (i : AluIn) : Int := toSigned i.w i.x
def AluIn.ys (i : AluIn) : Int := toSigned i.w i.y

/-- The operands of format S at the width of SZ (R231). -/
def Stream.aluIn (st : Stream) (f : FmtS) : AluIn :=
  let w := widthOf f.sz
  { w, x := uintW w (st.reg f.a.toNat), y := uintW w (st.reg f.b.toNat), z := uintW w (st.reg f.c.toNat),
    n := (st.reg f.b.toNat).toNat }

/-- The operands of format I at 64 bits, y the sign-extended immediate (R235). -/
def Stream.immIn (st : Stream) (f : FmtI) : AluIn :=
  { w := 64, x := (st.reg f.a.toNat).toNat, y := (sextImm f.imm).toNat, z := 0, n := (sextImm f.imm).toNat }

/-- The scalar FP format of SZ (R237). -/
def fmtOf (sz : BitVec 2) : Fmt := if sz = 3 then .fp64 else .fp32

/-- The displacement of LD and ST: concat(b, c) read signed (R246). -/
def dispOf (f : FmtS) : W64 := sextImm (f.b ++ f.c)

/-- The address of the displacement form. -/
def Stream.eaDisp (st : Stream) (f : FmtS) : W64 := st.reg f.a.toNat + dispOf f
/-- The address of the indexed form. -/
def Stream.eaIndex (st : Stream) (f : FmtS) : W64 :=
  st.reg f.a.toNat + st.reg f.b.toNat * w64 (bytesOf f.sz)

/-- Storage scope and agent scope of MOD (R196). -/
def storOf (mod : BitVec 5) : Nat := (mod.extractLsb' 0 2).toNat
def scopeOf (mod : BitVec 5) : Nat := (mod.extractLsb' 2 3).toNat

/-- The world's counter of an index, as CTRADD and CTRRD check it (R350). -/
def ownCounter (idx : W64) : M Nat := do
  M.check (idx.toNat < 262144) Cause.badOperand
  let w ← curWorld
  let c ← M.get fun s => s.counters.get .empty idx.toNat
  M.check (w == 0 || (c.alloc && c.owner == w)) Cause.notOwned
  return idx.toNat

/-- A fault is raised on an address that is not a multiple of n. -/
def checkAligned (ea : W64) (n : Nat) : M Unit := M.check (ea.toNat % n == 0) Cause.misaligned ea

end Sys2Proof.Machine
end

