-- ==== Sys2Proof/Machine/Queues.lean ====
section
/-! DEFINITION. The architectural queues (R185, R186) and the queue operations, major 0x0A (R252). -/

namespace Sys2Proof.Machine

/-- The depth of a queue (R185). -/
def queueDepth (c : Nat) : Nat := if c < 12 then 16 else if c < 14 then 32 else if c = 14 then 256 else 64

def Ctx.queue (x : Ctx) (c : Nat) : Queue := x.queues.get .empty c
def Ctx.setQueue (x : Ctx) (c : Nat) (q : Queue) : Ctx := { x with queues := x.queues.set .empty c q }

/-- The head taken; entries stand at slot (HEAD + j) mod depth (R392). -/
def Queue.pop (q : Queue) (depth : Nat) : Queue := { head := (q.head + 1) % depth, rows := q.rows.drop 1 }
/-- A whole row appended. -/
def Queue.push (q : Queue) (l : List Byte) : Queue := { q with rows := q.rows ++ [{ bytes := l, arrived := true }] }
/-- The rows a pop would take without waiting. -/
def Queue.poppable (q : Queue) : Nat := (q.rows.takeWhile Row.arrived).length

/-- The queue a pending vector word moves rows of (R306, R294). -/
def VePend.queue (p : VePend) : Option Nat :=
  match decodeWord p.word with
  | .ok (.row (.vpopq f)) => some f.va.toNat
  | .ok (.row (.vpushq f)) => some f.vd.toNat
  | .ok (.row (.vmaxd n _)) => some (8 + n.toNat)
  | _ => none

/-- A queue operation of the E stream follows the vector words issued before it that use the queue (R186). -/
def veOrder (c : Nat) : M Unit := do
  match ← curAgent with
  | .e _ => M.await (!(← curCtx).ve.any fun p => p.queue == some c) (.queue c)
  | _ => pure ()

/-- q_push (R190). -/
def qPush (c : Nat) (l : List Byte) : M Unit := do
  let q := (← curCtx).queue c
  M.await (q.rows.length < queueDepth c) (.queue c)
  modCtx fun x => x.setQueue c ((x.queue c).push l)

/-- q_peek (R190). -/
def qPeek (c : Nat) : M (List Byte) := do
  match ((← curCtx).queue c).rows with
  | r :: _ => if r.arrived then pure r.bytes else M.wait (.queue c)
  | [] => M.wait (.queue c)

/-- q_pop (R190). -/
def qPop (c : Nat) : M (List Byte) := do
  let l ← qPeek c
  modCtx fun x => x.setQueue c ((x.queue c).pop (queueDepth c))
  return l

/-- A stream may push to a queue with QPUSH (R185). -/
def mayPush (ag : Agent) (c : Nat) : Bool :=
  match ag with
  | .a _ => c == 12
  | .e _ => (8 ≤ c && c < 12) || c == 13
  | .np _ => false
/-- A stream may take from a queue with QPOP and QPEEK (R185). -/
def mayPop (ag : Agent) (c : Nat) : Bool :=
  match ag with
  | .a _ => c == 13
  | .e _ => c < 8 || c == 12
  | .np _ => false

/-- QPUSH (R252). A push to cq0 or cq1 releases the stream's earlier accesses (R375). -/
def execQpush (f : FmtS) (s : State) : Host.Outcome State Fault Refusal :=
  wordChecked .ae (do M.check (mayPush (← curAgent) f.b.toNat) Cause.stream) f.pg (do
    veOrder f.b.toNat
    if 12 ≤ f.b.toNat then releaseStores
    qPush f.b.toNat (leBytes (bytesOf f.sz) (← sreg f.a).toNat)) s

/-- QPOP and QPEEK: the entry's low w bits, extended (R252). -/
def takeWord (peek : Bool) (f : FmtS) (s : State) : Host.Outcome State Fault Refusal :=
  wordChecked .ae (do M.check (mayPop (← curAgent) f.b.toNat) Cause.stream) f.pg (do
    veOrder f.b.toNat
    let l ← if peek then qPeek f.b.toNat else qPop f.b.toNat
    writeSreg f.d (extendW (widthOf f.sz) (f.mod.getLsbD 0) (ofBytes (l.take (bytesOf f.sz))))) s

def execQpop (f : FmtS) (s : State) : Host.Outcome State Fault Refusal := takeWord false f s
def execQpeek (f : FmtS) (s : State) : Host.Outcome State Fault Refusal := takeWord true f s

/-- QLEVEL (R252). -/
def execQlevel (f : FmtS) (s : State) : Host.Outcome State Fault Refusal :=
  wordIf .ae f.pg (do
    let q := (← curCtx).queue f.b.toNat
    writeSreg f.d (w64 (q.poppable + q.rows.length * 2 ^ 16))) s

end Sys2Proof.Machine
end

