-- ==== Sys2Proof/Machine/LoadStore.lean ====
section
/-! DEFINITION. Scalar memory access: major 0x08 (R246 to R248), and the request of a stream to another module
(R112). -/

namespace Sys2Proof.Machine

/-- A row that waits for bytes: the first that has not arrived. -/
def Queue.waiting (q : Queue) : Nat := (q.rows.takeWhile Row.arrived).length

/-- A refused response lands nothing: its row and every later one are released (R384). -/
def Ctx.refuseLanding (x : Ctx) (ag : Agent) (o : Outstanding) : Ctx :=
  let st := x.stream ag
  let gone (p : Outstanding) : Outstanding :=
    match p.landing, o.landing with
    | .row q _ _, .row q' _ _ => if q = q' then { p with landing := .none } else p
    | _, _ => p
  let x := x.setStream ag { st with out := (st.out.filter fun p => p.id != o.id).map gone }
  match o.landing with
  | .row q _ _ => let qu := x.queue q; x.setQueue q { qu with rows := qu.rows.take qu.waiting }
  | _ => x

/-- A domain-remote request leaves for another module, after the stream's held writes; the stream holds its next word until the
response arrives (log 12). -/
def issueRemote (m job va : Nat) (kind : RmaKind) (landing : Landing) (operand : W64) (code rep : Nat) : M Unit := do
  releaseStores
  awaitNonces (← curWorld) (match kind with | .write l => packets l.length | _ => 1)
  let pc ← wordPc
  let id ← M.get State.nextId
  M.upd fun s => { s with nextId := id + 1, outbox := s.outbox ++ [.remote id m job va kind] }
  modStream fun st => { st with out := st.out ++ [{ id, landing, operand, kind := code, pc, rep }] }

/-- The response of an access that this module performs refuses it (R384): nothing lands, the word's other effects stand, and the
stream stops with a deferred fault. -/
def refuse (f : FaultInfo) (landing : Landing) (rep : Nat) : M Unit := do
  let ag ← curAgent
  let pc ← wordPc
  let o : Outstanding := { id := 0, landing, operand := f.c, kind := 0, pc, rep }
  modCtx fun x => x.refuseLanding ag o
  M.upd fun s => (s.logFault f).raise ag.place ag.code { f with defer := true } (issueField pc rep)

/-- A scalar load of n bytes (R247): the alignment check, then translation and its faults, then the register. -/
def scalarLoad (sgn : Bool) (ea : W64) (f : FmtS) : M Unit := do
  let n := bytesOf f.sz
  checkAligned ea n
  let acc ← streamAccess .read 1 false
  let t ← resolve acc (storOf f.mod) ea n
  match t with
  | .remote m job va => issueRemote m job va (.read n) (.reg f.d.toNat n sgn) ea 1 0
  | t =>
    match ← readTarget acc n t with
    | .ok l => writeSreg f.d (extendW (8 * n) sgn (ofBytes l))
    | .error e => refuse e .none 0

/-- A store of a stream to its target, by way of a request where another module holds it. -/
def storeTo (acc : Access) (bytes : List Byte) (ea : W64) (code rep : Nat) (t : Target) : M Unit := do
  match t with
  | .remote m job va => issueRemote m job va (.write bytes) .none ea code rep
  | t =>
    match ← writeTarget acc false bytes t with
    | .ok () => pure ()
    | .error e => refuse e .none rep

/-- A scalar store of n bytes (R247). -/
def scalarStore (ea : W64) (f : FmtS) : M Unit := do
  let n := bytesOf f.sz
  checkAligned ea n
  let acc ← streamAccess .write 2 false
  let bytes := leBytes n (← sreg f.d).toNat
  storeTo acc bytes ea 2 0 (← resolve acc (storOf f.mod) ea n)

/-- LD (R246). An acquire needs nothing more in this model's order (log 2). -/
def execLd (sgn _acq : Bool) (f : FmtS) (s : State) : Host.Outcome State Fault Refusal :=
  wordIf .any f.pg (do scalarLoad sgn ((← curStream).eaDisp f) f) s
/-- LDX (R246). -/
def execLdx (sgn _acq : Bool) (f : FmtS) (s : State) : Host.Outcome State Fault Refusal :=
  wordIf .any f.pg (do scalarLoad sgn ((← curStream).eaIndex f) f) s
/-- A release where the word makes one. -/
def releaseIf (rel : Bool) : M Unit := if rel then releaseStores else pure ()

/-- ST (R246). -/
def execSt (rel : Bool) (f : FmtS) (s : State) : Host.Outcome State Fault Refusal :=
  wordIf .any f.pg (do releaseIf rel; scalarStore ((← curStream).eaDisp f) f) s
/-- STX (R246). -/
def execStx (rel : Bool) (f : FmtS) (s : State) : Host.Outcome State Fault Refusal :=
  wordIf .any f.pg (do releaseIf rel; scalarStore ((← curStream).eaIndex f) f) s

end Sys2Proof.Machine
end

