-- ==== Sys2Proof/Machine/AccessStream.lean ====
section
/-! DEFINITION. The A stream's access words: majors 0x10 to 0x13 and 0x15 (R257 to R264). -/

namespace Sys2Proof.Machine

/-- Repetition i's address with the step in units of `unit` bytes (R194, R263). -/
def Stream.eaStep (st : Stream) (f : FmtA) (unit i : Nat) : W64 :=
  st.reg f.b.toNat + BitVec.ofInt 64 ((i : Int) * f.step.toInt * unit)

/-- The walk ahead of repetition i of a word of n bytes a repetition, at the addresses `ea` (R122). -/
def repAhead (acc : Access) (stor : Nat) (down : Bool) (ea : Nat → W64) (n last i : Nat) : M Unit :=
  walkAhead acc stor down (if i = 0 then none else some ((ea (i - 1)).toNat, n)) ((ea i).toNat, n) fun _ =>
    (List.range (last - i)).map fun j => ((ea (i + 1 + j)).toNat, n)

/-- One load repetition into a row of an lq (R260, R263): `pop` takes the cq1 offset once the checks have passed. -/
def loadRow (stor : Nat) (ea : W64) (n q rep : Nat) (pop : M Unit) : M Unit := do
  let acc ← streamAccess .read 4 true
  let t ← resolve acc stor ea n
  M.await (((← curCtx).queue q).rows.length < queueDepth q) (.queue q)
  pop
  match t with
  | .remote m job va =>
    modCtx fun x =>
      let qu := x.queue q
      x.setQueue q { qu with rows := qu.rows ++ [{ bytes := List.replicate n 0, arrived := false }] }
    issueRemote m job va (.read n) (.row q 0 n) ea 4 rep
  | t =>
    match ← readTarget acc n t with
    | .ok l => qPush q l
    | .error e => refuse e .none rep

/-- One store repetition from a row of an sq (R260, R263). -/
def storeRow (stor : Nat) (ea : W64) (n q rep : Nat) (pop : M Unit) : M Unit := do
  let acc ← streamAccess .write 5 true
  let t ← resolve acc stor ea n
  pop
  let bytes := fitBytes n (← qPop q)
  storeTo acc bytes ea 5 rep t

/-- The queue operand of a load is an lq, of a store an sq (R259). -/
def checkLq (q : BitVec 4) : M Unit := M.check (decide (q.toNat < 8)) Cause.stream
def checkSq (q : BitVec 4) : M Unit := M.check (decide (8 ≤ q.toNat) && decide (q.toNat < 12)) Cause.stream

/-- VLD, VLDX, VST and VSTX (R260). -/
def rowWord (load indexed : Bool) (stor : BitVec 2) (k : BitVec 3) (f : FmtA) (s : State) :
    Host.Outcome State Fault Refusal :=
  wordRep .aOnly (if load then checkLq f.q else checkSq f.q) 0 f.rep.toNat (fun i => do
    let st ← curStream
    let n := 4 * 2 ^ k.toNat
    let off ← if indexed then (do let l ← qPeek 13; pure (w64 (ofBytes l))) else pure 0
    let ea := st.eaStep f 64 i + off
    checkAligned ea (if n < 64 then n else 64)
    let pop : M Unit := if indexed then do let _ ← qPop 13; pure () else pure ()
    if load then loadRow stor.toNat ea n f.q.toNat i pop else storeRow stor.toNat ea n f.q.toNat i pop
    if !indexed then
      repAhead (← streamAccess (if load then .read else .write) (if load then 4 else 5) true) stor.toNat f.step.msb
        (fun i => st.eaStep f 64 i) n f.rep.toNat i) s

def execVld (stor : BitVec 2) (k : BitVec 3) (f : FmtA) (s : State) : Host.Outcome State Fault Refusal :=
  rowWord true false stor k f s
def execVldx (stor : BitVec 2) (k : BitVec 3) (f : FmtA) (s : State) : Host.Outcome State Fault Refusal :=
  rowWord true true stor k f s
def execVst (stor : BitVec 2) (k : BitVec 3) (f : FmtA) (s : State) : Host.Outcome State Fault Refusal :=
  rowWord false false stor k f s
def execVstx (stor : BitVec 2) (k : BitVec 3) (f : FmtA) (s : State) : Host.Outcome State Fault Refusal :=
  rowWord false true stor k f s

/-- The indices of an index row (R262): `none` for an absent element. -/
def indexRow (l : List Byte) : List (Option Int) :=
  (List.range ((l.length + 3) / 4)).map fun k =>
    let j := toSigned 32 (ofBytes ((l.drop (4 * k)).take 4))
    if j = -(2 ^ 31 : Nat) then none else some j

/-- The targets of the present elements, each checked before any effect. -/
def resolveElements (acc : Access) (stor es : Nat) (base : W64) : List (Option Int) → M (List (Option (W64 × Target)))
  | [] => pure []
  | none :: l => do return none :: (← resolveElements acc stor es base l)
  | some j :: l => do
    let ea := base + BitVec.ofInt 64 (j * es)
    let t ← resolve acc stor ea es
    return some (ea, t) :: (← resolveElements acc stor es base l)

/-- The elements of a gathered row and the faults their responses bring; those of another module are requested. -/
def gatherElements (acc : Access) (es q rep : Nat) : Nat → List (Option (W64 × Target)) → M (List Byte × List FaultInfo)
  | _, [] => pure ([], [])
  | k, e :: l => do
    let (b, fs) ← match e with
      | none => pure (List.replicate es 0, [])
      | some (ea, .remote m job va) => do
        issueRemote m job va (.read es) (.row q (k * es) es) ea 4 rep
        pure (List.replicate es 0, [])
      | some (_, t) => do
        match ← readTarget acc es t with
        | .ok b => pure (b, [])
        | .error f => pure (List.replicate es 0, [f])
    let (bs, gs) ← gatherElements acc es q rep (k + 1) l
    return (b ++ bs, fs ++ gs)

/-- The element stores of one SCAT repetition in ascending k. -/
def scatterElements (acc : Access) (es rep : Nat) : List (Option (W64 × Target)) → List Byte → M Unit
  | [], _ => pure ()
  | none :: l, y => scatterElements acc es rep l (y.drop es)
  | some (ea, t) :: l, y => do
    let b := fitBytes es (y.take es)
    storeTo acc b ea 5 rep t
    scatterElements acc es rep l (y.drop es)

/-- GATH and SCAT (R262). -/
def gatherWord (load : Bool) (stor c : BitVec 2) (f : FmtA) (s : State) : Host.Outcome State Fault Refusal :=
  wordRep .aOnly (if load then checkLq f.q else checkSq f.q) 0 f.rep.toNat (fun i => do
    let es := 2 ^ c.toNat
    let q := f.q.toNat
    let iq := 8 + (f.step.extractLsb' 0 2).toNat
    let idx := indexRow (← qPeek iq)
    let base := (← curStream).reg f.b.toNat
    checkAligned base es
    let acc ← streamAccess (if load then .read else .write) (if load then 4 else 5) true
    let ts ← resolveElements acc stor.toNat es base idx
    let _ ← qPop iq
    if load then
      M.await (((← curCtx).queue q).rows.length < queueDepth q) (.queue q)
      let (l, fs) ← gatherElements acc es q i 0 ts
      let here := fs.isEmpty && ts.all fun t => match t with | some (_, .remote ..) => false | _ => true
      modCtx fun x =>
        let qu := x.queue q
        x.setQueue q { qu with rows := qu.rows ++ [{ bytes := l, arrived := here }] }
      fs.forM fun f => refuse f (.row q 0 0) i
    else
      let y ← qPop q
      scatterElements acc es i ts y) s

def execGath (stor c : BitVec 2) (f : FmtA) (s : State) : Host.Outcome State Fault Refusal := gatherWord true stor c f s
def execScat (stor c : BitVec 2) (f : FmtA) (s : State) : Host.Outcome State Fault Refusal := gatherWord false stor c f s

/-- LDS and STS (R263). -/
def stridedWord (load : Bool) (stor c : BitVec 2) (f : FmtA) (s : State) : Host.Outcome State Fault Refusal :=
  wordRep .aOnly (if load then checkLq f.q else checkSq f.q) 0 f.rep.toNat (fun i => do
    let st ← curStream
    let n := 2 ^ c.toNat
    let ea := st.eaStep f 1 i
    checkAligned ea n
    if load then loadRow stor.toNat ea n f.q.toNat i (pure ()) else storeRow stor.toNat ea n f.q.toNat i (pure ())
    repAhead (← streamAccess (if load then .read else .write) (if load then 4 else 5) true) stor.toNat f.step.msb
      (fun i => st.eaStep f 1 i) n f.rep.toNat i) s

def execLds (stor c : BitVec 2) (f : FmtA) (s : State) : Host.Outcome State Fault Refusal := stridedWord true stor c f s
def execSts (stor c : BitVec 2) (f : FmtA) (s : State) : Host.Outcome State Fault Refusal := stridedWord false stor c f s

/-- MOVS (R263): one sq row into the lq that B[2:0] names. -/
def execMovs (f : FmtA) (s : State) : Host.Outcome State Fault Refusal :=
  wordRep .aOnly (checkSq f.q) 0 f.rep.toNat (fun _ => do
    let q := (f.b.extractLsb' 0 3).toNat
    M.await (((← curCtx).queue q).rows.length < queueDepth q) (.queue q)
    let l ← qPop f.q.toNat
    qPush q l) s

/-- PREF (R264): a walk that installs the block's translation in the stream TLB. -/
def execPref (stor : BitVec 2) (k : BitVec 4) (f : FmtA) (s : State) : Host.Outcome State Fault Refusal :=
  wordRep .aOnly (pure ()) 0 f.rep.toNat (fun i => do
    let ea := ((← curStream).eaStep f 64 i).toNat
    let n := 64 * 2 ^ k.toNat
    prefetch (← streamAccess .read 7 true) stor.toNat (ea / n * n)) s

end Sys2Proof.Machine
end

