-- ==== Sys2Proof/Machine/Ready.lean ====
section
/-! DEFINITION. The counter store, the trigger table's firing and the readiness tags with the waits they satisfy
(R57 to R67, R79 to R89). -/

namespace Sys2Proof.Machine

/-! ## Wait slots (R26) -/

/-- What a wait slot asks for. -/
inductive WaitSlot where
  | empty
  | ctr (idx : Nat)
  | tag (idx gen : Nat)
  | refused
  deriving DecidableEq, Repr

/-- The handle in a tag slot. -/
def slotHandle (x : W64) : W64 := w64 (bits x 0 57 * 2 ^ 7)

/-- A wait slot read; a fallback handle is a counter wait (R81). -/
def readSlot (x : W64) : WaitSlot :=
  match bits x 62 2 with
  | 0 => .empty
  | 1 => .ctr (bits x 40 18)
  | 2 =>
    let h := slotHandle x
    if h.getLsbD 13 then .ctr (bits h 36 18) else .tag (bits h 37 17) (bits h 13 24)
  | _ => .refused

/-- Header fields of a record (R21). -/
def hdrChain (h : W64) : Nat := bits h 24 2
def hdrWorld (h : W64) : Nat := bits h 2 6

/-- The eleven wait slots of a record and its extension record (R27, R28). -/
def recSlots (words ext : List W64) : List W64 :=
  (List.range 11).map fun i =>
    if i < 4 then wd words (4 + i) else if (wd words 0).getLsbD 24 then wd ext (i - 3) else 0

/-- Slots satisfied so far, with those that `p` finds satisfied now; ready once every non-empty one is (R27, R35). -/
def PoolRec.satisfy (r : PoolRec) (now : Nat) (p : Nat → WaitSlot → Bool) : PoolRec :=
  let slots := (recSlots r.words r.ext).map readSlot
  let sat := (List.range 11).foldl (fun b i =>
    if p i (slots.getD i .empty) then b ||| BitVec.ofNat 11 (2 ^ i) else b) r.sat
  let all := (List.range 11).all fun i => slots.getD i .empty == .empty || sat.getLsbD i
  { r with sat, ready := match r.ready with | some t => some t | none => if all then some now else none }

/-! ## Triggers (R60 to R67) -/

/-- Fields of a trigger entry's word 0. -/
def trigCounter (t : Trigger) : Bool := (wd t.words 0).getLsbD 0
def trigAct (words : List W64) : Nat := bits (wd words 0) 1 3
def trigPeriodic (t : Trigger) : Bool := bits (wd t.words 0) 4 2 == 1
def trigWorld (words : List W64) : Nat := bits (wd words 0) 6 6
def trigClass (words : List W64) : Nat := bits (wd words 0) 12 3
def trigOqn (words : List W64) : Nat := bits (wd words 0) 15 10
def trigCore (words : List W64) : Nat := bits (wd words 0) 25 7
def trigCidx (words : List W64) : Nat := bits (wd words 1) 0 18
def trigThr (t : Trigger) : Nat := (wd t.words 4).toNat
def trigOpnd (words : List W64) : Nat := (wd words 6).toNat

def State.trigger (s : State) (i : Nat) : Trigger := s.triggers.get .empty i
def State.setTrigger (s : State) (i : Nat) (t : Trigger) : State := { s with triggers := s.triggers.set .empty i t }
def State.counter (s : State) (i : Nat) : Counter := s.counters.get .empty i
def State.setCounter (s : State) (i : Nat) (c : Counter) : State := { s with counters := s.counters.set .empty i c }

/-- One watching entry fewer (R67). -/
def State.unwatch (s : State) (t : Trigger) : State :=
  if trigCounter t then
    let c := s.counter (trigCidx t.words)
    s.setCounter (trigCidx t.words) { c with nwatch := c.nwatch - 1 }
  else s

/-- MISSED, saturating at 1,023. -/
def addMissed (m n : Nat) : Nat := if 1023 < m + n then 1023 else m + n

/-- The entry whose action has been issued (R64, R67). -/
def State.trigIssued (s : State) (i : Nat) : State :=
  let t := s.trigger i
  if t.st ≠ .firing then s
  else if !trigPeriodic t then (s.unwatch t).setTrigger i { t with st := .disarmed }
  else if trigCounter t then
    let v := (s.counter (trigCidx t.words)).value.toNat
    let step := bits (wd t.words 5) 0 40
    let k := if trigThr t ≤ v then (v - trigThr t) / step + 1 else 1
    s.setTrigger i { t with st := .armed, missed := addMissed t.missed (k - 1),
                            words := t.words.set 4 (w64 (trigThr t + k * step)) }
  else s.setTrigger i { t with st := .armed }

/-- An entry fires (R67): FIRING, and its action waits to be issued; an action of none is issued at once (R65). -/
def State.fire (s : State) (i value : Nat) : State :=
  let t := s.trigger i
  let s := s.setTrigger i { t with st := .firing, fires := t.fires + 1 }
  if trigAct t.words = 0 then s.trigIssued i
  else { s with fired := s.fired ++ [{ entry := i, arm := t.arm, words := t.words, value := w64 value }] }

/-- The check of a counter-keyed entry against its counter's value (R63). -/
def State.trigCheck (s : State) (i : Nat) : State :=
  let t := s.trigger i
  if t.st = .armed ∧ trigCounter t then
    let v := (s.counter (trigCidx t.words)).value.toNat
    if trigThr t ≤ v then s.fire i v else s
  else s

/-! ## Counters (R57, R58) -/

/-- An update of a counter: the waits it satisfies and, in ascending index, the entries it fires. -/
def State.counterAdd (s : State) (idx n : Nat) : State :=
  let c := s.counter idx
  let v := c.value + w64 n
  let s := s.setCounter idx { c with value := v }
  let pool := s.pool.map fun r =>
    r.satisfy s.now fun i w => w == .ctr idx && decide ((wd r.thr i).toNat ≤ v.toNat)
  let s := { s with pool }
  s.triggers.keys.foldl (fun s i =>
    if trigCounter (s.trigger i) && trigCidx (s.trigger i).words == idx then s.trigCheck i else s) s

/-- The counter is the world's (R350, R31 case 9). -/
def State.ownsCounter (s : State) (w idx : Nat) : Bool :=
  decide (idx < 262144) && (s.counter idx).alloc && (s.counter idx).owner == w

/-! ## Tags (R79 to R89) -/

def State.tag (s : State) (i : Nat) : Tag := s.tags.get .empty i
def State.setTag (s : State) (i : Nat) (t : Tag) : State := { s with tags := s.tags.set .empty i t }

/-- A free tag keeps its generation only. -/
def Tag.freed (t : Tag) : Tag := { Tag.empty with gen := t.gen }

/-- A normal-form handle (R80). -/
def normalHandle (idx : Nat) (gen : BitVec 24) (world : Nat) : W64 :=
  w64 (moduleNo * 2 ^ 54 + idx * 2 ^ 37 + gen.toNat * 2 ^ 13 + world * 2 ^ 7)
/-- A fallback-form handle (R81). -/
def fallbackHandle (fctr : Nat) (target : W64) (world : Nat) : W64 :=
  w64 (moduleNo * 2 ^ 54 + fctr * 2 ^ 36 + bits target 0 22 * 2 ^ 14 + 2 ^ 13 + world * 2 ^ 7)

def handleModule (h : W64) : Nat := bits h 54 10
def handleWorld (h : W64) : Nat := bits h 7 6
def handleFallback (h : W64) : Bool := h.getLsbD 13
def handleIndex (h : W64) : Nat := bits h 37 17
def handleGen (h : W64) : Nat := bits h 13 24
def handleFctr (h : W64) : Nat := bits h 36 18

/-- The handle names this module and the executing world (R86). -/
def handleHere (h : W64) (world : Nat) : Bool := handleModule h == moduleNo && handleWorld h == world

/-- The tag that a normal-form handle names, while it is not stale (R86). -/
def State.liveTag (s : State) (h : W64) (world : Nat) : Option Nat :=
  let i := handleIndex h
  let t := s.tag i
  if handleHere h world && t.st != .free && t.gen.toNat == handleGen h && t.world == world then some i else none

/-- References of a tag dropped: a RETIRED tag is FREE once none is left (R82). -/
def State.dropRef (s : State) (i : Nat) : State :=
  let t := s.tag i
  let t := { t with refs := t.refs - 1 }
  s.setTag i (if t.st = .retired ∧ t.refs = 0 then t.freed else t)
def State.dropRefs (s : State) (l : List Nat) : State := l.foldl State.dropRef s
def State.addRefs (s : State) (l : List Nat) : State :=
  l.foldl (fun s i => let t := s.tag i; s.setTag i { t with refs := t.refs + 1 }) s

/-- An ALLOCATED tag becomes PUBLISHED and satisfies every wait on it (R82, R34, R93). -/
def State.publishTag (s : State) (i : Nat) (core : Option Nat) : State :=
  let t := s.tag i
  let s := s.setTag i { t with st := .published, pv := core.isSome, pcore := core.getD 0 }
  { s with pool := s.pool.map fun r =>
      let hit := ((recSlots r.words r.ext).map readSlot).any fun w => w == .tag i t.gen.toNat
      let r' := r.satisfy s.now fun _ w => w == .tag i t.gen.toNat
      if hit then { r' with lastCore := core } else r' }

/-- A task of the world may add to and read the counter (R350): its own, or any in world 0. -/
def State.mayCount (s : State) (w idx : Nat) : Bool := decide (idx < 262144) && (w == 0 || s.ownsCounter w idx)

/-- The publication of a copy (R86): `none` where it is refused. -/
def State.publishCopy (s : State) (h : W64) (world core : Nat) : Option State :=
  if handleFallback h then
    if handleHere h world && s.mayCount world (handleFctr h) then some (s.counterAdd (handleFctr h) 1) else none
  else
    match s.liveTag h world with
    | some i => if (s.tag i).st = .allocated then some (s.publishTag i (some core)) else none
    | none => none

end Sys2Proof.Machine
end

