-- ==== Sys2Proof/Machine/Admission.lean ====
section
/-! DEFINITION. Admission of task records, the ready pool and the overflow queues: R26 to R34, R87, R90, R91, SPAWN (R354) and
the events ADMISSION and OVERFLOW_RETURN. -/

namespace Sys2Proof.Machine

/-! ## Fields of a record (R21, R23) -/

def hdrKind (h : W64) : Nat := bits h 0 2
def hdrPrio (h : W64) : Nat := bits h 8 2
def hdrAffk (h : W64) : Nat := bits h 10 2
def hdrAffn (h : W64) : Nat := bits h 12 7
def hdrWdc (h : W64) : Nat := bits h 19 5
def hdrOvlp (h : W64) : Bool := h.getLsbD 26
def hdrAffs (h : W64) : Bool := h.getLsbD 27
def hdrExt (h : W64) : Bool := h.getLsbD 24
def hdrSucc (h : W64) : Bool := h.getLsbD 25
def codeAent (c : W64) : Nat := bits c 36 14
def codeEent (c : W64) : Nat := bits c 50 14
def codeImg (c : W64) : Nat := bits c 0 36 * 2 ^ 20
/-- The successor's address in the link word (R28). -/
def linkSucc (ext : List W64) : Nat := bits (wd ext 0) 6 50 * 64

/-- Regions of a PARTW: first unit and size (R25). -/
def partRegions (p : W64) : List (Nat × Nat) := [(bits p 0 7, bits p 7 5), (bits p 12 7, bits p 19 6), (bits p 25 7, bits p 32 8)]
/-- Two runs of units share one. -/
def shareUnit (a b : Nat × Nat) : Bool :=
  a.2 != 0 && b.2 != 0 && decide (a.1 < b.1 + b.2) && decide (b.1 < a.1 + a.2)
/-- A valid PARTW (R25). -/
def partwOk (p : W64) : Bool :=
  match partRegions p with
  | [r, a, s] =>
    decide (r.2 ≤ 24) && decide (a.2 ≤ 32) && decide (s.2 ≤ 128) && decide (r.1 + r.2 ≤ 128) && decide (a.1 + a.2 ≤ 128) &&
      decide (s.1 + s.2 ≤ 128) && !shareUnit r a && !shareUnit r s && !shareUnit a s
  | _ => false

/-! ## The cases of R31 -/

/-- Case 2: reserved codes and fields. -/
def recReserved (words ext : List W64) : Bool :=
  let h := wd words 0
  let slots := recSlots words ext
  decide (2 ≤ hdrKind h) || hdrAffk h == 3 || decide (25 ≤ hdrWdc h) || bits h 28 12 != 0 || bits (wd words 3) 40 24 != 0 ||
    slots.any (fun v => bits v 62 2 == 3 || swaitRes0 v != 0) ||
    (hdrChain h != 0 && (bits (wd ext 0) 56 8 != 0 || bits (wd ext 0) 0 6 != 0))
where
  /-- The RES0 bits of a wait slot (R26). -/
  swaitRes0 (v : W64) : Nat :=
    match bits v 62 2 with
    | 0 => bits v 0 62
    | 1 => bits v 58 4
    | _ => bits v 57 5

/-- Case 5. -/
def recEntries (words : List W64) : Bool :=
  let c := wd words 1
  let a := wd words 2
  decide (codeAent c ≤ 10922) && decide (codeEent c ≤ 10922) && !(hdrKind (wd words 0) == 1 && codeAent c != 0) &&
    bits a 56 8 == 0 && bits a 0 3 == 0

/-- Case 6. -/
def recPlace (words : List W64) : Bool :=
  if hdrKind (wd words 0) = 1 then wd words 3 == 0 else partwOk (wd words 3)

/-- Case 7. -/
def recAffinity (s : State) (words : List W64) : Bool :=
  let h := wd words 0
  let n := hdrAffn h
  let w := hdrWorld h
  match hdrAffk h, hdrKind h with
  | 0, _ => !hdrAffs h
  | 1, 1 => decide (n < 12)
  | 1, _ => decide (n < 128) && (!hdrAffs h || s.holdsCore w n)
  | _, 1 => false
  | _, _ => decide (n < 32) && (!hdrAffs h || (List.range 4).any fun j => s.holdsCore w (n * 4 + j))

/-- Case 8. -/
def recChain (words ext : List W64) : Bool :=
  let h := wd words 0
  !(hdrSucc h && hdrKind h == 1) && (hdrChain h == 0 || (linkSucc ext != 0) == hdrSucc h)

/-- Case 9. -/
def recWaits (s : State) (words ext : List W64) : Bool :=
  let w := hdrWorld (wd words 0)
  (recSlots words ext).all fun v =>
    match bits v 62 2 with
    | 1 => s.ownsCounter w (bits v 40 18)
    | 2 =>
      let h := slotHandle v
      handleHere h w && (!handleFallback h || s.ownsCounter w (handleFctr h))
    | _ => true

/-- Case 10. -/
def recFresh (s : State) (words ext : List W64) : Bool :=
  let w := hdrWorld (wd words 0)
  (recSlots words ext).all fun v =>
    bits v 62 2 != 2 || handleFallback (slotHandle v) || (s.liveTag (slotHandle v) w).isSome

/-- A record address stands admitted under a translation (R30). -/
def State.isAdmitted (s : State) (readWorld recva : Nat) : Bool :=
  let same (x : Ctx) : Bool := x.recva == recva && x.readWorld == readWorld
  (s.pool.any fun r => r.recva == recva && r.readWorld == readWorld) ||
    (s.spilled.any fun r => !r.dropped && r.recva == recva && r.readWorld == readWorld) ||
    (s.cores.any fun (_, k) => k.bank0.any same || k.bank1.any same) || (s.threads.any fun (_, x) => x.any same) ||
    (s.saved.any fun v => v.ctx.any same)

/-- The first case that refuses a record that could be read: its cause, and whether the report goes to the record's world. -/
def refusal (s : State) (q : Submission) (words ext : List W64) : Option (Nat × Bool) :=
  let h := wd words 0
  let w := hdrWorld h
  if q.recva % 64 ≠ 0 ∨ s.isAdmitted q.readWorld q.recva then some (Cause.badRecord, false)
  else if recReserved words ext then some (Cause.badRecord, false)
  else if (match q.expect with | some e => w != e | none => false) then some (Cause.badRecord, false)
  else if !s.hasPart w then some (Cause.badRecord, true)
  else if !recEntries words then some (Cause.badRecord, true)
  else if !recPlace words then some (Cause.badRecord, true)
  else if !recAffinity s words then some (Cause.badRecord, true)
  else if !recChain words ext then some (Cause.badRecord, true)
  else if !recWaits s words ext then some (Cause.badRecord, true)
  else if !recFresh s words ext then some (Cause.staleTag, true)
  else none

/-- LASTC written with one 1-byte store, its fault dropped: whether it was written (R31). -/
def State.writeLastc (s : State) (readWorld recva cause : Nat) : State × Bool :=
  match s.writeVa 7 readWorld (recva + 5) [BitVec.ofNat 8 cause] with
  | .ok s => (s, true)
  | .error _ => (s, false)

/-- The report of a refusal or a discard: LASTC where `store`, and bit 0 of payload D where it was not written. -/
def State.refuse (s : State) (recva readWorld : Nat) (store : Bool) (also cause : Nat) (c d : W64) : State :=
  let (s, ok) := if store then s.writeLastc readWorld recva cause else (s, false)
  s.dieReport (w64 recva) cause c (if ok then d else d ||| 1) (some also)

/-! ## Thresholds (R33, R87) -/

/-- The value nearest to c whose low n bits are thr. -/
def threshold (n c thr : Nat) : Nat :=
  let l := c % 2 ^ n
  let t := c / 2 ^ n * 2 ^ n + thr
  if l ≤ thr ∧ 2 ^ (n - 1) ≤ thr - l then t - 2 ^ n
  else if thr < l ∧ 2 ^ (n - 1) < l - thr then t + 2 ^ n
  else t

/-- The effective threshold of a wait slot: 0 for an empty slot or a tag. -/
def State.slotThreshold (s : State) (v : W64) : W64 :=
  match bits v 62 2 with
  | 1 => w64 (threshold 40 (s.counter (bits v 40 18)).value.toNat (bits v 0 40))
  | 2 =>
    let h := slotHandle v
    if handleFallback h then w64 (threshold 22 (s.counter (handleFctr h)).value.toNat (bits h 14 22)) else 0
  | _ => 0

/-- The tags a record waits on, each once (R89). -/
def recTags (words ext : List W64) : List Nat :=
  ((recSlots words ext).filterMap fun v =>
    match readSlot v with
    | .tag i _ => some i
    | _ => none).eraseDups

/-- A tag has been published in a generation: it is PUBLISHED still, or RETIRED since, which moved it to the next one (R82, R89). -/
def Tag.wasPublished (t : Tag) (gen : Nat) : Bool :=
  (t.st == .published && t.gen.toNat == gen) || (t.st == .retired && t.gen.toNat == (gen + 2) % 2 ^ 24)

/-- A wait slot is satisfied now (R33, R34). -/
def State.slotNow (s : State) (thr : List W64) (i : Nat) : WaitSlot → Bool
  | .ctr idx => decide ((wd thr i).toNat ≤ (s.counter idx).value.toNat)
  | .tag i gen => (s.tag i).wasPublished gen
  | _ => false

/-- Of the tags found published in the slots that a test names the last one's core, none where its publication has none; `other` where
no tag is found so (R93; DEDUCED, log 19). -/
def State.publishedCore (s : State) (words ext : List W64) (which : Nat → Bool) (other : Option Nat) : Option Nat :=
  ((recSlots words ext).zipIdx.filterMap fun (v, i) =>
    match readSlot v with
    | .tag n gen => let t := s.tag n; if which i && t.wasPublished gen then some (if t.pv then some t.pcore else none) else none
    | _ => none).getLast?.getD other

/-! ## Spilling (R90, R91) -/

/-- The bytes of a spill entry but for its GMAC. -/
def spillBytes (r : PoolRec) : List Byte :=
  let word (l : List W64) (n : Nat) : List Byte := (List.range n).flatMap fun i => leBytes 8 (wd l i).toNat
  word r.words 8 ++ (if hdrChain (wd r.words 0) = 0 then List.replicate 64 0 else word r.ext 8) ++ word r.thr 11 ++
    leBytes 8 (r.recva / 64 % 2 ^ 50 + r.sat.toNat * 2 ^ 50 + (if r.ready.isSome then 2 ^ 61 else 0)) ++
    leBytes 8 (r.ready.getD 0) ++ leBytes 8 r.admitted

/-- An entry with its GMAC. -/
def State.spillEntry (s : State) (va : Nat) (r : PoolRec) : List Byte :=
  spillBytes r ++ leBytes 16 (Config.spillMac s.keyEpoch va (spillBytes r)).toNat

/-- The address of entry i of a world's overflow queue. -/
def spillVa (base lg i : Nat) : Nat := base + 256 * (i % 2 ^ lg)

/-- A world's overflow queue has room. -/
def State.ovqRoom (s : State) (w : Nat) : Bool :=
  match (s.world w).ovq with
  | some (_, lg) => decide ((s.world w).ovCount < 2 ^ lg)
  | none => false

/-- A record written to the tail of its world's queue; a write that faults leaves an entry that will not verify (log 21). -/
def State.spill (s : State) (r : PoolRec) (refs : List Nat) : State :=
  let x := s.world r.world
  match x.ovq with
  | none => s
  | some (base, lg) =>
    let va := spillVa base lg (x.ovHead + x.ovCount)
    let s := match s.writeVa 7 r.world va (s.spillEntry va r) with
      | .ok s => s
      | .error _ => s
    let x := s.world r.world
    { s.setWorld r.world { x with ovCount := x.ovCount + 1 } with
      spilled := s.spilled ++ [{ recva := r.recva, readWorld := r.readWorld, world := r.world, lastCore := r.lastCore, refs, dropped := false }] }

/-- A world's resident records. -/
def State.resident (s : State) (w : Nat) : Nat := s.pool.countP fun r => r.world == w

/-! ## Submission -/

/-- What becomes of a submission. -/
inductive Admitted where
  | admitted (r : PoolRec)
  | spilled
  | refused (cause : Nat)
  /-- the quota and the overflow queue are full: it waits (R91) -/
  | full
  deriving DecidableEq, Repr

/-- The words of a record and of its extension record under a translation (R28, R30). -/
def State.readRecord (s : State) (w recva : Nat) : Except FaultInfo (List W64 × List W64 × State) :=
  match s.readVa 6 w recva 64 with
  | .error f => .error f
  | .ok (l, s) =>
    let words := wordsOf 8 l
    let n := if hdrChain (wd words 0) = 0 then 0 else if hdrExt (wd words 0) then 64 else 8
    if n = 0 then .ok (words, [], s)
    else match s.readVa 6 w (recva + 64) n with
      | .error f => .error f
      | .ok (l, s) => .ok (words, wordsOf 8 l, s)

/-- A record that passed every case, evaluated (R32). -/
def State.newRec (s : State) (q : Submission) (words ext : List W64) : PoolRec :=
  let thr := (recSlots words ext).map s.slotThreshold
  let r : PoolRec :=
    { recva := q.recva, readWorld := q.readWorld, world := hdrWorld (wd words 0), words, ext, thr, sat := 0,
      ready := none, admitted := s.now, lastCore := s.publishedCore words ext (fun _ => true) none, refs := recTags words ext }
  r.satisfy s.now (s.slotNow thr)

/-- A submission read and checked (R30, R31): the record, or the cause it is refused with. -/
def State.examine (s : State) (q : Submission) : Except Nat PoolRec × State :=
  match s.readRecord q.readWorld q.recva with
  | .error f => (.error f.cause, (s.logFault f).refuse q.recva q.readWorld false q.readWorld f.cause f.c f.d)
  | .ok (words, ext, s) =>
    match refusal s q words ext with
    | some (cause, own) =>
      (.error cause, s.refuse q.recva q.readWorld (q.recva % 64 == 0) (if own then hdrWorld (wd words 0) else q.readWorld) cause 0 0)
    | none => (.ok (s.newRec q words ext), s)

/-- The world whose records a submission adds to. -/
def Submission.world (q : Submission) : Nat := q.expect.getD q.readWorld

/-- A reference of the record would pass what REFS counts (R89). -/
def State.refsFull (s : State) (r : PoolRec) : Bool := r.refs.any fun i => 2 ^ 32 - 1 ≤ (s.tag i).refs

/-- The record counts in its tags and stands in the pool. -/
def State.enterPool (s : State) (r : PoolRec) : State := let s := s.addRefs r.refs; { s with pool := s.pool ++ [r] }

/-- Records in a world's overflow queue that have yet to return. -/
def State.returning (s : State) (w : Nat) : Nat := s.spilled.countP fun e => e.world == w && !e.dropped

/-- A record admitted to a resident place, spilled, or waiting (R91). `ahead` are the submissions that wait before it; a free resident
place belongs to the records of the overflow queue first, one to each. -/
def State.enter (s : State) (r : PoolRec) (ahead : List Submission) : Admitted × State :=
  if s.refsFull r ∨ ahead.any (fun q => q.world == r.world) then (.full, s)
  else if s.resident r.world + s.returning r.world < s.quota r.world 1 then (.admitted r, s.enterPool r)
  else if s.ovqRoom r.world then (.spilled, (s.addRefs r.refs).spill r r.refs)
  else (.full, s)

/-- Admission of a submission (R30 to R34, R91). -/
def State.submit (s : State) (q : Submission) (ahead : List Submission) : Admitted × State :=
  match s.examine q with
  | (.error cause, s) => (.refused cause, s)
  | (.ok r, s) => s.enter r ahead

/-- SPAWN and SPAWN.w (R354): the outcome in d, or 0 with .nw. -/
def spawnWord (readWorld : M Nat) (expect : M (Option Nat)) (f : FmtP) (s : State) : Host.Outcome State Fault Refusal :=
  word .any (do
    let readWorld ← readWorld
    releaseStores
    let q : Submission := { recva := (← sreg f.a).toNat, readWorld, expect := ← expect }
    let s ← get
    let (r, s') := s.submit q s.submits
    match r with
    | .full => M.wait .spawn
    | r =>
      set s'
      writeSreg f.d (if f.imm.getLsbD 0 then 0 else
        match r with
        | .refused cause => w64 (Status.refused + cause * 256)
        | .spilled => w64 Status.spilled
        | _ => w64 Status.admitted)) s

/-- SPAWN: a submitter in world 0 may name any world. -/
def execSpawn (f : FmtP) (s : State) : Host.Outcome State Fault Refusal :=
  spawnWord curWorld (do let w ← curWorld; return if w = 0 then none else some w) f s

/-- SPAWN.w: IMM[7:2] names the world; in a task of another world than 0 the word is ILLEGAL_INSTR. -/
def execSpawnW (f : FmtP) (s : State) : Host.Outcome State Fault Refusal :=
  let w := (f.imm.extractLsb' 2 6).toNat
  spawnWord (do M.check ((← curWorld) == 0) Cause.illegalInstr; return w) (pure (some w)) f s

/-! ## Events -/

/-- The submissions that wait on the Poleth die taken in order: the first that can be decided (R91). -/
def State.admitNext (s : State) : List Submission → List Submission → State
  | _, [] => s
  | kept, q :: t =>
    match s.submit q kept with
    | (.full, _) => s.admitNext (q :: kept) t
    | (_, s') => { s' with submits := kept.reverse ++ t }

/-- ADMISSION (R30 to R34). -/
def execAdmission (s : State) : Host.Outcome State Fault Refusal := .next (s.admitNext [] s.submits)

/-- A spill entry read back. -/
def unspill (w readWorld : Nat) (l : List Byte) : PoolRec :=
  let words := wordsOf 8 l
  let ext := if hdrChain (wd words 0) = 0 then [] else wordsOf 8 (l.drop 64)
  let st := wd (wordsOf 1 (l.drop 216)) 0
  { recva := bits st 0 50 * 64, readWorld, world := w, words, ext, thr := wordsOf 11 (l.drop 128),
    sat := BitVec.ofNat 11 (bits st 50 11),
    ready := if st.getLsbD 61 then some (ofBytes ((l.drop 224).take 8)) else none,
    admitted := ofBytes ((l.drop 232).take 8), lastCore := none, refs := recTags words ext }

/-- OVERFLOW_RETURN (R90, R91): the head of a world's overflow queue returns to a free resident place. An entry whose read faults is
discarded as one that fails its check, and reported under the record's VA as the pool keeps it (DESIGN CHOICE, log 21). -/
def execOverflowReturn (world : Nat) (s : State) : Host.Outcome State Fault Refusal :=
  let x := s.world world
  match x.ovq, s.spilled.find? fun r => r.world == world with
  | some (base, lg), some e =>
    if x.ovCount = 0 ∨ s.quota world 1 ≤ s.resident world then .next s
    else
      let va := spillVa base lg x.ovHead
      let s := s.setWorld world { x with ovHead := (x.ovHead + 1) % 2 ^ lg, ovCount := x.ovCount - 1 }
      let s := { s with spilled := s.spilled.erase e }
      if e.dropped then .next s
      else
        match s.readVa 7 world va 256 with
        | .error f => .next ((s.logFault f).dieReport (w64 e.recva) Cause.badRecord 0 1 (some world))
        | .ok (l, s) =>
          if ofBytes (l.drop 240) ≠ (Config.spillMac s.keyEpoch va (l.take 240)).toNat then
            .next (s.dieReport (w64 (bits (wd (wordsOf 1 (l.drop 216)) 0) 0 50 * 64)) Cause.badRecord 0 1 (some world))
          else
            let r := unspill world e.readWorld l
            let r := { r with lastCore := s.publishedCore r.words r.ext (fun i => !r.sat.getLsbD i) e.lastCore }
            .next { s with pool := s.pool ++ [r.satisfy s.now (s.slotNow r.thr)] }
  | _, _ => .next s

end Sys2Proof.Machine
end

