-- ==== Sys2Proof/Machine/Barriers.lean ====
section
/-! DEFINITION. Barrier words, BARINIT and BAR: major 0x35 (R345 to R349). -/

namespace Sys2Proof.Machine

/-- The image of a live word (R345). -/
def Barrier.image (b : Barrier) : W64 :=
  w64 (2 ^ 63 + b.level * 2 ^ 60 + b.count * 2 ^ 32 + b.arrived * 2 ^ 16 + b.phase.toNat)

/-- The instance of a level that contains an agent: a number at core, quad and die level, the module at pkg and the
domain at dom; for a thread below pkg level, the thread alone (R347). -/
def instanceOf (s : State) (ag : Agent) (world level : Nat) : Nat × Option Nat :=
  let dom := bits (s.world world).domw 0 24
  match level, ag with
  | 3, _ => (0, none)
  | 4, _ => (dom, none)
  | _, .np t => (0, some t)
  | 0, _ => (ag.core, none)
  | 1, _ => (ag.core / 4, none)
  | _, _ => (ag.core / 32, none)

/-- The network a barrier is held in: level and number (R347). -/
def networkOf (level inst : Nat) (thread : Option Nat) : Nat × Nat :=
  if thread.isSome then (3, 0) else if level = 4 then (4, 0) else (level, inst)
def Barrier.network (b : Barrier) : Nat × Nat := networkOf b.level b.inst b.thread

/-- The live barriers a network holds. -/
def networkCap (level : Nat) : Nat :=
  match level with
  | 0 => 16
  | 1 => 64
  | 2 => 256
  | 3 => 1024
  | _ => 4096

/-- Live barriers of a network but for the word of a key, if any. -/
def State.netCount (s : State) (net : Nat × Nat) (except : Option Nat) : Nat :=
  s.barriers.countP fun (k, b) => some k != except && (b.map Barrier.network) == some net

/-- The word's segment: aligned, translated, with RD and WR (R346). -/
def barrierSeg (ea : W64) : M (Access × Seg) := do
  checkAligned ea 8
  let acc ← streamAccess .read 7 false
  let _ ← resolve acc 1 ea 8
  let acc := { acc with need := .write }
  match ← resolve acc 1 ea 8 with
  | .mem _ (g :: _) => return (acc, g)
  | _ => M.fault Cause.nomap ea

/-- The word written; the holders of a DUP page acknowledge within the step. -/
def setBarrierWord (acc : Access) (g : Seg) (b : Option Barrier) : M Unit :=
  M.upd fun s =>
    let s := s.dupSettle g.pa g.stored
    let v := match b with
      | some b => b.image
      | none => Config.retiredWord s.seq
    let s := g.write s acc false (leBytes 8 v.toNat)
    { s with barriers := s.barriers.set none (s.barrierKey g.pa) b }

/-- BARINIT (R346, R348). -/
def execBarinit (f : FmtP) (s : State) : Host.Outcome State Fault Refusal :=
  word .any (do
    let n := (← sreg f.b).toNat
    M.check (n < 65536) Cause.badOperand
    let (acc, g) ← barrierSeg (← sreg f.a)
    let level := (f.imm.extractLsb' 0 3).toNat
    let world ← curWorld
    let ag ← curAgent
    let s ← get
    let (inst, thread) := instanceOf s ag world level
    let net := networkOf level inst thread
    let room (own : Bool) : Bool := s.netCount net (if own then some (s.barrierKey g.pa) else none) < networkCap net.1
    match s.liveAt g.pa with
    | none =>
      if n = 0 then writeSreg f.d (w64 Status.ok)
      else if !room false then writeSreg f.d (w64 Status.full)
      else
        setBarrierWord acc g (some { world, va := g.va, level, count := n, arrived := 0, phase := 0, inst, thread })
        writeSreg f.d (w64 Status.ok)
    | some b =>
      if b.arrived ≠ 0 then writeSreg f.d (w64 Status.state)
      else if n = 0 then
        setBarrierWord acc g none
        writeSreg f.d (w64 Status.ok)
      else if !room (b.level == level && b.inst == inst && b.thread == thread) then writeSreg f.d (w64 Status.full)
      else
        setBarrierWord acc g (some { b with level, count := n, inst, thread })
        writeSreg f.d (w64 Status.ok)) s

/-- A stream released from the phase it waits in (R348): d := the new phase. -/
def Stream.releaseBar (st : Stream) : Stream :=
  match st.bar with
  | some r =>
    { (st.advance.setReg r.d.toNat (w64 (r.phase + 1).toNat)) with bar := none }
  | none => st

/-- It waits at a word in a phase. A stream that has come back with its BAR record has still to execute its BAR (R349). -/
def Stream.atBar (st : Stream) (pa : Nat) (phase : BitVec 16) : Bool :=
  match st.bar with
  | some r => st.wait == some .bar && r.pa == pa && r.phase == phase
  | none => false

/-- The waiters of a running context released. -/
def Ctx.releaseBars (x : Ctx) (pa : Nat) (phase : BitVec 16) : Ctx :=
  if x.phase ≠ .running then x
  else
    let go (st : Stream) : Stream := if st.atBar pa phase then st.releaseBar else st
    { x with a := go x.a, e := go x.e }

/-- Every waiter of a phase released; one in a stopped context finds the phase advanced when it resumes (R349). -/
def State.releaseBars (s : State) (pa : Nat) (phase : BitVec 16) : State :=
  { s with
    cores := s.cores.map fun (c, k) =>
      (c, { k with bank0 := k.bank0.map fun x => x.releaseBars pa phase, bank1 := k.bank1.map fun x => x.releaseBars pa phase })
    threads := s.threads.map fun (t, x) => (t, x.map fun x => x.releaseBars pa phase) }

/-- The phase a waiting BAR arrived in has passed (R349). -/
def State.phasePassed (s : State) (r : BarRec) : Bool :=
  match s.liveAt r.pa with
  | some b => b.phase != r.phase
  | none => true

/-- The stream stays at its BAR. -/
def holdAtBar (r : BarRec) : M Unit :=
  modStream fun st => { st with pc := st.pc - 1, bar := some r, wait := some .bar }

/-- BAR and BAR.nw (R346, R348, R349). -/
def execBar (f : FmtP) (s : State) : Host.Outcome State Fault Refusal :=
  word .any (do
    match (← curStream).bar with
    | some r =>
      if (← get).phasePassed r then
        modStream fun st => { st with bar := none }
        writeSreg f.d (w64 (r.phase + 1).toNat)
      else holdAtBar { r with d := f.d }
    | none =>
      let (acc, g) ← barrierSeg (← sreg f.a)
      releaseStores
      let world ← curWorld
      let ag ← curAgent
      let s ← get
      match s.liveAt g.pa with
      | none => M.fault Cause.barrierState
      | some b =>
        M.check (instanceOf s ag world b.level == (b.inst, b.thread)) Cause.barrierState
        let nw := f.imm.getLsbD 0
        if b.arrived + 1 = b.count then
          setBarrierWord acc g (some { b with arrived := 0, phase := b.phase + 1 })
          M.upd fun s => s.releaseBars (s.barrierKey g.pa * 8) b.phase
          writeSreg f.d (w64 (if nw then b.phase else b.phase + 1).toNat)
        else
          setBarrierWord acc g (some { b with arrived := b.arrived + 1 })
          if nw then writeSreg f.d (w64 b.phase.toNat)
          else holdAtBar { va := w64 g.va, pa := s.barrierKey g.pa * 8, phase := b.phase, d := f.d }) s

end Sys2Proof.Machine
end

