-- ==== Sys2Proof/Machine/CReg.lean ====
section
/-! DEFINITION. Control registers: major 0x09 (R249 to R251), and the ring descriptors they write (R183, R184). -/

namespace Sys2Proof.Machine

/-- What a stream may do with a control register (R249). -/
inductive Reach where
  | none | ro | rw
  deriving DecidableEq, Repr

/-- The map of R249 by agent and number. -/
def cregReach (ag : Agent) (n : Nat) : Reach :=
  match ag with
  | .np _ =>
    if n < 4 then .rw else if 0x08 ≤ n ∧ n ≤ 0x0C then .ro else if 0x34 ≤ n ∧ n ≤ 0x37 then .rw else .none
  | .a _ =>
    if n < 4 then .rw else if n = 4 ∨ 0x34 ≤ n then .none else .ro
  | .e _ =>
    if n ≤ 4 then .rw else if (0x08 ≤ n ∧ n ≤ 0x0D) ∨ n = 0x30 then .ro else .rw

/-- A ring's slot count, slot size in bytes and first scratchpad byte (R183). -/
def rgdSlots (r : W64) : Nat := bits r 23 8 + 1
def rgdSlotBytes (r : W64) : Nat := (bits r 15 8 + 1) * 512
def rgdBase (r : W64) : Nat := bits r 1 14 * 512
def rgdEn (r : W64) : Bool := r.getLsbD 0
def rgdHead (r : W64) : Nat := bits r 31 8
def rgdTail (r : W64) : Nat := bits r 39 8
def rgdFull (r : W64) : Bool := r.getLsbD 47
/-- The RW fields of a descriptor. -/
def rgdConfig : W64 := 0x7FFFFFFF
/-- A descriptor with HEAD, TAIL and FULL set. -/
def rgdWith (r : W64) (head tail : Nat) (full : Bool) : W64 :=
  (r &&& rgdConfig) ||| w64 (head * 2 ^ 31 + tail * 2 ^ 39 + (if full then 2 ^ 47 else 0))
/-- The slots allocated: TAIL − HEAD, or all of them. -/
def rgdUsed (r : W64) : Nat :=
  if rgdFull r then rgdSlots r else (rgdTail r + rgdSlots r - rgdHead r) % rgdSlots r
/-- The ring is in use and inside the scratchpad (R184). -/
def rgdOk (r : W64) (partw : W64) : Bool :=
  rgdEn r && decide (rgdBase r + rgdSlots r * rgdSlotBytes r ≤ bits partw 32 8 * 65536)

/-- Slot k of ring n in the tables of filled and released bits. -/
def slotKey (n k : Nat) : Nat := n * 256 + k
/-- Every bit of ring n clear. -/
def clearRing (t : Tbl Bool) (n : Nat) : Tbl Bool := t.filter fun (k, _) => k / 256 != n

/-- The ring a matrix command reads, if any (R316). -/
def MCmd.ring (m : MCmd) : Option Nat :=
  match bits (m.word.setWidth 64) 38 4 with
  | 0 => some (bits (m.word.setWidth 64) 32 3)
  | 2 | 3 => some (bits (m.word.setWidth 64) 35 3)
  | _ => none

/-- A stationary holds slots of a ring (R320). -/
def Stationary.holds (t : Stationary) (n : Nat) : Bool :=
  match t.source with
  | some (r, _, k) => r == n && k != 0
  | none => false

/-- A copy holds a slot of the dispatch's ring. -/
def Copy.holdsRing (c : Copy) (core disp n : Nat) : Bool :=
  c.slots.any fun t => t.core == core && t.disp == disp && t.ring == n

/-- Copies of any core, in its engine or saved, that have allocated a slot of the dispatch's ring (R184). -/
def State.ringCopies (s : State) (core disp n : Nat) : Bool :=
  (s.cores.any fun (_, k) => k.copies.any fun c => c.holdsRing core disp n) ||
    s.saved.any fun v => v.copies.any fun c => c.holdsRing core disp n

/-- An MTC to RGDn (R184, R320). -/
def writeRgd (n : Nat) (v : W64) : M Unit := do
  let x ← curCtx
  let c := (← curAgent).core
  M.await (!x.mcq.any fun m => m.ring == some n) .control
  M.await (!(← M.get fun s => s.ringCopies c x.disp n)) .control
  let k ← M.get fun s => s.core c
  M.check (!k.act.holds n && !k.shad.holds n) Cause.matrixCmd
  modCtx fun x =>
    { x with rgd := x.rgd.set 0 n (v &&& rgdConfig), filled := clearRing x.filled n,
             released := clearRing x.released n, readPos := x.readPos.set 0 n 0 }

/-- SELF (R250). -/
def selfWord (ag : Agent) (world : Nat) : W64 :=
  w64 (moduleNo * 2 ^ 30 + world * 2 ^ 24 + (match ag with
    | .a c => c * 2 ^ 7
    | .e c => 2 ^ 22 + c * 2 ^ 7
    | .np t => 2 * 2 ^ 22 + t * 2 ^ 14))

/-- A stream register of the E stream follows the vector words issued before (R221). -/
def streamCtlWait : M Unit := do
  match ← curAgent with
  | .e _ => M.await (← curCtx).ve.isEmpty .control
  | _ => pure ()

/-- A control register read (R249 to R251). -/
def readCreg (n : Nat) : M W64 := do
  if n < 4 then streamCtlWait
  let x ← curCtx
  let st ← curStream
  let ag ← curAgent
  if n = 0x04 then M.await x.mcq.isEmpty .control
  let s ← get
  return (
    if n = 0x00 then st.fpctl
    else if n = 0x01 then st.fpstat
    else if n = 0x02 then st.lfsr.setWidth 64
    else if n = 0x03 then st.lfsr.extractLsb' 64 64
    else if n = 0x04 then x.mxstat
    else if n = 0x08 then selfWord ag x.world
    else if n = 0x09 then w64 x.recva
    else if n = 0x0A then x.argp
    else if n = 0x0B then w64 x.wdcnt
    else if n = 0x0C then w64 s.now
    else if n = 0x0D then w64 ((s.core ag.core).cur * 16)
    else if n < 0x20 then x.vw.get 0 (n - 0x10)
    else if n = 0x20 then x.vshape
    else if n = 0x21 then x.vksc
    else if n < 0x30 then x.rgd.get 0 (n - 0x28)
    else if n = 0x30 then x.ctb
    else x.swait.get 0 (n - 0x34))

/-- The RW bits of VWn (R179), VSHAPE (R181) and VKSC. -/
def vwMask : W64 := ~~~ (0x3FFF8000 : W64)
def vshapeMask : W64 := 0x7FFFF
def vkscMask : W64 := 0xFFFFFFFF
/-- A wait slot with its RES0 fields 0 (R26). -/
def swaitWord (v : W64) : W64 :=
  match bits v 62 2 with
  | 0 => 0
  | 1 => v &&& ~~~ (0x3C00000000000000 : W64)
  | 2 => v &&& ~~~ (0x3E00000000000000 : W64)
  | _ => v

/-- A control register written (R249 to R251); RES0 fields are ignored (R6). -/
def writeCreg (n : Nat) (v : W64) : M Unit := do
  if n = 0x00 then M.check (fpctlOk v) Cause.illegalInstr
  if n < 4 then streamCtlWait
  if n = 0x04 then M.await (← curCtx).mcq.isEmpty .control
  if n = 0x00 then modStream fun st => { st with fpctl := v &&& fpctlMask }
  else if n = 0x01 then modStream fun st => { st with fpstat := v &&& fpstatMask }
  else if n = 0x02 then modStream fun st => { st with lfsr := st.lfsr.extractLsb' 64 64 ++ v }
  else if n = 0x03 then modStream fun st => { st with lfsr := v ++ st.lfsr.setWidth 64 }
  else if n = 0x04 then modCtx fun x => { x with mxstat := v &&& mxstatMask }
  else if n < 0x20 then modCtx fun x => { x with vw := x.vw.set 0 (n - 0x10) (v &&& vwMask) }
  else if n = 0x20 then modCtx fun x => { x with vshape := v &&& vshapeMask }
  else if n = 0x21 then modCtx fun x => { x with vksc := v &&& vkscMask }
  else if n < 0x30 then writeRgd (n - 0x28) v
  else modCtx fun x => { x with swait := x.swait.set 0 (n - 0x34) (swaitWord v) }

/-- The stream checks of MFC: a register the map marks "—" takes STREAM (R198). -/
def mfcCheck (n : Nat) : M Unit := do
  M.check (cregReach (← curAgent) n != .none) Cause.stream
/-- Those of MTC: RO takes ILLEGAL_INSTR, "—" STREAM. -/
def mtcCheck (n : Nat) : M Unit := do
  M.check (cregReach (← curAgent) n != .ro) Cause.illegalInstr
  M.check (cregReach (← curAgent) n != .none) Cause.stream

/-- MFC (R249). -/
def execMfc (f : FmtI) (s : State) : Host.Outcome State Fault Refusal :=
  wordChecked .any (mfcCheck f.imm.toNat) f.pg (do writeSreg f.d (← readCreg f.imm.toNat)) s
/-- MTC (R249). -/
def execMtc (f : FmtI) (s : State) : Host.Outcome State Fault Refusal :=
  wordChecked .any (mtcCheck f.imm.toNat) f.pg (do writeCreg f.imm.toNat (← sreg f.a)) s

end Sys2Proof.Machine
end

