-- ==== Sys2Proof/Machine/Elements.lean ====
section
/-! DEFINITION. Vector element types and matrix formats: widths, packing, values and conversions (R209 to R212, R222,
R224). -/

namespace Sys2Proof.Machine

/-- What a vector type code names (R211). -/
inductive VType where
  | int (bits : Nat) (sgn : Bool)
  | flt (f : Fmt)
  | scale
  deriving DecidableEq, Repr

/-- The type of a code from 0 to 14. -/
def vtypeOf (c : Nat) : VType :=
  match c with
  | 0 => .int 8 true
  | 1 => .int 8 false
  | 2 => .int 16 true
  | 3 => .int 16 false
  | 4 => .int 32 true
  | 5 => .int 32 false
  | 6 => .int 64 true
  | 7 => .int 64 false
  | 8 => .flt .fp32
  | 9 => .flt .bf16
  | 10 => .flt .fp16
  | 11 => .flt .e4m3
  | 12 => .flt .e5m2
  | 13 => .flt .e2m1
  | _ => .scale

/-- elem_bits (R179). -/
def elemBits (c : Nat) : Nat :=
  match vtypeOf c with
  | .int n _ => n
  | .flt f => f.width
  | .scale => 8

/-- The value of an element's bits; an E8M0 scale has none. -/
def VType.value (t : VType) (ftz : Bool) (x : Nat) : Num :=
  match t with
  | .int n sgn => .ofInt (if sgn then toSignedBits n x else x)
  | .flt f => fpValue f ftz x
  | .scale => .nan false
where
  /-- A number below 2^n read signed. -/
  toSignedBits (n x : Nat) : Int := if x < 2 ^ (n - 1) then x else (x : Int) - (2 ^ n : Nat)

/-- An integer's low n bits. -/
def intBits (n : Nat) (z : Int) : Nat := (z % (2 ^ n : Nat)).toNat

/-- A conversion of R222 from one type to another: the written bits and the flags. -/
def convert (src dst : VType) (ftz sat : Bool) (rm : Rm) (d : BitVec 32) (x : Nat) : Nat × Flags :=
  match dst with
  | .flt f => convToFloat f ftz rm sat d (src.value ftz x)
  | .int n sgn =>
    match src with
    | .int m s =>
      let (z, fl) := satInt (if s then VType.value.toSignedBits m x else x) n sgn
      (intBits n z, fl)
    | _ =>
      let (z, fl) := convToInt n sgn rm d (src.value ftz x)
      (intBits n z, fl)
  | .scale => (x, noFlags)

/-! ## Matrix formats (R212) -/

/-- The element of a matrix format: a float, MX-INT8 (value k × 2^−6), or an integer of n bits. -/
inductive MatElem where
  | flt (f : Fmt)
  | mxInt8
  | int (bits : Nat)
  deriving DecidableEq, Repr

/-- The element of a matrix format code. -/
def matElem (c : Nat) : MatElem :=
  match c with
  | 0x0 | 0x5 => .flt .e4m3
  | 0x1 | 0x6 => .flt .e5m2
  | 0x2 | 0x7 => .flt .e2m3
  | 0x3 | 0x8 => .flt .e3m2
  | 0x4 | 0x9 => .flt .e2m1
  | 0xA => .mxInt8
  | 0xB => .int 8
  | 0xC => .int 4
  | 0xD => .flt .bf16
  | 0xE => .flt .fp16
  | _ => .flt .fp32

/-- The stored width of a matrix format. -/
def matBits (c : Nat) : Nat :=
  match matElem c with
  | .flt f => f.width
  | .mxInt8 => 8
  | .int n => n

/-- The format carries an E8M0 scale per 32 elements. -/
def matIsMx (c : Nat) : Bool := 0x5 ≤ c && c ≤ 0xA

/-- The value of an element; the ME ignores FTZ (R220). -/
def MatElem.value (t : MatElem) (x : Nat) : Num :=
  match t with
  | .flt f => fpDecode f x
  | .mxInt8 =>
    let z := VType.value.toSignedBits 8 x
    .fin (z < 0) z.natAbs (-6)
  | .int n => .ofInt (VType.value.toSignedBits n x)

/-- The MX format of a code from 0x5 to 0xA (R224). -/
def mxFmtOf (c : Nat) : MxFmt :=
  match matElem c with
  | .flt f => .flt f
  | _ => .int8

/-! ## Packing (R209) -/

/-- n-byte groups of a byte list, as little-endian numbers. -/
def groups (n : Nat) : Nat → List Byte → List Nat
  | 0, _ => []
  | k + 1, l => ofBytes (l.take n) :: groups n k (l.drop n)

/-- The elements of w bits packed in bytes; w is 4, 6 or whole bytes. -/
def unpackElems (w count : Nat) (l : List Byte) : List Nat :=
  if w = 4 then ((groups 1 ((count + 1) / 2) l).flatMap fun x => [x % 16, x / 16]).take count
  else if w = 6 then
    ((groups 3 ((count + 3) / 4) l).flatMap fun x => [x % 64, x / 64 % 64, x / 4096 % 64, x / 262144]).take count
  else groups (w / 8) count l

/-- Pairs of a list, a missing second being 0. -/
def pairUp : List Nat → List (Nat × Nat)
  | [] => []
  | [x] => [(x, 0)]
  | x :: y :: l => (x, y) :: pairUp l

/-- Elements of w bits packed into bytes. -/
def packElems (w : Nat) (l : List Nat) : List Byte :=
  if w = 4 then (pairUp l).map fun (x, y) => BitVec.ofNat 8 (x + y * 16)
  else if w = 6 then
    (pairUp ((pairUp l).map fun (x, y) => x + y * 64)).flatMap fun (x, y) => leBytes 3 (x + y * 4096)
  else l.flatMap fun x => leBytes (w / 8) x

end Sys2Proof.Machine
end

