-- ==== Sys2Proof/Machine/Probe.lean ====
section
/-! DEFINITION. The software-managed cache: tag tables and PROBE, major 0x14 (R265 to R270), and the queuing of copies. -/

namespace Sys2Proof.Machine

/-- A copy with nothing done yet. -/
def Copy.fresh (id world : Nat) (desc : List W64) : Copy :=
  { id, world, task := none, tag := none, fill := none, trigger := none, uw := 0, sc := 0, buf := none, partw := 0, desc,
    chunks := 0, padrows := 0, crc := 0xFFFFFFFF, barrier := false, slots := [], allocated := false, pushed := 0, covers := [],
    early := none, paused := false, asks := [] }

/-- A copy handed to a core's copy engine. -/
def State.addCopy (s : State) (c : Nat) (p : Copy) : State :=
  let k := s.core c
  { s.setCore c { k with copies := k.copies ++ [p] } with nextId := s.nextId + 1 }

/-- A status word with ST and CAUSE (R280). -/
def statusWord (st cause : Nat) : W64 := w64 (st * 2 ^ 20 + cause * 2 ^ 24)
/-- ST of a status word. -/
def statusSt (w : W64) : Nat := bits w 20 4

/-! ## Tag tables (R265, R266) -/

def ttdLine (d : W64) : Nat := 2 ^ (9 + bits d 31 4)
def ttdSets (d : W64) : Nat := 2 ^ bits d 35 4
def ttdWays (d : W64) : Nat := 2 ^ bits d 39 2
def ttdFtag (d : W64) : Nat := bits d 41 6
def ttdBase (d : W64) : Nat := bits d 1 14 * 512
def ttdStor (d : W64) : Nat := bits d 29 2
def ttdEn (d : W64) : Bool := d.getLsbD 0
/-- The fields of a descriptor that are not RES0. -/
def ttdMask : W64 := 0x7FFFE0007FFF
/-- A descriptor that may be installed (R266). -/
def ttdOk (d : W64) : Bool :=
  !ttdEn d ||
    (decide (bits d 35 4 ≤ 8) && decide (bits d 35 4 + bits d 39 2 ≤ 8) && decide (bits d 31 4 ≤ 7) &&
      (ttdStor d == 1 || ttdStor d == 3) && decide (d &&& ttdMask = d))
/-- Where a slot's line stands in the scratchpad. -/
def ttdSlotOff (d : W64) (slot : Nat) : Nat := ttdBase d + slot * ttdLine d
/-- The table's last slot lies inside the scratchpad. -/
def ttdFits (d partw : W64) : Bool :=
  decide (ttdBase d + ttdSets d * ttdWays d * ttdLine d ≤ bits partw 32 8 * 65536)

/-- Entry `slot` of table `t`. -/
def Ctx.tagSlot (x : Ctx) (t slot : Nat) : TagSlot := x.tt.get .empty (t * 256 + slot)
def Ctx.setTagSlot (x : Ctx) (t slot : Nat) (e : TagSlot) : Ctx := { x with tt := x.tt.set .empty (t * 256 + slot) e }

/-- The slots of a set. -/
def setSlots (d : W64) (set : Nat) : List Nat := (List.range (ttdWays d)).map fun w => set * ttdWays d + w

/-- Slots of the set with a rank below `r` grow older by one. -/
def Ctx.ageSet (x : Ctx) (t : Nat) (slots : List Nat) (r : Nat) : Ctx :=
  slots.foldl (fun x s =>
    let e := x.tagSlot t s
    if e.valid && e.rank < r then x.setTagSlot t s { e with rank := e.rank + 1 } else x) x

/-- An entry made the most recent of its set. -/
def Ctx.touchSlot (x : Ctx) (t : Nat) (slots : List Nat) (slot : Nat) : Ctx :=
  let e := x.tagSlot t slot
  let x := x.ageSet t slots e.rank
  x.setTagSlot t slot { e with rank := 0 }

/-- An entry dropped; the older entries of its set close up. -/
def Ctx.dropSlot (x : Ctx) (t : Nat) (slots : List Nat) (slot : Nat) : Ctx :=
  let r := (x.tagSlot t slot).rank
  let x := x.setTagSlot t slot .empty
  slots.foldl (fun x s =>
    let e := x.tagSlot t s
    if e.valid && r < e.rank then x.setTagSlot t s { e with rank := e.rank - 1 } else x) x

/-- The way a miss takes (R268): the lowest invalid one, else the least recent that is not pending. -/
def Ctx.victim (x : Ctx) (t : Nat) (slots : List Nat) : Option Nat :=
  match slots.find? fun s => !(x.tagSlot t s).valid with
  | some s => some s
  | none =>
    (slots.filter fun s => !(x.tagSlot t s).pending).foldl (fun b s =>
      match b with
      | none => some s
      | some b => if (x.tagSlot t b).rank < (x.tagSlot t s).rank then some s else some b) none

/-- A fill of one line as a copy (R269): from the line's address under STOR into its slot. -/
def fillCopy (id : Nat) (x : Ctx) (t slot : Nat) (d : W64) (va : Nat) : Copy :=
  let line := ttdLine d
  let src := va / line * line
  { Copy.fresh id x.world
      [w64 (src % 2 ^ 56 + ttdStor d * 2 ^ 56), w64 (ttdSlotOff d slot), w64 (line * 2 ^ 16), 0, 0, 0, 0, 0] with
    task := some x.disp, fill := some (t, slot), partw := x.partw,
    early := if 2 ^ 56 ≤ src then some (statusWord 1 Cause.addrForm) else none }

/-- A lookup (R268). -/
def probeWord (withFill : Bool) (f : FmtQ) (s : State) : Host.Outcome State Fault Refusal :=
  word .aOnly (do
    let x ← curCtx
    let t := f.tt.toNat
    let d := x.ttd.get 0 t
    let va := (← sreg f.a).toNat
    let pc ← curPc
    M.check (ttdEn d && ttdFits d x.partw) Cause.spRange (w64 va) (w64 (7 <<< 4))
    let line := ttdLine d
    let blk := va / line
    let slots := setSlots d (blk % ttdSets d)
    match slots.find? fun s => (x.tagSlot t s).valid && (x.tagSlot t s).block == blk with
    | some slot =>
      modCtx fun x => x.touchSlot t slots slot
      writeSreg f.d (w64 (ttdSlotOff d slot + va % line))
      if (x.tagSlot t slot).pending then setPc (pc + f.off.toInt)
    | none =>
      if !withFill then writeSreg f.d (BitVec.allOnes 64)
      else
        match x.victim t slots with
        | none => writeSreg f.d (BitVec.allOnes 64)
        | some slot =>
          modCtx fun x =>
            -- an invalid way counts as the oldest
            let r := if (x.tagSlot t slot).valid then (x.tagSlot t slot).rank else ttdWays d
            let x := x.ageSet t slots r
            { x.setTagSlot t slot { valid := true, pending := true, block := blk, rank := 0 } with
              ctb := x.ctb &&& ~~~ (w64 (2 ^ ttdFtag d)) }
          let c := (← curAgent).core
          M.upd fun s => s.addCopy c (fillCopy s.nextId x t slot d va)
          writeSreg f.d (w64 (ttdSlotOff d slot + va % line))
      setPc (pc + f.off.toInt)) s

def execProbe (f : FmtQ) (s : State) : Host.Outcome State Fault Refusal := probeWord true f s
def execProbeNf (f : FmtQ) (s : State) : Host.Outcome State Fault Refusal := probeWord false f s

/-- PROBE.inv (R270); a table that is not in use holds no entry. -/
def execProbeInv (f : FmtQ) (s : State) : Host.Outcome State Fault Refusal :=
  word .aOnly (do
    let x ← curCtx
    let t := f.tt.toNat
    let d := x.ttd.get 0 t
    let va := (← sreg f.a).toNat
    let blk := va / ttdLine d
    let slots := setSlots d (blk % ttdSets d)
    match slots.find? fun s => ttdEn d && (x.tagSlot t s).valid && (x.tagSlot t s).block == blk with
    | some slot =>
      M.await (!(x.tagSlot t slot).pending) .fill
      modCtx fun x => x.dropSlot t slots slot
      writeSreg f.d 1
    | none => writeSreg f.d 0) s

/-- The task's outstanding copies on this core. -/
def Core.taskCopies (k : Core) (disp : Nat) : List Copy := k.copies.filter fun c => c.task == some disp

/-- PROBE.cfg (R270): ILLEGAL_INSTR for a bad descriptor; then, once no fill of the table is outstanding, the old
descriptor is returned, the new one installed, the table emptied and its tag's status word cleared (R269). -/
def execProbeCfg (f : FmtQ) (s : State) : Host.Outcome State Fault Refusal :=
  word .aOnly (do
    let x ← curCtx
    let t := f.tt.toNat
    let v ← sreg f.a
    M.check (ttdOk v) Cause.illegalInstr
    let c := (← curAgent).core
    let k ← M.get fun s => s.core c
    M.await (!(k.taskCopies x.disp).any fun p => (p.fill.map Prod.fst) == some t) .fill
    let d := v &&& ttdMask
    modCtx fun x =>
      { x with ttd := x.ttd.set 0 t d, tt := x.tt.filter fun (i, _) => i / 256 != t,
               ctStatus := x.ctStatus.set 0 (ttdFtag d) 0 }
    writeSreg f.d (x.ttd.get 0 t)) s

end Sys2Proof.Machine
end

