-- ==== Sys2Proof/Machine/CopyEngine.lean ====
section
/-! DEFINITION. What a copy does: its descriptor and the checks on it, its stages over any range of its output, the writing of a
range, ring slots, and its completion (R272 to R284). A copy goes on by 4 KiB chunks of its output, one a step (log 13). -/

namespace Sys2Proof.Machine

/-! ## Fields of microword and descriptor (R272, R273) -/

def Copy.dk (p : Copy) : Nat := (p.uw.extractLsb' 0 2).toNat
def Copy.wg (p : Copy) : Bool := p.uw.getLsbD 7
/-- The transposed element's width in bytes, 0 for none. -/
def Copy.trBytes (p : Copy) : Nat :=
  match (p.uw.extractLsb' 8 2).toNat with
  | 0 => 0
  | 1 => 1
  | 2 => 2
  | _ => 4
def Copy.cvt (p : Copy) : Bool := p.uw.getLsbD 10
def Copy.qmx (p : Copy) : Bool := p.uw.getLsbD 11
def Copy.ck (p : Copy) : Bool := p.uw.getLsbD 12
def Copy.isFill (p : Copy) : Bool := p.uw.getLsbD 13
def Copy.mc (p : Copy) : Bool := p.uw.getLsbD 14
def Copy.pub (p : Copy) : Bool := p.uw.getLsbD 15
/-- Bits of a descriptor word. -/
def Copy.field (p : Copy) (i lo n : Nat) : Nat := bits (wd p.desc i) lo n
def Copy.sstor (p : Copy) : Nat := p.field 0 56 2
def Copy.saddr (p : Copy) : Nat := p.field 0 0 56
def Copy.ring (p : Copy) : Nat := p.field 1 58 3
def Copy.dstor (p : Copy) : Nat := p.field 1 56 2
def Copy.daddr (p : Copy) : Nat := p.field 1 0 56
def Copy.mcm (p : Copy) : Nat := p.field 2 56 4
def Copy.sat (p : Copy) : Bool := (wd p.desc 2).getLsbD 55
def Copy.rm (p : Copy) : Nat := p.field 2 52 3
def Copy.qfmt (p : Copy) : Nat := p.field 2 48 4
def Copy.dtype (p : Copy) : Nat := p.field 2 44 4
def Copy.stype (p : Copy) : Nat := p.field 2 40 4
def Copy.rowlen (p : Copy) : Nat := p.field 2 16 24
def Copy.rows (p : Copy) : Nat := p.field 2 0 16 + 1
def Copy.dpitch (p : Copy) : Int := toSigned' (p.field 3 32 32)
where
  /-- 32 bits read signed. -/
  toSigned' (n : Nat) : Int := if n < 2 ^ 31 then n else (n : Int) - (2 ^ 32 : Nat)
def Copy.spitch (p : Copy) : Int := Copy.dpitch.toSigned' (p.field 3 0 32)
def Copy.phnd (p : Copy) : W64 := wd p.desc 4
def Copy.fillv (p : Copy) : W64 := wd p.desc 5
def Copy.scla (p : Copy) : W64 := wd p.desc 5
def Copy.px (p : Copy) : Nat := p.field 6 58 4
def Copy.py (p : Copy) : Nat := p.field 6 54 4
def Copy.sx (p : Copy) : Nat := p.field 6 51 3 + 1
def Copy.sy (p : Copy) : Nat := p.field 6 48 3 + 1
def Copy.kw (p : Copy) : Nat := p.field 6 44 4 + 1
def Copy.kh (p : Copy) : Nat := p.field 6 40 4 + 1
def Copy.cb (p : Copy) : Nat := p.field 6 28 12
def Copy.ih (p : Copy) : Nat := p.field 6 14 14
def Copy.iw (p : Copy) : Nat := p.field 6 0 14
def Copy.nb (p : Copy) : Nat := p.field 7 32 16 + 1
def Copy.p0 (p : Copy) : Nat := p.field 7 0 32
/-- Output height and width of a window gather (R278). -/
def Copy.oh (p : Copy) : Int := ((p.ih : Int) + 2 * p.py - p.kh) / p.sy + 1
def Copy.ow (p : Copy) : Int := ((p.iw : Int) + 2 * p.px - p.kw) / p.sx + 1

/-! ## Geometry -/

/-- Rows and row length in bytes after CVT. -/
def Copy.lenCvt (p : Copy) : Nat :=
  if p.cvt then p.rowlen * 8 / elemBits p.stype * elemBits p.dtype / 8 else p.rowlen
/-- After TR. -/
def Copy.dimTr (p : Copy) : Nat × Nat :=
  if p.trBytes = 0 then (p.rows, p.lenCvt) else (p.lenCvt / p.trBytes, p.rows * p.trBytes)
/-- Output rows and row length. -/
def Copy.dims (p : Copy) : Nat × Nat :=
  let (r, l) := p.dimTr
  if p.qmx then (r, l * 8 / elemBits p.stype * matBits p.qfmt / 8) else (r, l)

/-- The pieces of input row r: an address of the source, or none for fill bytes, with the offset in the row and the
length. -/
def Copy.rowParts (p : Copy) (r : Nat) : List (Option W64 × Nat × Nat) :=
  if p.isFill then [(none, 0, p.rowlen)]
  else if !p.wg then [(some (BitVec.ofInt 64 ((p.saddr : Int) + r * p.spitch)), 0, p.rowlen)]
  else
    let px := p.p0 + r
    if (p.nb : Int) * p.oh * p.ow ≤ px then [(none, 0, p.rowlen)]
    else
      let n := px / (p.oh * p.ow).toNat
      let oy := px % (p.oh * p.ow).toNat / p.ow.toNat
      let ox := px % p.ow.toNat
      (List.range p.kh).flatMap fun (ky : Nat) => (List.range p.kw).map fun (kx : Nat) =>
        let iy : Int := oy * p.sy - p.py + ky
        let ix : Int := ox * p.sx - p.px + kx
        let off : Nat := (ky * p.kw + kx) * p.cb
        if 0 ≤ iy ∧ iy < p.ih ∧ 0 ≤ ix ∧ ix < p.iw then
          (some (BitVec.ofInt 64 (p.saddr + ((n * p.ih + iy) * p.iw + ix) * p.cb)), off, p.cb)
        else (none, off, p.cb)

/-- Rows past the batch among the first k (R278). -/
def Copy.padrowsOf (p : Copy) (k : Nat) : Nat :=
  if p.wg then (List.range k).countP fun r : Nat => decide ((p.nb : Int) * p.oh * p.ow ≤ ((p.p0 + r : Nat) : Int)) else 0

/-- The lowest and one past the highest byte of pieces. -/
def extent (l : List (W64 × Nat)) : Option (Nat × Nat) :=
  l.foldl (fun e (a, n) =>
    match e with
    | none => some (a.toNat, a.toNat + n)
    | some (lo, hi) => some (if a.toNat < lo then a.toNat else lo, if hi < a.toNat + n then a.toNat + n else hi)) none

/-- Where output row r is written for DK = 0. -/
def Copy.rowAddr (p : Copy) (r : Nat) : W64 := BitVec.ofInt 64 ((p.daddr : Int) + r * p.dpitch)

/-- A scratchpad operand as a byte of the core's pool space, whichever form names it. -/
def Copy.padAddr (p : Copy) (core a : Nat) : Nat :=
  if a < 2 ^ 23 then 0xFF000000000000 + core * 2 ^ 23 + bits p.partw 25 7 * 65536 + a else a

/-- The core of a quad position. -/
def quadCore (core j : Nat) : Nat := core / 4 * 4 + j
/-- The cores a multicast names besides the issuing core. -/
def Copy.mcCores (p : Copy) (core : Nat) : List Nat :=
  if p.mc then ((List.range 4).filter fun j => p.mcm.testBit j).map (quadCore core) else []

/-- Source and destination extents for DK = 0. -/
def Copy.srcExtent (p : Copy) : Option (Nat × Nat) :=
  extent ((List.range p.rows).flatMap fun r => (p.rowParts r).filterMap fun (a, _, n) => a.map fun a => (a, n))
def Copy.dstExtent (p : Copy) : Option (Nat × Nat) :=
  let (r, l) := p.dims
  extent ((List.range r).map fun i => (p.rowAddr i, l))

/-- The bytes of the output. -/
def Copy.total (p : Copy) : Nat := p.dims.1 * p.dims.2
/-- The chunks that the output is written in. -/
def Copy.lastChunk (p : Copy) : Nat := (p.total + 4095) / 4096

/-- The aligned 16 bytes of the destination that an output position is written in, as two of a lossy leaf are one stored unit
(R151, R283). -/
def Copy.unitAt (p : Copy) (pos : Nat) : Int :=
  (((if p.dk = 0 then p.daddr else 0 : Nat) : Int) + (pos / p.dims.2 : Nat) * p.dpitch + (pos % p.dims.2 : Nat)) / 16

/-- The output position where chunk k begins: the last at or before 4 KiB times k that parts no unit of the destination, or that begins
a row (R283; DEDUCED, log 13). -/
def Copy.cut (p : Copy) (k : Nat) : Nat :=
  if p.total ≤ k * 4096 then p.total
  else
    let near := (List.range 16).map (k * 4096 - ·)
    ((near.find? fun x => x == 0 || p.unitAt (x - 1) != p.unitAt x).orElse fun _ => near.find? fun x => x % p.dims.2 == 0).getD (k * 4096)

/-- The scales of a quantising copy (R276). -/
def Copy.scaleCount (p : Copy) : Nat := if p.qmx then p.dims.1 * (p.dimTr.2 * 8 / elemBits p.stype / 32) else 0

/-- The runs of bytes that the output and its scales fill, as first address and length; scratchpad bytes are named by their alias,
those of a ring copy in the slots given. -/
def Copy.outRuns (p : Copy) (core : Nat) (slots : List SlotRef) : List (Nat × Nat) :=
  let (r, l) := p.dims
  let scales := if p.scaleCount = 0 ∨ p.dstor = 2 then [] else
    [(if p.dstor = 0 then p.padAddr core p.scla.toNat else p.scla.toNat, p.scaleCount)]
  if p.dk = 1 then
    (slots.flatMap fun t => (List.range r).map fun (i : Nat) => (0xFF000000000000 + t.core * 2 ^ 23 + ((t.base : Int) + i * p.dpitch).toNat, l)) ++ scales
  else if p.dk = 0 ∧ p.dstor ≠ 2 then
    ((List.range r).flatMap fun i =>
      let a := (p.rowAddr i).toNat
      if p.dstor = 0 then (core :: p.mcCores core).map fun c => (p.padAddr c a, l) else [(a, l)]) ++ scales
  else []

/-- The destination overlaps a tile of the world's virtual space (R84). -/
def Copy.writesInto (p : Copy) (core : Nat) (slots : List SlotRef) (base len : Nat) : Bool :=
  (p.outRuns core slots).any fun (a, n) => decide (a < base + len) && decide (base < a + n)

/-! ## Descriptor checks (R275) -/

/-- Bits that must be 0 are 0. -/
def Copy.zero (p : Copy) (i lo n : Nat) : Bool := p.field i lo n == 0

/-- RES0 fields and the fields that no enabled stage reads. -/
def Copy.unreadOk (p : Copy) : Bool :=
  p.zero 0 58 6 && (!p.isFill || p.zero 0 0 58) &&
  p.zero 1 61 3 && (p.dk == 1 || p.zero 1 58 3) && (p.dk == 0 || p.qmx || p.zero 1 56 2) &&
  (p.dk == 0 || p.zero 1 0 56) &&
  p.zero 2 60 4 && (p.mc || p.zero 2 56 4) && (p.cvt || p.zero 2 52 4) && (p.qmx || p.zero 2 48 4) &&
  (p.cvt || p.zero 2 44 4) && (p.cvt || p.qmx || p.zero 2 40 4) &&
  (!p.isFill || p.zero 3 0 32) && (p.dk < 2 || p.zero 3 32 32) &&
  (p.pub || p.zero 4 0 64) && (p.isFill || p.wg || p.qmx || p.zero 5 0 64) &&
  (if p.wg then p.zero 6 62 2 && p.zero 7 48 16 else p.zero 6 0 64 && p.zero 7 0 64)

/-- The stages' own conditions. -/
def Copy.stagesOk (p : Copy) : Bool :=
  let n := p.rowlen * 8
  p.rowlen != 0 &&
  (!p.cvt || (p.stype < 14 && p.dtype < 14 && p.rm ≤ 3 && n % elemBits p.stype == 0 &&
    n / elemBits p.stype * elemBits p.dtype % 8 == 0)) &&
  (!p.qmx || (8 ≤ p.stype && p.stype ≤ 10 && matIsMx p.qfmt && p.dimTr.2 * 8 % (32 * elemBits p.stype) == 0)) &&
  (p.trBytes == 0 || (p.rowlen % p.trBytes == 0 && p.lenCvt % p.trBytes == 0 && p.rows ≤ 256 &&
    p.lenCvt / p.trBytes ≤ 256 && (!p.qmx || p.trBytes * 8 == elemBits p.stype))) &&
  (!p.wg || (p.cb != 0 && p.ih != 0 && p.iw != 0 && p.rowlen == p.kh * p.kw * p.cb && p.zero 3 0 32 &&
    decide (1 ≤ p.oh)))

/-- Source and destination do not overlap (DK = 0). -/
def Copy.disjoint (p : Copy) (core : Nat) : Bool :=
  if p.dk ≠ 0 ∨ p.sstor ≠ p.dstor then true
  else match p.srcExtent, p.dstExtent with
    | some (a, b), some (c, d) =>
      if p.sstor = 0 then
        decide (p.padAddr core (b - 1) < p.padAddr core c) || decide (p.padAddr core (d - 1) < p.padAddr core a)
      else decide (b ≤ c) || decide (d ≤ a)
    | _, _ => true

/-- The output of a ring copy stays inside one slot of n bytes. -/
def Copy.fitsSlot (p : Copy) (n : Nat) : Bool :=
  let (r, l) := p.dims
  decide (0 ≤ ((r : Int) - 1) * p.dpitch) && decide (((r : Int) - 1) * p.dpitch + l ≤ n)

/-- The descriptor's checks but those of ring slots (R275). -/
def Copy.descOk (p : Copy) (core : Nat) : Bool :=
  p.unreadOk && p.stagesOk &&
  (p.dk < 2 || p.dims.1 * p.dims.2 % (if p.dk = 2 then 32 else 64) == 0) &&
  (!p.mc || ((p.dk != 0 || (p.dstor == 0 && decide (p.daddr < 2 ^ 23))) && p.mcm != 0 && !p.mcm.testBit (core % 4))) &&
  p.disjoint core

/-! ## Source and stages (R276) -/

/-- A copy's access, by the stream TLB that serves it (R121): one for the fills of PROBE, one for what comes from another module, and
one for the copy engine's other accesses. -/
def Copy.access (p : Copy) (core : Nat) (need : Need) (sealOk : Bool) : Access :=
  { need, kind := 7, who := none, die := core / 32, world := p.world,
    unit := .stream core (if p.fill.isSome then 0 else if p.sstor = 2 ∧ need = .write then 2 else 1),
    own := some (core, p.partw), multicast := p.mcCores core, sealOk }

/-- Only checksum, multicast and publication are enabled (R163). -/
def Copy.plain (p : Copy) : Bool := !p.wg && p.trBytes == 0 && !p.cvt && !p.qmx && !p.isFill
/-- The source, or the destination, may be sealed: its first address and its bytes altogether are multiples of 512, whatever the row
length and the pitch (R163; DESIGN CHOICE, log 13). -/
def Copy.srcSeal (p : Copy) : Bool := p.plain && p.saddr % 512 == 0 && p.rows * p.rowlen % 512 == 0
def Copy.dstSeal (p : Copy) : Bool := p.plain && p.daddr % 512 == 0 && p.dims.1 * p.dims.2 % 512 == 0

/-- n fill bytes from offset `off` of a row (R276, R278). -/
def Copy.fillBytes (p : Copy) (off n : Nat) : List Byte :=
  (List.range n).map fun j => byteOf p.fillv.toNat ((off + j) % 8)

/-- Input bytes and output bytes of the least run that CVT or QMX makes alone: eight elements, or a block; of a row that passes both,
the whole row. -/
def Copy.unit (p : Copy) : Nat × Nat :=
  if p.qmx && p.trBytes == 0 then
    if p.cvt then (p.rowlen, p.dims.2) else (4 * elemBits p.stype, 4 * matBits p.qfmt)
  else if p.cvt then (elemBits p.stype, elemBits p.dtype) else (1, 1)

/-- Bytes [a, b) of a row before TR come from these whole units of its input. -/
def Copy.inputRange (p : Copy) (a b : Nat) : Nat × Nat :=
  let (ui, uo) := p.unit
  (a / uo * ui, min p.rowlen ((b + uo - 1) / uo * ui))

/-- The part of a row's pieces between two offsets. -/
def sliceParts (lo hi : Nat) (l : List (Option W64 × Nat × Nat)) : List (Option W64 × Nat × Nat) :=
  l.filterMap fun (a, off, n) =>
    let x := max off lo
    let y := min (off + n) hi
    if x < y then some (a.map (· + w64 (x - off)), x, y - x) else none

/-- The rows before TR that output bytes [lo, hi) need, each with its range. -/
def Copy.needs (p : Copy) (lo hi : Nat) : List (Nat × Nat × Nat) :=
  let n := p.dims.2
  let r0 := lo / n
  let r1 := (hi - 1) / n
  if p.trBytes ≠ 0 then (List.range p.rows).map fun r => (r, r0 * p.trBytes, (r1 + 1) * p.trBytes)
  else (List.range (r1 + 1 - r0)).map fun i =>
    let r := r0 + i
    (r, lo - r * n, min n (hi - r * n))

/-- The source pieces that output bytes [lo, hi) are made from: row, and its pieces. -/
def Copy.sources (p : Copy) (lo hi : Nat) : List (Nat × List (Option W64 × Nat × Nat)) :=
  (p.needs lo hi).map fun (r, a, b) =>
    let (x, y) := p.inputRange a b
    (r, sliceParts x y (p.rowParts r))

/-- The response to a request of the copy. -/
def Copy.answer (p : Copy) (write : Bool) (pos : Nat × Nat) : Option CopyAsk :=
  p.asks.find? fun q => q.write == write && q.pos == pos

/-- One piece of source row r. -/
def Copy.readPart (p : Copy) (core r : Nat) : Option W64 × Nat × Nat → M (List Byte)
  | (none, off, n) => pure (p.fillBytes off n)
  | (some a, off, n) => do
    let acc := p.access core .read p.srcSeal
    match ← resolve acc p.sstor a n with
    | .remote _ _ _ =>
      match (p.answer false (r, off)).bind CopyAsk.rsp with
      | some (.data l) => pure (fitBytes n l)
      | _ => M.fault Cause.remoteAccess a
    | t => readNow acc n t

/-- The pieces of an input row. -/
def Copy.readRow (p : Copy) (core r : Nat) : List (Option W64 × Nat × Nat) → M (List Byte)
  | [] => pure []
  | x :: l => do
    let b ← p.readPart core r x
    return b ++ (← p.readRow core r l)

/-- CVT of a row (R222); the copy engine ignores FTZ and sets no flag. -/
def Copy.convertRow (p : Copy) (l : List Byte) : List Byte :=
  if p.cvt then
    let n := l.length * 8 / elemBits p.stype
    packElems (elemBits p.dtype) ((unpackElems (elemBits p.stype) n l).map fun x =>
      (convert (vtypeOf p.stype) (vtypeOf p.dtype) false p.sat (Rm.ofCode p.rm) 0 x).1)
  else l

/-- TR: output row c holds element c of every input row. -/
def Copy.transpose (p : Copy) (rows : List (List Byte)) : List (List Byte) :=
  if p.trBytes = 0 then rows
  else (List.range (p.lenCvt / p.trBytes)).map fun c => rows.flatMap fun l => (l.drop (c * p.trBytes)).take p.trBytes

/-- QMX of one run of 32 elements: the scale and the elements (R224). -/
def quantBlock (g : MxFmt) (xs : List Num) : Nat × List (Nat × Flags) :=
  let x := mxScale g xs
  (x, xs.map (mxElement g x))

/-- Lists of 32. -/
def blocks32 : Nat → List Num → List (List Num)
  | 0, _ => []
  | k + 1, l => l.take 32 :: blocks32 k (l.drop 32)

/-- QMX of a row: its scales and its packed elements. -/
def Copy.quantRow (p : Copy) (l : List Byte) : List Byte × List Byte :=
  let n := l.length * 8 / elemBits p.stype
  let vals := (unpackElems (elemBits p.stype) n l).map (VType.value (vtypeOf p.stype) false)
  let qs := (blocks32 (n / 32) vals).map (quantBlock (mxFmtOf p.qfmt))
  (qs.map fun q => BitVec.ofNat 8 q.1, packElems (matBits p.qfmt) (qs.flatMap fun q => q.2.map Prod.fst))

/-- Output bytes, by first and last position, with the scale bytes that go with them, by number. -/
structure Span where
  (lo hi b0 b1 : Nat)
  deriving DecidableEq, Repr

/-- The bytes of a block as QMX packs it. -/
def Copy.blockBytes (p : Copy) : Nat := 4 * matBits p.qfmt

/-- The first scale that is written with chunk k: no aligned 16 bytes of the scale area are parted (R283; DEDUCED, log 13). -/
def Copy.scaleCut (p : Copy) (k : Nat) : Nat :=
  if p.scaleCount = 0 then 0
  else if p.lastChunk ≤ k then p.scaleCount
  else
    let b := (p.cut k + p.blockBytes - 1) / p.blockBytes
    b - (p.scla.toNat + b) % 16

/-- What chunk k writes. -/
def Copy.chunk (p : Copy) (k : Nat) : Span := { lo := p.cut k, hi := p.cut (k + 1), b0 := p.scaleCut k, b1 := p.scaleCut (k + 1) }

/-- Where the output begins that a span is made from. -/
def Copy.spanFrom (p : Copy) (x : Span) : Nat := if x.b0 < x.b1 then min x.lo (x.b0 * p.blockBytes) else x.lo

/-- The source pieces of a span: row, and its pieces. -/
def Copy.spanSources (p : Copy) (x : Span) : List (Nat × List (Option W64 × Nat × Nat)) := p.sources (p.spanFrom x) x.hi

/-- The output bytes and the scales of a span (R276). -/
def Copy.emit (p : Copy) (core : Nat) (x : Span) : M (List Byte × List Byte) := do
  let n := p.dims.2
  let uq := p.blockBytes
  let from_ := p.spanFrom x
  let rows ← (p.needs from_ x.hi).mapM fun (r, a, b) => do
    let (lo, hi) := p.inputRange a b
    let l := p.convertRow (← p.readRow core r (sliceParts lo hi (p.rowParts r)))
    -- where the converted bytes begin in the row that TR or QMX takes
    return (r, lo / p.unit.1 * p.unit.2, l)
  -- runs of the output: where each begins, its scales and its bytes
  let runs : List (Nat × List Byte × List Byte) :=
    if p.trBytes ≠ 0 then
      let c0 := from_ / n
      (List.range ((x.hi - 1) / n + 1 - c0)).map fun i =>
        let l := rows.flatMap fun (_, o, l) => (l.drop ((c0 + i) * p.trBytes - o)).take p.trBytes
        let (sc, q) := if p.qmx then p.quantRow l else ([], l)
        ((c0 + i) * n, sc, q)
    else rows.map fun (r, o, l) =>
      let (sc, q) := if p.qmx then p.quantRow l else ([], l)
      (r * n + o, sc, q)
  let bytes := runs.flatMap fun (o, _, q) => (q.take (x.hi - o)).drop (x.lo - o)
  let scales := if !p.qmx then [] else
    runs.flatMap fun (o, sc, _) =>
      (sc.zipIdx.filter fun (_, i) => decide (x.b0 * uq ≤ o + i * uq) && decide (o + i * uq < x.b1 * uq)).map Prod.fst
  return (bytes, scales)

/-! ## Writing (R276, R281) -/

/-- Output bytes from position lo on, cut at the rows: row, offset in the row and bytes. -/
def cutRows (n : Nat) : Nat → Nat → List Byte → List (Nat × Nat × List Byte)
  | 0, _, _ => []
  | fuel + 1, lo, l =>
    if l.isEmpty then []
    else
      let k := n - lo % n
      (lo / n, lo % n, l.take k) :: cutRows n fuel (lo + k) (l.drop k)

/-- The writes of output bytes from lo on and of their scales, which the row after the last stands for (R276). -/
def Copy.writes (p : Copy) (lo : Nat) (bytes : List Byte) (b0 : Nat) (scales : List Byte) : List (Nat × Nat × List Byte) :=
  cutRows p.dims.2 (bytes.length + 1) lo bytes ++ (if scales.isEmpty then [] else [(p.dims.1, b0, scales)])

/-- Where a copy writes: an address under DSTOR, or a byte of a core's pool. -/
inductive CopyDest where
  | addr
  | pool (core base : Nat)
  deriving DecidableEq, Repr

/-- The address of an offset of a row, or of a scale. -/
def Copy.writeAddr (p : Copy) (r off : Nat) : W64 := (if r = p.dims.1 then p.scla else p.rowAddr r) + w64 off

/-- One write: bytes at offset `off` of row r. The result is the number of bytes that live barrier words kept as they were (R282). -/
def Copy.writePiece (p : Copy) (core : Nat) (d : CopyDest) (r off : Nat) (l : List Byte) : M Nat := do
  let acc := p.access core .write p.dstSeal
  match d with
  | .pool c base =>
    writeNow acc true l (.pool c ((base : Int) + r * p.dpitch + off).toNat 0)
    return 0
  | .addr =>
    let a := p.writeAddr r off
    let t ← resolve acc p.dstor a l.length
    match t with
    | .remote _ _ _ =>
      match (p.answer true (r, off)).bind CopyAsk.rsp with
      | some (.data _) => return 0
      | _ => M.fault Cause.remoteAccess a
    | .mem _ segs =>
      let kept ← M.get fun s => (segs.map (Seg.barrierBytes s)).sum
      writeNow acc true l t
      return kept
    | t =>
      writeNow acc true l t
      return 0

/-- Writes at every destination in turn; scales go to their area alone. -/
def Copy.writePieces (p : Copy) (core : Nat) (ds : List CopyDest) : List (Nat × Nat × List Byte) → M Nat
  | [] => pure 0
  | (r, off, l) :: t => do
    let h ← go r off l (if r = p.dims.1 then [.addr] else ds)
    return h + (← p.writePieces core ds t)
where
  go (r off : Nat) (l : List Byte) : List CopyDest → M Nat
    | [] => pure 0
    | d :: t => do
      let h ← p.writePiece core d r off l
      return h + (← go r off l t)

/-! ## Walking ahead (R122) -/

/-- The walk ahead for runs that a chunk accesses one after another, the first of them after `prev`; `rest` are the runs of later
chunks. -/
def copyAhead (acc : Access) (stor : Nat) (down : Bool) (rest : Unit → List (Nat × Nat)) : Option (Nat × Nat) → List (Nat × Nat) → M Unit
  | _, [] => pure ()
  | prev, x :: l => do
    walkAhead acc stor down prev x fun u => l ++ rest u
    copyAhead acc stor down rest (some x) l

/-- The source runs of a list of pieces. -/
def partRuns (l : List (Option W64 × Nat × Nat)) : List (Nat × Nat) := l.filterMap fun (a, _, n) => a.map fun a => (a.toNat, n)
/-- The source runs of a span. -/
def Copy.readRuns (p : Copy) (x : Span) : List (Nat × Nat) := (p.spanSources x).flatMap fun (_, l) => partRuns l
/-- The source runs after a span. -/
def Copy.readRest (p : Copy) (x : Span) : List (Nat × Nat) :=
  if p.total ≤ x.hi then [] else if p.trBytes ≠ 0 then (p.sources x.hi p.total).flatMap fun (_, l) => partRuns l
  else
    let r := x.hi / p.dims.2
    ((p.sources x.hi (min p.total ((r + 1) * p.dims.2))).flatMap fun (_, l) => partRuns l) ++
      (List.range (p.rows - (r + 1))).flatMap fun i => partRuns (p.rowParts (r + 1 + i))

/-- The destination runs of output bytes [lo, hi) for an address. -/
def Copy.writeRuns (p : Copy) (lo hi : Nat) : List (Nat × Nat) :=
  if hi ≤ lo then []
  else (List.range ((hi - 1) / p.dims.2 + 1 - lo / p.dims.2)).map fun i =>
    let r := lo / p.dims.2 + i
    ((p.rowAddr r).toNat + (lo - r * p.dims.2), min p.dims.2 (hi - r * p.dims.2) - (lo - r * p.dims.2))

/-- The last run of the span before one, if any. -/
def Span.before (x : Span) : Option Span :=
  if x.lo = 0 then none else some { lo := x.lo - 1, hi := x.lo, b0 := 0, b1 := 0 }

/-- The source pages that a span is the first to meet: the stream TLB walks the ones that come after (R122). -/
def Copy.aheadRead (p : Copy) (core : Nat) (x : Span) : M Unit :=
  copyAhead (p.access core .read p.srcSeal) p.sstor (!p.wg && decide (p.spitch < 0) && decide (p.rowlen ≤ 65536)) (fun _ => p.readRest x)
    (x.before.bind fun y => (p.readRuns y).getLast?) (p.readRuns x)

/-- The destination pages likewise. -/
def Copy.aheadWrite (p : Copy) (core : Nat) (x : Span) : M Unit :=
  if p.dk ≠ 0 then pure ()
  else copyAhead (p.access core .write p.dstSeal) p.dstor (decide (p.dpitch < 0) && decide (p.dims.2 ≤ 65536)) (fun _ => p.writeRuns x.hi p.total)
    (x.before.bind fun y => (p.writeRuns y.lo y.hi).getLast?) (p.writeRuns x.lo x.hi)

/-! ## Completion (R280 to R284, R269) -/

/-- The context of the task that issued a copy, in either bank of its core. -/
def Core.task (k : Core) (disp : Nat) : Option Ctx :=
  match k.bank0, k.bank1 with
  | some x, _ => if x.disp = disp then some x else match k.bank1 with | some y => if y.disp = disp then some y else none | none => none
  | none, some y => if y.disp = disp then some y else none
  | none, none => none

/-- That context changed. -/
def Core.modTask (k : Core) (disp : Nat) (f : Ctx → Ctx) : Core :=
  let g (o : Option Ctx) : Option Ctx := o.map fun x => if x.disp = disp then f x else x
  { k with bank0 := g k.bank0, bank1 := g k.bank1 }

/-- A report about a copy (R282, R284): world 0 and the copy's world; payload C is the faulting address of a fault, D
the status word. -/
def State.copyReport (s : State) (core : Nat) (p : Copy) (cause : Nat) (c status : W64) : State :=
  let rec_ := match p.task.bind (s.core core).task with
    | some x => w64 x.recva
    | none => 0
  let payload := [rec_, reportB cause (some (.core core)) 4 false, c, status]
  let s := s.postOrHold 0x04 0 0 core payload none
  if p.world = 0 then s else s.postOrHold 0x04 p.world 0 0 payload none

/-- The cause of a report by status (R282). -/
def reportCause (status : W64) : Nat :=
  match statusSt status with
  | 2 => Cause.badCopy
  | 3 => Cause.tagState
  | 4 => Cause.barrierWord
  | _ => bits status 24 8

/-- Some copy of the dispatch is outstanding on a tag, or fills a table that signals it (R269, R274). -/
def Core.tagBusy (k : Core) (x : Ctx) (tag : Nat) : Bool :=
  (k.taskCopies x.disp).any fun c =>
    c.tag == some tag || (match c.fill with | some (t, _) => ttdFtag (x.ttd.get 0 t) == tag | none => false)

/-- A slot becomes filled for the task that held its ring, in a bank or in the image it is saved in (R184, R279). -/
def State.fillSlot (s : State) (t : SlotRef) : State :=
  let s := s.setCore t.core ((s.core t.core).modTask t.disp fun x =>
    { x with filled := x.filled.set false (slotKey t.ring t.slot) true })
  match s.saved.find? fun v => v.core == t.core && (match v.ctx with
      | some x => x.disp == t.disp
      | none => v.plc != 0 && ((s.core t.core).task t.disp).any fun x => x.phase == .halted && x.world == v.world) with
  | some v =>
    let a := v.pa + 0x6C0 + 32 * t.ring + t.slot / 8
    (s.touched a 1).putPhys a [s.readByte a none ||| BitVec.ofNat 8 (2 ^ (t.slot % 8))]
  | none => s

/-- The ring slots of a copy become filled. -/
def State.fillSlots (s : State) (slots : List SlotRef) : State := slots.foldl State.fillSlot s

/-- The issuing task learns of a completion (R269, R280). A fill that completes OK leaves a status other than OK as it is (DEDUCED,
log 13). -/
def Ctx.copyDone (x : Ctx) (k : Core) (p : Copy) (status : W64) : Ctx :=
  let setCtb (x : Ctx) (tag : Nat) : Ctx :=
    if k.tagBusy x tag then x else { x with ctb := x.ctb ||| w64 (2 ^ tag) }
  match p.tag, p.fill with
  | some t, _ => setCtb { x with ctStatus := x.ctStatus.set 0 t status } t
  | none, some (t, slot) =>
    let d := x.ttd.get 0 t
    let ft := ttdFtag d
    let slots := setSlots d (slot / ttdWays d)
    let x :=
      if statusSt status = 0 then
        let e := x.tagSlot t slot
        let x := x.setTagSlot t slot { e with pending := false }
        if statusSt (x.ctStatus.get 0 ft) ≠ 0 then x else { x with ctStatus := x.ctStatus.set 0 ft 0 }
      else { x.dropSlot t slots slot with ctStatus := x.ctStatus.set 0 ft status }
    setCtb x ft
  | none, none => x

/-- Saturating 64-bit addition. -/
def satAdd (a b : Nat) : Nat := if 2 ^ 64 ≤ a + b then 2 ^ 64 - 1 else a + b

/-- Bytes written by a copy, counted under its buffer number (R150). -/
def State.countBytes (s : State) (p : Copy) (n : Nat) : State :=
  match p.buf with
  | none => s
  | some b =>
    let w := s.world p.world
    s.setWorld p.world { w with bufBytes := w.bufBytes.set 0 b (satAdd (w.bufBytes.get 0 b) n) }

/-- The clk in which a copy that has ended had a request ready and could not issue it (R150; log 37). -/
def State.countStall (s : State) (p : Copy) : State :=
  match p.buf with
  | none => s
  | some b =>
    let w := s.world p.world
    s.setWorld p.world { w with bufStall := w.bufStall.set 0 b (satAdd (w.bufStall.get 0 b) (Config.stallClk p.id)) }

/-- A copy leaves the copy engine with a status. -/
def State.endCopy (s : State) (core : Nat) (p : Copy) (status : W64) (c : W64 := 0) : State :=
  let k := s.core core
  let s := s.setCore core { k with copies := k.copies.filter fun c => c.id != p.id }
  let s := if p.early.isSome || !p.descOk core then s else s.countStall p
  let s := match p.task with
    | some d =>
      let k := s.core core
      s.setCore core (k.modTask d fun x => x.copyDone k p status)
    | none => s
  let st := statusSt status
  if st = 3 ∨ st = 4 ∨ (p.trigger.isSome ∧ st ≠ 0) then s.copyReport core p (reportCause status) c status else s

/-- A status word with the checksum and PADROWS (R280). -/
def Copy.status (p : Copy) (st cause : Nat) : W64 :=
  statusWord st cause ||| w64 (if 2 ^ 20 ≤ p.padrows then 2 ^ 20 - 1 else p.padrows) |||
    (if p.ck then w64 ((~~~ p.crc).toNat * 2 ^ 32) else 0)

/-- A copy stops on a fault (R281). -/
def State.failCopy (s : State) (core : Nat) (p : Copy) (f : FaultInfo) : State :=
  (s.logFault f).endCopy core p (p.status 1 f.cause) f.c

/-! ## Requests to other modules (R112) -/

/-- An operand of the domain-remote form that names another module, with the domain in use. -/
def State.asksModule (s : State) (w : Nat) (a : W64) : Option (Nat × Nat × Nat) :=
  let domw := (s.world w).domw
  if domw.getLsbD 24 && bits a 54 10 != moduleNo then some (bits a 54 10, bits domw 0 24, bits a 0 54) else none

/-- A request still to make. -/
def State.unasked (s : State) (p : Copy) (l : List (Bool × (Nat × Nat) × W64 × RmaKind)) : Bool :=
  l.any fun (w, pos, a, _) => (s.asksModule p.world a).isSome && (p.answer w pos).isNone

/-- The requests still to make, and the copy with those made that get their nonces (R171). -/
def State.makeAsks (s : State) (p : Copy) (l : List (Bool × (Nat × Nat) × W64 × RmaKind)) : State × Copy :=
  l.foldl (fun (s, p) (w, pos, a, kind) =>
    match s.asksModule p.world a, p.answer w pos with
    | some (m, job, va), none =>
      match s.linkNonces p.world (match kind with | .write l => packets l.length | _ => 1) with
      | (false, _) => (s.exhausted p.world, p)
      | (true, s) =>
        let id := s.nextId
        ({ s with nextId := id + 1, outbox := s.outbox ++ [.remote id m job va kind] },
          { p with asks := p.asks ++ [{ id, write := w, pos, rsp := none }] })
    | _, _ => (s, p)) (s, p)

/-- A copy replaced in its engine. -/
def State.putCopy (s : State) (core : Nat) (p : Copy) : State :=
  let k := s.core core
  s.setCore core { k with copies := k.copies.map fun c => if c.id = p.id then p else c }

/-- Every request made of a kind has been answered. -/
def Copy.answered (p : Copy) (write : Bool) : Bool := p.asks.all fun q => q.write != write || q.rsp.isSome

/-- The source reads of a span from a remote source. -/
def Copy.readAsks (p : Copy) (x : Span) : List (Bool × (Nat × Nat) × W64 × RmaKind) :=
  if p.sstor ≠ 2 then []
  else (p.spanSources x).flatMap fun (r, l) => l.filterMap fun (a, off, n) => a.map fun a => (false, (r, off), a, .read n)

/-- The destination writes to a remote destination. -/
def Copy.writeAsks (p : Copy) (l : List (Nat × Nat × List Byte)) : List (Bool × (Nat × Nat) × W64 × RmaKind) :=
  if p.dstor ≠ 2 then []
  else (l.filter fun (r, _, _) => p.dk == 0 || r == p.dims.1).map fun (r, off, b) =>
    (true, (r, off), p.writeAddr r off, .write b)

/-- The rows past the batch among those that output bytes below hi have taken. -/
def Copy.padrowsTo (p : Copy) (hi : Nat) : Nat :=
  p.padrowsOf (if p.trBytes ≠ 0 then p.rows else (hi + p.dims.2 - 1) / p.dims.2)

/-- How far an attempt at output bytes came. -/
inductive Wrote where
  /-- requests to other modules have been made, or are still to be answered -/
  | waits (s : State)
  | fault (f : FaultInfo) (s : State)
  | done (p : Copy) (bytes : List Byte) (s : State)

/-- A span read, staged and written to `ds`; for a queue only staged. -/
def State.writeRange (s : State) (core : Nat) (p : Copy) (ds : List CopyDest) (x : Span) : Wrote :=
  let ask (l : List (Bool × (Nat × Nat) × W64 × RmaKind)) : Wrote := let (s, p) := s.makeAsks p l; .waits (s.putCopy core p)
  if s.unasked p (p.readAsks x) then ask (p.readAsks x)
  else if !p.answered false then .waits s
  else
    match M.try (do
        let r ← p.emit core x
        p.aheadRead core x
        return r) s with
    | .error f => .fault f s
    | .ok ((bytes, scales), s2) =>
      let l := p.writes x.lo bytes x.b0 scales
      if s.unasked p (p.writeAsks l) then ask (p.writeAsks l)
      else if !p.answered true then .waits s
      else
        match M.try (do
            let kept ← p.writePieces core ds l
            p.aheadWrite core x
            return kept) s2 with
        | .error f => .fault f s
        | .ok (kept, s4) =>
          let p := { p with asks := [], barrier := p.barrier || decide (0 < kept), crc := crcBytes p.crc bytes, padrows := p.padrowsTo x.hi }
          .done p bytes (s4.countBytes p (bytes.length * ds.length + scales.length - kept))

/-! ## The SRAM bytes of a copy (R397) -/

/-- A run of scratchpad bytes named by its alias: core, first byte of its pool, length. -/
def padRun (a n : Nat) : Nat × Nat × Nat := (a % 2 ^ 48 / 2 ^ 23, a % 2 ^ 23, n)

/-- The runs of SRAM bytes that a copy reads or writes. -/
def Copy.poolRuns (p : Copy) (core : Nat) : List (Nat × Nat × Nat) :=
  let src := if p.sstor ≠ 0 then [] else
    (List.range p.rows).flatMap fun r => (p.rowParts r).filterMap fun (a, _, n) => a.map fun a => (p.padAddr core a.toNat, n)
  let out := if p.dk = 1 ∨ p.dstor = 0 then p.outRuns core p.slots else []
  ((src ++ out).filter fun (a, _) => decide (0xFF000000000000 ≤ a) && decide (a < 0xFF000040000000)).map fun (a, n) => padRun a n

/-- Some of its bytes lie in a bank. -/
def Copy.touches (p : Copy) (core c bank : Nat) : Bool :=
  p.early.isNone && (p.poolRuns core).any fun (c', lo, n) =>
    c' == c && n != 0 && decide (lo / 2 ^ 17 ≤ bank) && decide (bank ≤ (lo + n - 1) / 2 ^ 17)

/-- Every bank it touches is resident under its world. -/
def State.copyResident (s : State) (core : Nat) (p : Copy) : Bool :=
  (p.poolRuns core).all fun (c, lo, n) => n == 0 || (s.core c).rangeOwned lo n p.world

/-- The writes of its chunk are on their way to another module, or have arrived there. -/
def Copy.writing (p : Copy) : Bool := p.asks.any CopyAsk.write

/-! ## Rings and queues (R184, R279) -/

/-- The active task of a core that a ring copy's slot goes to: on the issuing core the task that issued it. -/
def State.ringTask (s : State) (core : Nat) (p : Copy) (c : Nat) : Option Ctx :=
  match (s.core c).ctx with
  | some x => if x.phase = .running ∧ (c ≠ core ∨ p.task = some x.disp) then some x else none
  | none => none

/-- A slot of a task's ring: its core and its first pool byte. -/
def Ctx.slotRef (x : Ctx) (c ring slot : Nat) : SlotRef :=
  let r := x.rgd.get 0 ring
  { core := c, disp := x.disp, ring, slot, base := bits x.partw 25 7 * 65536 + rgdBase r + slot * rgdSlotBytes r }

/-- The bytes of a ring's slots on another core carry the world's owner tag (R111, R279). -/
def State.ringBanksOk (s : State) (w c : Nat) (x : Ctx) (ring : Nat) : Bool :=
  let r := x.rgd.get 0 ring
  let base := bits x.partw 25 7 * 65536 + rgdBase r
  let last := base + rgdSlots r * rgdSlotBytes r - 1
  s.holdsCore w c && (List.range (last / 2 ^ 17 - base / 2 ^ 17 + 1)).all fun i =>
    (s.core c).bankOwned (base / 2 ^ 17 + i) w

/-- What stands against a ring copy's slots: the status it ends with, if any. Output beyond a slot is the descriptor's own fault
(R275); the rings come after it (R184, R279). -/
def State.ringRefusal (s : State) (core : Nat) (p : Copy) : Option W64 :=
  let cs := core :: p.mcCores core
  let fails (on : Nat → Ctx → W64 → Bool) (absent : Bool) (cs : List Nat) : Bool := cs.any fun c =>
    match s.ringTask core p c with
    | some x => on c x (x.rgd.get 0 p.ring)
    | none => absent
  if fails (fun _ _ r => rgdEn r && !p.fitsSlot (rgdSlotBytes r)) false cs then some (statusWord 2 0)
  else if fails (fun _ x r => !rgdEn r || !rgdOk r x.partw) true cs then some (statusWord 1 Cause.ringRange)
  else if fails (fun c x _ => !s.ringBanksOk p.world c x p.ring) true (p.mcCores core) then some (statusWord 1 Cause.spRange)
  else none

/-- Two copies of a core allocate in one ring: of their task, or of another core's active task. -/
def Copy.sharesRing (p q : Copy) (core : Nat) : Bool :=
  p.ring == q.ring && (p.task == q.task || (p.mcCores core).any (q.mcCores core).contains)

/-- The copies of a core that have yet to allocate a slot, and stand before this one in the engine's order. -/
def Core.ringQueue (k : Core) (p : Copy) : List Copy :=
  (k.copies.takeWhile fun c => c.id != p.id).filter fun c => c.dk == 1 && !c.allocated && c.early.isNone

/-- The copy engine works on a copy: its task runs or has ended (R283), and a copy that a claim has stopped finds its banks resident
again (R397); a chunk whose writes are on their way to another module is completed before the stop (R383). Nothing of a core works before
its sealed frame starts (R101). -/
def State.copyRuns (s : State) (core : Nat) (p : Copy) : Bool :=
  let k := s.core core
  k.startAt.isNone && (p.writing || (match p.task.bind k.task with | some x => x.phase == .running | none => true)) &&
    (!p.paused || s.copyResident core p)

/-- No earlier copy of the core that the engine works on still waits to allocate in a ring that this one needs (R184, R279). -/
def State.ringTurn (s : State) (core : Nat) (p : Copy) : Bool :=
  !((s.core core).ringQueue p).any fun c => c.sharesRing p core && s.copyRuns core c

/-- The slots of a ring copy: those it has, or those that it comes to have where no ring is written before (R184, R279). -/
def State.slotsOf (s : State) (core : Nat) (p : Copy) : List SlotRef :=
  if p.allocated then p.slots
  else (core :: p.mcCores core).filterMap fun c => (s.ringTask core p c).map fun x =>
    let r := x.rgd.get 0 p.ring
    let n := ((s.core core).ringQueue p).countP fun q =>
      q.ring == p.ring && s.copyRuns core q && (if c = core then q.task == p.task else (q.mcCores core).contains c)
    x.slotRef c p.ring ((rgdTail r + n) % rgdSlots r)

/-! ## Publication (R84) -/

/-- The copies of a dispatch that a publication of a normal-form handle may cover: those outstanding that write into its tile, and
those that have yet to allocate a slot. -/
def State.coveredBy (s : State) (core disp : Nat) (h : W64) (world : Nat) : List Nat :=
  if handleFallback h then []
  else match s.liveTag h world with
    | some i =>
      let t := s.tag i
      (((s.core core).taskCopies disp).filter fun c =>
        (c.dk == 1 && !c.allocated) || c.writesInto core (s.slotsOf core c) t.base t.len).map Copy.id
    | none => []

/-- Of these copies, some are still with the core's copy engine and write into the tile. -/
def State.coverPending (s : State) (core : Nat) (ids : List Nat) (h : W64) (world : Nat) : Bool :=
  match if handleFallback h then none else s.liveTag h world with
  | some i =>
    let t := s.tag i
    (s.core core).copies.any fun c => ids.contains c.id && c.writesInto core (s.slotsOf core c) t.base t.len
  | none => false

/-- A copy that has written its output ends: it publishes when the copies its publication covers are complete (R84, R86); `none`
while it waits for them. -/
def State.finishCopy (s : State) (core : Nat) (p : Copy) : Option State :=
  let ok := if p.barrier then 4 else 0
  if !p.pub then some (s.endCopy core p (p.status ok 0))
  else if s.coverPending core p.covers p.phnd p.world then none
  else
    match s.publishCopy p.phnd p.world core with
    | some s => some (s.endCopy core p (p.status ok 0))
    | none => some (s.endCopy core p (p.status 3 0))

/-- Slot TAIL allocated (R184): it is not filled. -/
def Ctx.allocSlot (x : Ctx) (ring : Nat) : Ctx × Nat :=
  let r := x.rgd.get 0 ring
  let t := rgdTail r
  let t' := (t + 1) % rgdSlots r
  ({ x with rgd := x.rgd.set 0 ring (rgdWith r (rgdHead r) t' (t' == rgdHead r)),
            filled := x.filled.set false (slotKey ring t) false,
            released := x.released.set false (slotKey ring t) false }, t)

/-- Slot TAIL of a core's active task allocated for a copy. -/
def State.takeSlot (s : State) (c ring : Nat) : State × List SlotRef :=
  match (s.core c).ctx with
  | some x =>
    let (x', slot) := x.allocSlot ring
    (s.setCore c ((s.core c).setCtx (some x')), [x.slotRef c ring slot])
  | none => (s, [])

end Sys2Proof.Machine
end

