-- ==== Sys2Proof/Machine/Copies.lean ====
section
/-! DEFINITION. COPY and the copy-tag waits, majors 0x18 and 0x19 (R271 to R274, R285, R286), and the events of the copy
engine (R279, R281). -/

namespace Sys2Proof.Machine

/-! ## COPY -/

/-- The descriptor of a copy under the issuing task's translation, or the status of a copy whose descriptor is not read
(R274). -/
def readCopyDesc (p : Copy) (core : Nat) (va : W64) : M Copy := do
  if va.toNat % 64 ≠ 0 then return { p with early := some (statusWord 1 Cause.misaligned) }
  match ← M.attempt (do
      let acc := p.access core .read true
      let t ← resolve acc 1 va 64
      readNow acc 64 t) with
  | .ok l => return { p with desc := wordsOf 8 l }
  | .error f =>
    M.upd fun s => s.logFault f
    return { p with early := some (statusWord 1 f.cause) }

/-- COPY (R274). -/
def execCopy (f : FmtC) (s : State) : Host.Outcome State Fault Refusal :=
  word .aOnly (do
    let x ← curCtx
    let c := (← curAgent).core
    let t := f.tag.toNat
    let k ← M.get fun s => s.core c
    M.await (!k.tagBusy x t) .copyTag
    releaseStores
    modCtx fun x =>
      { x with ctb := x.ctb &&& ~~~ (w64 (2 ^ t)), ctStatus := x.ctStatus.set 0 t 0 }
    let id ← M.get State.nextId
    let p : Copy :=
      { Copy.fresh id x.world [] with
        task := some x.disp, tag := some t, uw := f.uw, sc := f.sc.toNat, buf := some f.buf.toNat, partw := x.partw }
    let p ← readCopyDesc p c (← sreg f.desc)
    M.upd fun s =>
      s.addCopy c { p with covers := if p.pub then s.coveredBy c x.disp p.phnd x.world else [] }) s

/-! ## Copy-tag waits (R285) -/

/-- The lowest set bit of a mask below n. -/
def lowestBit (m : W64) : Option Nat := (List.range 64).find? fun i => m.getLsbD i

/-- The `.clr` variant: the reported CTB bits go. -/
def clearCtb (f : FmtP) (m : W64) : M Unit :=
  if f.imm.getLsbD 0 then modCtx fun x => { x with ctb := x.ctb &&& ~~~ m } else pure ()

/-- CWAITA and CFIND: the lowest complete tag of the mask and its status word; where there is none, CWAITA waits and
CFIND answers 64. -/
def findTag (waits : Bool) (f : FmtP) (s : State) : Host.Outcome State Fault Refusal :=
  word .aOnly (do
    let m ← sreg f.a
    let x ← curCtx
    match lowestBit (x.ctb &&& m) with
    | some t =>
      writeSreg f.d (w64 t)
      writeSreg f.b (x.ctStatus.get 0 t)
      clearCtb f (w64 (2 ^ t))
    | none =>
      M.await (!waits || m == 0) .copyTag
      writeSreg f.d 64
      writeSreg f.b 0) s

def execCwaita (f : FmtP) (s : State) : Host.Outcome State Fault Refusal := findTag true f s
def execCfind (f : FmtP) (s : State) : Host.Outcome State Fault Refusal := findTag false f s

/-- CWAITL: the number of tags of the mask whose status is not OK, once all are complete. -/
def execCwaitl (f : FmtP) (s : State) : Host.Outcome State Fault Refusal :=
  word .aOnly (do
    let m ← sreg f.a
    let x ← curCtx
    M.await (x.ctb &&& m == m) .copyTag
    writeSreg f.d
      (w64 ((List.range 64).countP fun t => m.getLsbD t && statusSt (x.ctStatus.get 0 t) != 0))
    clearCtb f m) s

/-! ## Events -/

/-- A copy of a core by its number, while its engine works on it. -/
def State.liveCopy (s : State) (core id : Nat) : Option Copy :=
  (s.core core).copies.find? fun c => c.id == id && s.copyRuns core c

/-- COPY_RING_ALLOCATE (R279): a ring copy allocates a slot in every destination ring in one step, or ends where one of
them refuses it. -/
def execCopyRingAllocate (core id : Nat) (s : State) : Host.Outcome State Fault Refusal :=
  match s.liveCopy core id with
  | none => .next s
  | some p =>
    if p.dk ≠ 1 ∨ p.allocated ∨ p.early.isSome ∨ !p.descOk core then .next s
    else
      match s.ringRefusal core p with
      | some st => .next (s.endCopy core p st)
      | none =>
        let cs := core :: p.mcCores core
        if !s.ringTurn core p || cs.any fun c =>
            match s.ringTask core p c with
            | some x => rgdFull (x.rgd.get 0 p.ring)
            | none => true
        then .next s
        else
          let (s, slots) := cs.foldl (fun (s, l) c =>
            let (s, t) := s.takeSlot c p.ring
            (s, l ++ t)) (s, [])
          .next (s.putCopy core { p with slots, allocated := true })

/-- The entry size of the queue a copy pushes into. -/
def Copy.entryBytes (p : Copy) : Nat := if p.dk = 2 then 32 else 64
/-- The queue it pushes into. -/
def Copy.queue (p : Copy) : Nat := if p.dk = 2 then 14 else 15
/-- The entries it pushes. -/
def Copy.entries (p : Copy) : Nat := p.dims.1 * p.dims.2 / p.entryBytes

/-- No earlier copy of the engine still pushes into the same queue (R279). -/
def Core.queueTurn (k : Core) (p : Copy) : Bool :=
  !(k.copies.takeWhile fun c => c.id != p.id).any fun c => c.dk == p.dk && c.task == p.task && c.pushed < c.entries

/-- The entries that a copy may push now: as the queue has room, and from another module one at a time. -/
def State.pushRoom (s : State) (core : Nat) (p : Copy) : Nat :=
  let room := match p.task.bind (s.core core).task with
    | some x => queueDepth p.queue - (x.queue p.queue).rows.length
    | none => p.entries
  min (p.entries - p.pushed) (if p.sstor = 2 then min room 1 else room)

/-- Entries pushed one after another, up to the first that faults or waits. -/
def State.pushEntries (core : Nat) : Nat → Copy → State → State
  | 0, _, s => s
  | n + 1, p, s =>
    let lo := p.pushed * p.entryBytes
    match s.writeRange core p [] { lo, hi := lo + p.entryBytes, b0 := 0, b1 := 0 } with
    | .waits s => s
    | .fault f s => s.failCopy core p f
    | .done p l s =>
      let p := { p with pushed := p.pushed + 1 }
      let s := s.putCopy core p
      let s := match p.task.filter fun d => ((s.core core).task d).isSome with
        | some d =>
          (s.setCore core ((s.core core).modTask d fun x => x.setQueue p.queue ((x.queue p.queue).push l))).countBytes p l.length
        | none => s
      State.pushEntries core n p s

/-- COPY_QUEUE_PUSH (R279): entries pushed while the queue has room; those of a task that has left go nowhere. A
source fault ends the copy after the entries before it. -/
def execCopyQueuePush (core id : Nat) (s : State) : Host.Outcome State Fault Refusal :=
  match s.liveCopy core id with
  | none => .next s
  | some p =>
    if p.dk < 2 ∨ p.early.isSome ∨ !p.descOk core ∨ p.entries ≤ p.pushed ∨ !(s.core core).queueTurn p then .next s
    else .next (State.pushEntries core (s.pushRoom core p) p s)

/-- The own-window destination of a multicast as bytes of another core's pool: one resolved alias access for each output
row (R111, R279). -/
def State.aliasOk (s : State) (core : Nat) (p : Copy) : Bool :=
  (p.mcCores core).all fun c => (List.range p.dims.1).all fun r =>
    let x : Int := (bits p.partw 25 7 * 65536 + p.daddr : Nat) + r * p.dpitch
    decide (0 ≤ x) &&
      (match resolvePool s (p.access core .write true) (w64 (0xFF000000000000 + c * 2 ^ 23 + x.toNat)) p.dims.2 with
        | .ok _ => decide (x < (2 ^ 23 : Nat))
        | .error _ => false)

/-- Where a copy writes. -/
def Copy.dests (p : Copy) (core : Nat) : List CopyDest :=
  if p.dk = 0 then .addr :: (p.mcCores core).map fun c => .pool c (bits p.partw 25 7 * 65536 + p.daddr)
  else p.slots.map fun t => .pool t.core t.base

/-- The next chunk of a copy to an address or to its slots, and its end after the last. -/
def State.copyChunk (s : State) (core : Nat) (p : Copy) : State :=
  if p.lastChunk ≤ p.chunks then (s.finishCopy core p).getD s
  else
    match s.writeRange core p (p.dests core) (p.chunk p.chunks) with
    | .waits s => s
    | .fault f s => s.failCopy core p f
    | .done p _ s =>
      let p := { p with chunks := p.chunks + 1 }
      let s := s.putCopy core p
      if p.lastChunk ≤ p.chunks then
        let s := s.fillSlots p.slots
        (s.finishCopy core p).getD s
      else s

/-- COPY_COMPLETE (R281): a copy that is ready to writes its next chunk; after the last it gives its status and leaves the engine. A
copy that publishes waits at its end for the copies its publication covers (R84). -/
def execCopyComplete (core id : Nat) (s : State) : Host.Outcome State Fault Refusal :=
  match s.liveCopy core id with
  | none => .next s
  | some p =>
    match p.early with
    | some st => .next (s.endCopy core p st)
    | none =>
      if !p.descOk core then .next (s.endCopy core p (statusWord 2 0))
      else if 2 ≤ p.dk then
        if p.pushed < p.entries then .next s else .next ((s.finishCopy core p).getD s)
      else if p.dk = 1 ∧ !p.allocated then .next s
      else if p.dk = 0 ∧ p.chunks < p.lastChunk ∧ !s.aliasOk core p then .next (s.endCopy core p (p.status 1 Cause.spRange))
      else .next (s.copyChunk core p)

end Sys2Proof.Machine
end

