-- ==== Sys2Proof/Machine/Events.lean ====
section
/-! DEFINITION. Events, ordering locks and timers of NP threads: major 0x3C (R355 to R358), with R68 to R78 and the events
TIMER_EXPIRY, LANTERN_POST, NOTIFY_WRITE and TRIGGER_EVENT. -/

namespace Sys2Proof.Machine

/-- The thread of the stream. -/
def curThread : M Nat := do
  match ← curAgent with
  | .np t => return t
  | _ => return 0

/-! ## Events (R72, R356, R357) -/

/-- The first element that a test names, replaced or removed. -/
def replaceFirst {α : Type} (p : α → Bool) (f : α → Option α) : List α → List α
  | [] => []
  | x :: l =>
    if p x then
      match f x with
      | some y => y :: l
      | none => l
    else x :: replaceFirst p f l

/-- The lowest class of a mask with a POSTED event of the world. -/
def State.postedClass (s : State) (w : Nat) (mask : BitVec 8) : Option Nat :=
  (List.range 8).find? fun c => mask.getLsbD c &&
    s.events.any fun e => e.st == .posted && e.world == w && e.cls == c

/-- Events that a thread holds. -/
def Event.heldBy (e : Event) (t : Nat) : Bool := e.st != .posted && e.holder == some t
def State.heldCount (s : State) (t : Nat) : Nat := s.events.countP fun e => e.heldBy t

/-- Eight words to s[d] to s[d + 7]. -/
def writeEight (d : Nat) (l : List W64) : M Unit :=
  modStream fun st => (List.range 8).foldl (fun st i => st.setReg (d + i) (wd l i)) st

/-- EVWAIT and EVWAIT.nb (R356). -/
def execEvwait (f : FmtP) (s : State) : Host.Outcome State Fault Refusal :=
  word .npOnly (do
    let t ← curThread
    let w ← curWorld
    let s ← get
    M.check (s.heldCount t < 16) Cause.eventState
    match s.postedClass w (f.imm.extractLsb' 0 8) with
    | some c =>
      let p (e : Event) : Bool := e.st == .posted && e.world == w && e.cls == c
      match s.events.find? p with
      | some e =>
        M.upd fun s => { s with
          events := replaceFirst p (fun e => some { e with st := .taken, holder := some t }) s.events }
        writeEight f.d.toNat e.words
      | none => pure ()
    | none =>
      M.await (f.imm.getLsbD 8) .event
      writeEight f.d.toNat []) s

/-- The event that a word 0 names, among those the thread holds (R357). -/
def Event.named (t : Nat) (v : W64) (e : Event) : Bool := e.heldBy t && wd e.words 0 == v
def heldEvent (t : Nat) (v : W64) : M Event := do
  match (← get).events.find? (Event.named t v) with
  | some e => return e
  | none => M.fault Cause.eventState

/-- Its state set; none removes it. -/
def State.setEvent (s : State) (t : Nat) (v : W64) (st : Option EvState) : State :=
  { s with events := replaceFirst (Event.named t v) (fun e => st.map fun x => { e with st := x }) s.events }

/-- Every earlier event of its queue is RELEASED or DONE (R72). -/
def State.grantable (s : State) (e : Event) : Bool :=
  !s.events.any fun x => x.world == e.world && x.oqn == e.oqn && decide (x.oseq < e.oseq) && x.st != .released

/-- EVDONE (R72, R357): the quota place freed lets held events be posted (R71). -/
def execEvdone (f : FmtP) (s : State) : Host.Outcome State Fault Refusal :=
  word .npOnly (do
    let t ← curThread
    let v ← sreg f.a
    let _ ← heldEvent t v
    releaseStores
    M.upd fun s => (s.setEvent t v none).releaseHeld) s

/-- OLOCK (R72, R357). -/
def execOlock (f : FmtP) (s : State) : Host.Outcome State Fault Refusal :=
  word .npOnly (do
    let t ← curThread
    let v ← sreg f.a
    let e ← heldEvent t v
    let s ← get
    M.check (e.st == .taken && !s.events.any fun x => x.heldBy t && x.st == .locked && x.world == e.world && x.oqn == e.oqn)
      Cause.eventState
    M.await (s.grantable e) .olock
    M.upd fun s => s.setEvent t v (some .locked)) s

/-- OREL (R72, R357). -/
def execOrel (f : FmtP) (s : State) : Host.Outcome State Fault Refusal :=
  word .npOnly (do
    let t ← curThread
    let v ← sreg f.a
    let e ← heldEvent t v
    M.check (e.st == .locked) Cause.eventState
    releaseStores
    M.upd fun s => s.setEvent t v (some .released)) s

/-- A task on a thread ends, suspends or faults: its events are DONE (R357). -/
def State.dropEvents (s : State) (t : Nat) : State :=
  { s with events := s.events.filter fun e => !e.heldBy t }.releaseHeld

/-! ## Timers (R78, R358) -/

/-- The key of a world's timer. -/
def timerKey (world n : Nat) : Nat := world * 4096 + n
def State.timer (s : State) (world n : Nat) : Timer := s.timers.get .empty (timerKey world n)
def State.setTimer (s : State) (world n : Nat) (t : Timer) : State :=
  { s with timers := s.timers.set .empty (timerKey world n) t }

/-- The timer number of an operand, below the world's quota. -/
def timerOperand (v : W64) : M Nat := do
  let n := bits v 0 12
  M.check (n < (← get).quota (← curWorld) 3) Cause.badOperand
  return n

/-- TMARM (R358). -/
def execTmarm (f : FmtP) (s : State) : Host.Outcome State Fault Refusal :=
  word .npOnly (do
    let a ← sreg f.a
    let n ← timerOperand a
    let w ← curWorld
    let d ← sreg f.b
    M.upd fun s => s.setTimer w n
      (if d = BitVec.allOnes 64 then Timer.empty
       else { armed := true, deadline := d.toNat, period := bits a 25 39, cls := bits a 12 3, oqn := bits a 15 10, due := none })) s

/-- TMRD (R358). -/
def execTmrd (f : FmtP) (s : State) : Host.Outcome State Fault Refusal :=
  word .npOnly (do
    let n ← timerOperand (← sreg f.a)
    let t := (← get).timer (← curWorld) n
    writeSreg f.d (if t.armed then w64 t.deadline else BitVec.allOnes 64)) s

/-- A timer after its deadline has passed: a periodic one goes on (R78). -/
def Timer.next (t : Timer) : Timer :=
  if t.period = 0 then { t with armed := false } else { t with deadline := t.deadline + t.period }

/-- A timer after every deadline up to an instant, and the latest of them, where one has passed. -/
def Timer.passed (t : Timer) (now : Nat) : Option (Timer × Nat) :=
  if !t.armed || decide (now < t.deadline) then none
  else if t.period = 0 then some ({ t with armed := false }, t.deadline)
  else
    let d := t.deadline + (now - t.deadline) / t.period * t.period
    some ({ t with deadline := d + t.period }, d)

/-- TIMER_EXPIRY (R78): an event held under R71 is posted once its world's quota has room, with the latest deadline passed by then; else
a deadline that has passed posts its event, or is the latest one of the event held. -/
def execTimerExpiry (world timer : Nat) (s : State) : Host.Outcome State Fault Refusal :=
  let t := s.timer world timer
  let post (t : Timer) (d : Nat) : State :=
    (s.setTimer world timer { t with due := none }).post 0x06 world t.cls t.oqn [w64 timer, w64 d]
  match t.due, s.eventRoom world t.cls with
  | some d, true =>
    let (t, d) := (t.passed s.now).getD (t, d)
    .next (post t d)
  | _, room =>
    if !t.armed || decide (s.now < t.deadline) then .next s
    else if room then .next (post t.next t.deadline)
    else .next (s.setTimer world timer { t.next with due := some t.deadline })

/-! ## Notify registers and lanterns (R73 to R75) -/

def nbEn (b : W64) : Bool := b.getLsbD 20
def nbOqn (b : W64) : Nat := bits b 10 10
def nbClass (b : W64) : Nat := bits b 7 3
def nbWorld (b : W64) : Nat := bits b 1 6
def nbPeer (b : W64) : Bool := b.getLsbD 0

/-- Who writes a notify register: the host, a task of this module, or a peer module (R382). -/
inductive Notifier where
  | host | here | peer (module : Nat)
  deriving DecidableEq, Repr

/-- Payload D of a report of a discarded write. -/
def Notifier.payload (n : Notifier) (reg : Nat) (malformed : Bool) : W64 :=
  w64 (reg % 4096 + (match n with | .host => 0 | .here => moduleNo * 2 ^ 12 | .peer m => m % 1024 * 2 ^ 12 + 2 ^ 22) +
    (if malformed then 2 ^ 23 else 0))

/-- A discarded write is reported to world 0; the event queue runs for it. -/
def State.notifyDiscard (s : State) (d : W64) : State := { s with gate := .running }.dieReport 0 Cause.notifyDiscard 0 d none

/-- An event of a notify register posted under the binding in force. -/
def State.postNotify (s : State) (reg : Nat) (v : W64) (n : Nat) : State :=
  let b := s.nbind.get 0 reg
  s.post 0x07 (nbWorld b) (nbClass b) (nbOqn b) [v, w64 (reg * 2 ^ 16 + n)]

/-- The event path can post for a register: it runs, and the world's quota has room (R74). -/
def State.mayPostNotify (s : State) (reg : Nat) : Bool :=
  s.gate == .running && s.eventRoom (nbWorld (s.nbind.get 0 reg)) (nbClass (s.nbind.get 0 reg))

/-- A lantern with a write taken into it. -/
def Lantern.take (l : Lantern) (x : W64) : Lantern :=
  if l.pending then { value := l.value ||| x, count := if l.count < 65535 then l.count + 1 else 65535, pending := true }
  else { value := x, count := 1, pending := true }

/-- The first write to a lantern starts the wake of gated logic, which runs again within 20 µs (R75). -/
def State.wake (s : State) : State :=
  if s.gate = .gated then { s with gate := .waking (s.now + Config.wakeNs s.seq % 20001) } else s

/-- A pending lantern under a binding with EN = 0 is discarded, and reported (R74). -/
def State.lanternDiscard (s : State) (reg : Nat) : State :=
  if (s.lanterns.get .empty reg).pending && !nbEn (s.nbind.get 0 reg) then
    { s with lanterns := s.lanterns.set .empty reg Lantern.empty }.notifyDiscard (w64 reg)
  else s

/-- A pending lantern posts its event where the path can post, and under a binding with EN = 0 it is discarded (R74). -/
def State.lanternPost (s : State) (reg : Nat) : State :=
  let l := s.lanterns.get .empty reg
  if !l.pending || s.gate != .running then s
  else if !nbEn (s.nbind.get 0 reg) then s.lanternDiscard reg
  else if s.mayPostNotify reg then { s with lanterns := s.lanterns.set .empty reg Lantern.empty }.postNotify reg l.value l.count
  else s

/-- The write that a register takes: posted at once where the path can post, and kept in its lantern otherwise (R74). What the lanterns
up to its own can post by then is posted before it, in ascending order, as the writes in them came first (R72, R75; DEDUCED, log 46). -/
def State.notifyAccept (s : State) (reg : Nat) (x : W64) : State :=
  let s := (s.lanterns.keys.filter fun r => decide (r ≤ reg)).foldl State.lanternPost s
  if s.mayPostNotify reg then s.postNotify reg x 1
  else { s with lanterns := s.lanterns.set .empty reg ((s.lanterns.get Lantern.empty reg).take x) }.wake

/-- A write to a notify register (R73): one from a peer needs PEER. -/
def State.notify (s : State) (reg : Nat) (x : W64) (who : Notifier) : State :=
  let b := s.nbind.get 0 reg
  if !nbEn b || ((match who with | .peer _ => true | _ => false) && !nbPeer b) then
    s.notifyDiscard (who.payload reg false)
  else s.notifyAccept reg x

/-- NOTIFY_WRITE (R73, R74): an access of the host's or a peer's to the aperture. A read returns 0; any other write than an aligned
64-bit one is discarded. -/
def execNotifyWrite (w : NotifyWrite) (s : State) : Host.Outcome State Fault Refusal :=
  let who : Notifier := match w.peer with
    | some m => .peer m
    | none => .host
  .next (if w.read then { s with outbox := s.outbox ++ [.notifyRead w.reg 0] }
    else if w.wellFormed && decide (w.reg < 4096) then s.notify w.reg w.value who
    else s.notifyDiscard (who.payload w.reg true))

/-- LANTERN_POST (R74). -/
def execLanternPost (reg : Nat) (s : State) : Host.Outcome State Fault Refusal := .next (s.lanternPost reg)

/-! ## Trigger actions that post events (R65) -/

/-- A fired action leaves the list. -/
def State.dropFired (s : State) (a : Fired) : State := { s with fired := s.fired.erase a }

/-- The action was issued: its entry re-arms or is DISARMED, unless TRGDIS has freed it since (R64, R67). -/
def State.actionIssued (s : State) (a : Fired) : State :=
  let s := s.dropFired a
  if (s.trigger a.entry).arm = a.arm then s.trigIssued a.entry else s

/-- The first action waiting for an entry, of a kind. -/
def State.firedFor (s : State) (entry act : Nat) : Option Fired :=
  s.fired.find? fun a => a.entry == entry && trigAct a.words == act

/-- TRIGGER_EVENT (R65). -/
def execTriggerEvent (entry : Nat) (s : State) : Host.Outcome State Fault Refusal :=
  match s.firedFor entry 4 with
  | none => .next s
  | some a =>
    let w := trigWorld a.words
    let c := trigClass a.words
    if s.eventRoom w c then
      .next ((s.post 0x02 w c (trigOqn a.words) [w64 (trigOpnd a.words), w64 entry, a.value]).actionIssued a)
    else .next s

end Sys2Proof.Machine
end

