-- ==== Sys2Proof/Machine/Views.lean ====
section
/-! DEFINITION. Views and slabs (R178 to R182), what one repetition of a vector word sees, and the checks it needs before
it is issued (R287, R289). -/

namespace Sys2Proof.Machine

/-! ## Regions of the pool (R25, R178) -/

/-- First byte and size of register space, or of the accumulator store. -/
def regionOf (partw : W64) (acc : Bool) : Nat × Nat :=
  if acc then (bits partw 12 7 * 65536, bits partw 19 6 * 65536) else (bits partw 0 7 * 65536, bits partw 7 5 * 65536)

/-- Pool bytes read little-endian (R190). -/
def poolRead (t : Tbl Byte) (a n : Nat) : Nat := ofBytes ((List.range n).map fun i => t.get 0 (a + i))
/-- Pool bytes written little-endian. -/
def poolWrite (t : Tbl Byte) (a n x : Nat) : Tbl Byte :=
  (List.range n).foldl (fun t i => t.set 0 (a + i) (byteOf x i)) t

/-! ## View registers (R179, R180) -/

def viewType (v : W64) : Nat := bits v 60 4
def viewRows (v : W64) : Nat := bits v 49 10
def viewCols (v : W64) : Nat := bits v 40 9
def viewPitch (v : W64) : Nat := bits v 30 10 * 64
def viewBase (v : W64) : Nat := bits v 0 15 * 64

/-- The checks of view_addr that do not depend on the element. -/
def viewOk (v partw : W64) : Bool :=
  let wid := elemBits (viewType v)
  viewType v != 15 && (wid != 4 || viewCols v % 2 == 1) &&
    decide (viewBase v + viewRows v * viewPitch v + ((viewCols v + 1) * wid + 7) / 8 ≤ (regionOf partw (v.getLsbD 59)).2)

/-- The pool byte of an element (R180). -/
def viewAddr (v partw : W64) (row col : Nat) : Nat :=
  (regionOf partw (v.getLsbD 59)).1 + viewBase v + row * viewPitch v + col * elemBits (viewType v) / 8

/-- An element's bits. -/
def viewGet (t : Tbl Byte) (v partw : W64) (row col : Nat) : Nat :=
  let a := viewAddr v partw row col
  match elemBits (viewType v) with
  | 4 => let b := (t.get 0 a).toNat; if col % 2 = 0 then b % 16 else b / 16
  | w => poolRead t a (w / 8)

/-- An element written; of a 4-bit element only its nibble. -/
def viewPut (t : Tbl Byte) (v partw : W64) (row col x : Nat) : Tbl Byte :=
  let a := viewAddr v partw row col
  match elemBits (viewType v) with
  | 4 =>
    let b := (t.get 0 a).toNat
    t.set 0 a (BitVec.ofNat 8 (if col % 2 = 0 then b / 16 * 16 + x % 16 else b % 16 + x % 16 * 16))
  | w => poolWrite t a (w / 8) x

/-- Slab an is present (R182). -/
def slabOk (partw : W64) (n : Nat) : Bool := decide (n < 64) && decide ((n + 1) * 32768 ≤ (regionOf partw true).2)
/-- The pool byte of an FP32 element of a slab. -/
def slabAddr (partw : W64) (n row col : Nat) : Nat := (regionOf partw true).1 + n * 32768 + row * 1024 + col * 4

/-! ## A repetition -/

/-- What a repetition of a vector word sees: its fields, its number, the captured registers (R287) and the placement. -/
structure VIn where
  f : FmtV
  rep : Nat
  vshape : W64
  vksc : W64
  fpctl : W64
  vw : Tbl W64
  partw : W64
  deriving DecidableEq, Repr

/-- Active rows and columns (R181). -/
def VIn.rows (i : VIn) : Nat := bits i.vshape 9 10 + 1
def VIn.cols (i : VIn) : Nat := bits i.vshape 0 9 + 1
def VIn.view (i : VIn) (n : BitVec 4) : W64 := i.vw.get 0 n.toNat
/-- A view row of the repetition (R194). -/
def VIn.row (i : VIn) (r : Nat) : Int := r + i.rep * i.f.stp.toInt
def VIn.ftz (i : VIn) : Bool := fpctlFtz i.fpctl
def VIn.satf (i : VIn) : Bool := fpctlSatf i.fpctl

/-- The element of a source view, its column 0 where COLS is 0 (R289). -/
def VIn.get (i : VIn) (t : Tbl Byte) (n : BitVec 4) (r c : Nat) : Nat :=
  let v := i.view n
  viewGet t v i.partw (i.row r).toNat (if viewCols v = 0 then 0 else c)
/-- The element of a destination view. -/
def VIn.old (i : VIn) (t : Tbl Byte) (n : BitVec 4) (r c : Nat) : Nat := viewGet t (i.view n) i.partw (i.row r).toNat c
def VIn.put (i : VIn) (n : BitVec 4) (t : Tbl Byte) (r c x : Nat) : Tbl Byte :=
  viewPut t (i.view n) i.partw (i.row r).toNat c x

/-- A view that a repetition touches: elements (0 … rows − 1, 0 … cols − 1), the TYPEs it may have, and whether it is a
source. -/
structure Use where
  view : BitVec 4
  types : List Nat
  rows : Nat
  cols : Nat
  src : Bool
  deriving DecidableEq, Repr

/-- The checks of a use (R180, R289). -/
def VIn.useOk (i : VIn) (u : Use) : Bool :=
  let v := i.view u.view
  u.types.contains (viewType v) && viewOk v i.partw && decide (0 ≤ i.row 0) &&
    decide (i.row (u.rows - 1) ≤ viewRows v) && ((u.src && viewCols v == 0) || decide (u.cols ≤ viewCols v + 1))

/-- A vector operation: the views it touches, its own limits, and the effect of a repetition on the pool and the
context, none while it waits on a queue. -/
structure VOp where
  uses : VIn → List Use
  limits : VIn → Bool
  run : VIn → Tbl Byte → Ctx → Option (Tbl Byte × Ctx)

/-- Every check of a repetition (R287). -/
def VOp.ok (op : VOp) (i : VIn) : Bool := (op.uses i).all i.useOk && op.limits i

/-! ## Grids of results -/

/-- Results in row-major order with the flags and draws they make; a draw precedes each under SR (R216). -/
def evalCells (draws : Bool) (g : Nat → Nat → BitVec 32 → Nat × Flags) :
    List (Nat × Nat) → BitVec 128 → List (Nat × Nat × Nat) × Flags × BitVec 128
  | [], l => ([], noFlags, l)
  | (r, c) :: t, l =>
    let (l, d) := if draws then srDraw l else (l, 0)
    let (x, fl) := g r c d
    let (xs, fls, l) := evalCells draws g t l
    ((r, c, x) :: xs, fl ||| fls, l)

/-- The cells of a grid in row-major order. -/
def gridCells (rows cols : Nat) : List (Nat × Nat) :=
  (List.range rows).flatMap fun r => (List.range cols).map fun c => (r, c)

/-- Flags and draws taken into the E stream. -/
def Ctx.vectorFlags (x : Ctx) (fl : Flags) (l : BitVec 128) : Ctx :=
  { x with e := { x.e with fpstat := x.e.fpstat ||| fl.setWidth 64, lfsr := l } }

/-- A grid computed and written to a view, wholly after it is read (R288). -/
def VIn.grid (i : VIn) (dst : BitVec 4) (rows cols : Nat) (draws : Bool) (g : Nat → Nat → BitVec 32 → Nat × Flags)
    (t : Tbl Byte) (x : Ctx) : Tbl Byte × Ctx :=
  let (xs, fl, l) := evalCells draws g (gridCells rows cols) x.e.lfsr
  (xs.foldl (fun t (r, c, v) => i.put dst t r c v) t, x.vectorFlags fl l)

end Sys2Proof.Machine
end

