-- ==== Sys2Proof/Machine/MatrixOps.lean ====
section
/-! DEFINITION. Stationaries, their streams and sealed blocks (R164 to R166, R311 to R313), ring slots and xq entries of
commands (R320, R321), and the accumulation of one slab (R224 to R226, R324, R325). -/

namespace Sys2Proof.Machine

/-! ## Fields of a command (R316) -/

def MCmd.f (m : MCmd) : FmtM := unpackM m.word
def MCmd.fn (m : MCmd) : Nat := bits (m.word.setWidth 64) 38 4
/-- count: slabs of an array command. -/
def slabCount (f : FmtM) : Nat := (f.ks.extractLsb' 0 6).toNat + 1

/-- K of a stationary format (R311). -/
def fmtK (c : BitVec 4) : Nat := if matBits c.toNat = 4 then 512 else 256
/-- K of a stationary; an empty one has no format. -/
def Stationary.k (t : Stationary) : Nat :=
  match t.fmt with
  | some c => fmtK c
  | none => 256
/-- Bytes of an activation row (R314). -/
def rowLen (k : Nat) (fmta : BitVec 4) : Nat := k * matBits fmta.toNat / 8

/-! ## Streams (R312, R165) -/

/-- Values of a stationary operand. -/
def statValues (c : BitVec 4) (sparse : Bool) : Nat := fmtK c * (if sparse then 128 else 256)
/-- Values in one full sealed block. -/
def blockValues (c : BitVec 4) (sparse : Bool) : Nat :=
  let w := matBits c.toNat
  if sparse then (if w = 8 then 384 else 640) else 3840 / w
/-- Sealed blocks of an operand. -/
def statBlocks (c : BitVec 4) (sparse : Bool) : Nat :=
  (statValues c sparse + blockValues c sparse - 1) / blockValues c sparse
/-- Bytes of the stream. -/
def streamLen (c : BitVec 4) (isSealed sparse : Bool) : Nat :=
  if isSealed then statBlocks c sparse * 512 else statValues c sparse * matBits c.toNat / 8

/-- A positions list as metadata planes: kept value i is (h, c) = (i mod K/2, i / (K/2)). -/
def planeOf (half : Nat) (l : List Nat) : Tbl (BitVec 512) :=
  l.zipIdx.foldl (fun t (p, i) =>
    t.set 0 (i % half) (t.get 0 (i % half) ||| BitVec.ofNat 512 (p * 2 ^ (2 * (i / half))))) []

/-- The 2-bit positions packed in bytes. -/
def unpackPos (n : Nat) (l : List Byte) : List Nat :=
  (l.flatMap fun b => let x := b.toNat; [x % 4, x / 4 % 4, x / 16 % 4, x / 64]).take n

/-- One sealed block at load position `pos` with n values: its value bytes and positions, or none where the port
refuses it (R166). `keys` are the installed generations with their keys. -/
def openBlock (keys : List (Nat × Nat)) (c : BitVec 4) (sparse : Bool) (pos n : Nat) (l : List Byte) :
    Option (List Byte × List Nat) :=
  let head := (l.drop 480).take 16
  let w60 := ofBytes (head.take 8)
  let w61 := ofBytes (head.drop 8)
  let kgen := w61 / 2 ^ 16 % 2 ^ 16
  match keys.lookup kgen with
  | none => none
  | some key =>
    let key := leNats 32 key
    let iv := kgen * 2 ^ 80 + w61 % 2 ^ 16 * 2 ^ 64 + w60
    let ct := toNats (l.take 480)
    if gcmTag key iv (toNats head) ct ≠ toNats (l.drop 496) then none
    else if w61 / 2 ^ 37 % 2 ^ 11 ≠ pos ∨ w61 / 2 ^ 32 % 16 ≠ c.toNat ∨ w61.testBit 36 ≠ sparse ∨ w61 / 2 ^ 48 ≠ 0 then none
    else
      let text := ofNats (gcmText key iv ct)
      let v := n * matBits c.toNat / 8
      some (text.take v, if sparse then unpackPos n (text.drop v) else [])
where
  toNats (l : List Byte) : List Nat := l.map BitVec.toNat
  ofNats (l : List Nat) : List Byte := l.map (BitVec.ofNat 8)

/-- Blocks in order; the load position of the first refused one. -/
def openBlocks (keys : List (Nat × Nat)) (c : BitVec 4) (sparse : Bool) :
    Nat → Nat → List Byte → Except Nat (List Byte × List Nat)
  | 0, _, _ => .ok ([], [])
  | k + 1, pos, l =>
    let per := blockValues c sparse
    let n := if k = 0 then statValues c sparse - pos * per else per
    match openBlock keys c sparse pos n (l.take 512) with
    | none => .error pos
    | some (v, p) =>
      match openBlocks keys c sparse k (pos + 1) (l.drop 512) with
      | .error e => .error e
      | .ok (vs, ps) => .ok (v ++ vs, p ++ ps)

/-- A stationary read from its stream: values and metadata plane (R322). -/
def readStream (keys : List (Nat × Nat)) (c : BitVec 4) (isSealed sparse : Bool) (l : List Byte) :
    Except Nat (List Byte × Tbl (BitVec 512)) :=
  if isSealed then
    match openBlocks keys c sparse (statBlocks c sparse) 0 l with
    | .error e => .error e
    | .ok (v, p) => .ok (v, planeOf (fmtK c / 2) p)
  else .ok (fitBytes (streamLen c false sparse) l, [])

/-! ## Ring slots of commands (R184, R320) -/

/-- Pool bytes of ring slots: the slots after `first` in ring order, each whole. -/
def Ctx.slotBytes (x : Ctx) (t : Tbl Byte) (ring first n : Nat) : List Byte :=
  let r := x.rgd.get 0 ring
  (List.range n).flatMap fun i =>
    let a := bits x.partw 25 7 * 65536 + rgdBase r + (first + i) % rgdSlots r * rgdSlotBytes r
    (List.range (rgdSlotBytes r)).map fun j => t.get 0 (a + j)

/-- Slots from HEAD to the first slot of the command at an index of mcq. -/
def Ctx.ringDist (x : Ctx) (ring idx : Nat) : Nat :=
  x.readPos.get 0 ring - (((x.mcq.drop idx).filter fun m => m.ring == some ring).map MCmd.nslots).sum

/-- Every slot assigned to the command lies in the ring's first NSLOT + 1 (R320). -/
def Ctx.slotsInReach (x : Ctx) (ring idx n : Nat) : Bool :=
  decide (x.ringDist ring idx + n ≤ rgdSlots (x.rgd.get 0 ring))

/-- The j-th slot after a distance from HEAD is allocated and filled. -/
def Ctx.slotFilled (x : Ctx) (ring dist : Nat) : Bool :=
  let r := x.rgd.get 0 ring
  decide (dist < rgdUsed r) && x.filled.get false (slotKey ring ((rgdHead r + dist) % rgdSlots r))

/-- HEAD advances over the leading released slots. -/
def Ctx.popRing (x : Ctx) (ring : Nat) : Nat → Ctx
  | 0 => x
  | fuel + 1 =>
    let r := x.rgd.get 0 ring
    let h := rgdHead r
    if rgdUsed r = 0 ∨ !x.released.get false (slotKey ring h) then x
    else
      { x with
        rgd := x.rgd.set 0 ring (rgdWith r ((h + 1) % rgdSlots r) (rgdTail r) false)
        filled := x.filled.set false (slotKey ring h) false
        released := x.released.set false (slotKey ring h) false
        readPos := x.readPos.set 0 ring (x.readPos.get 0 ring - 1) }.popRing ring fuel

/-- Slots released, and HEAD moved. -/
def Ctx.releaseSlots (x : Ctx) (ring first n : Nat) : Ctx :=
  let size := rgdSlots (x.rgd.get 0 ring)
  let released := (List.range n).foldl (fun t i => t.set false (slotKey ring ((first + i) % size)) true) x.released
  { x with released }.popRing ring 256

/-- The held slots of a stationary released. -/
def Ctx.releaseHeld (x : Ctx) (t : Stationary) : Ctx :=
  match t.source with
  | some (r, first, n) => x.releaseSlots r first n
  | none => x

/-! ## xq (R313, R321) -/

/-- Entries before those of the command at an index of mcq. -/
def Ctx.xqDist (x : Ctx) (idx : Nat) : Nat := ((x.mcq.take idx).map MCmd.nxq).sum
/-- Entries of a run are in the queue. -/
def Ctx.xqReady (x : Ctx) (first n : Nat) : Bool :=
  n == 0 || (decide (first + n ≤ 256) && decide (first + n ≤ (x.queue 14).rows.length))
/-- Their bytes. -/
def Ctx.xqBytes (x : Ctx) (first n : Nat) : List Byte :=
  (((x.queue 14).rows.drop first).take n).flatMap Row.bytes

/-- The xq entries of an operand of n slabs' activations. -/
def actXq (fmta : BitVec 4) (k n : Nat) : Nat := if matIsMx fmta.toNat then n * (k / 32) else 0
/-- Those of a stationary. -/
def statXq (fmtb : BitVec 4) : Nat := if matIsMx fmtb.toNat then fmtK fmtb / 4 else 0

/-! ## Accumulation (R225, R226) -/

/-- A block's value: the exact sum of products under both scales, with its flags. -/
def blockValue (xa xb : Nat) (terms : List (Num × Num)) : Exact × Flags :=
  if xa = 0xFF ∨ xb = 0xFF then (.nan, noFlags)
  else
    let ps := terms.map fun (a, b) => (a, b, (mulVal a b).1)
    let bad := ps.any fun (a, b, p) => p.isNan && !a.isNan && !b.isNan
    let pos := ps.any fun (_, _, p) => p == .inf false
    let neg := ps.any fun (_, _, p) => p == .inf true
    if bad ∨ (pos ∧ neg) then (.nan, flagNV)
    else if ps.any fun (_, _, p) => p.isNan then (.nan, noFlags)
    else if pos then (.inf false, noFlags)
    else if neg then (.inf true, noFlags)
    else
      let (z, e) := ps.foldl (fun (z, e) (_, _, p) =>
        match p with
        | .fin n m e' => dyadicSum (decide (z < 0)) z.natAbs e n m e'
        | _ => (z, e)) ((0 : Int), (0 : Int))
      (.ofDyadic (z < 0) z.natAbs (e + (xa + xb : Nat) - 254), noFlags)

/-- One accumulation step: the block rounded, then added (R225). A NaN accumulator stays NaN without a flag. -/
def accStep (acc xa xb : Nat) (terms : List (Num × Num)) : Nat × Flags :=
  let (bv, f1) := blockValue xa xb terms
  let (bf, f2) := fpPut .fp32 false .rne false 0 bv
  let a := fpDecode .fp32 acc
  if a.isNan then (fpNan .fp32, f1 ||| f2)
  else
    let (s, f3) := addNum .rne a (fpDecode .fp32 bf)
    let (r, f4) := fpPut .fp32 false .rne false 0 s
    (r, f1 ||| f2 ||| f3 ||| f4)

/-- The values of one column: dense K, sparse K ÷ 2. -/
def Stationary.column (t : Stationary) (c : Nat) : List Num :=
  match t.fmt with
  | none => List.replicate 256 (.fin false 0 0)
  | some f =>
    let n := if t.sparse then fmtK f / 2 else fmtK f
    let w := matBits f.toNat
    (unpackElems w n ((t.vals.drop (c * n * w / 8)).take (n * w / 8))).map (matElem f.toNat).value

/-- The terms of block blk for an activation row and a column (R225, R325). -/
def Stationary.terms (t : Stationary) (row col : List Num) (c blk : Nat) : List (Num × Num) :=
  let z : Num := .fin false 0 0
  if t.sparse then
    (List.range 16).map fun i =>
      let h := 16 * blk + i
      (row.getD (4 * (h / 2) + bits512 (t.plane.get 0 h) c) z, col.getD h z)
  else (List.range 32).map fun i => (row.getD (32 * blk + i) z, col.getD (32 * blk + i) z)
where
  /-- Position c of a plane word. -/
  bits512 (x : BitVec 512) (c : Nat) : Nat := x.toNat / 2 ^ (2 * c) % 4

/-- The scale of column c and block b; 0x7F where the format is not MX. -/
def Stationary.scale (t : Stationary) (c b : Nat) : Nat :=
  match t.fmt with
  | some f => if matIsMx f.toNat then (t.scales.getD (c * (fmtK f / 32) + b) 0).toNat else 0x7F
  | none => 0x7F

/-- One element accumulated over all blocks. -/
def Stationary.accElem (t : Stationary) (row : List Num) (xa : Nat → Nat) (c acc : Nat) : Nat × Flags :=
  let col := t.column c
  (List.range (t.k / 32)).foldl (fun (a, fl) b =>
    let (a, fl') := accStep a (xa b) (t.scale c b) (t.terms row col c b)
    (a, fl ||| fl')) (acc, noFlags)

/-- A slab accumulated from 32 activation rows (R324): the pool and the flags. -/
def Stationary.accSlab (t : Stationary) (partw : W64) (slab : Nat) (fmta : BitVec 4) (rows scales : List Byte)
    (pool : Tbl Byte) : Tbl Byte × Flags :=
  let rl := rowLen t.k fmta
  (List.range 32).foldl (fun (pool, fl) r =>
    let row := (unpackElems (matBits fmta.toNat) t.k ((rows.drop (r * rl)).take rl)).map (matElem fmta.toNat).value
    let xa (b : Nat) : Nat :=
      if matIsMx fmta.toNat then (scales.getD (r * (t.k / 32) + b) 0).toNat else 0x7F
    (List.range 256).foldl (fun (pool, fl) c =>
      let a := slabAddr partw slab r c
      let (v, fl') := t.accElem row xa c (poolRead pool a 4)
      (poolWrite pool a 4 v, fl ||| fl')) (pool, fl)) (pool, noFlags)

/-- A slab of zeros (R326). -/
def zeroSlab (partw : W64) (slab : Nat) (pool : Tbl Byte) : Tbl Byte :=
  let a := slabAddr partw slab 0 0
  pool.filter fun (i, _) => !(decide (a ≤ i) && decide (i < a + 32768))

end Sys2Proof.Machine
end

