-- ==== Sys2Proof/Machine/VectorOps.lean ====
section
/-! DEFINITION. What a repetition of each vector operation does (R292 to R308). -/

namespace Sys2Proof.Machine

/-! ## Types -/

/-- T is a signed integer type (R289). -/
def typeSigned (t : Nat) : Bool := t == 0 || t == 2 || t == 4 || t == 6
/-- An integer element under sgn. -/
def elemInt (t x : Nat) : Int := if typeSigned t then VType.value.toSignedBits (elemBits t) x else x
/-- The format of a floating-point type code. -/
def fmtOfType (t : Nat) : Fmt :=
  match vtypeOf t with
  | .flt f => f
  | _ => .fp32
/-- T is a floating-point type. -/
def typeIsFloat (t : Nat) : Bool :=
  match vtypeOf t with
  | .flt _ => true
  | _ => false
/-- The shape as a use of a view. -/
def VIn.shape (i : VIn) (view : BitVec 4) (types : List Nat) (src : Bool) : Use :=
  { view, types, rows := i.rows, cols := i.cols, src }
/-- The rounding mode of a repetition. -/
def VIn.rm (i : VIn) (rm : BitVec 3) : Rm := rmOf rm i.fpctl

/-! ## Element-wise operations (R289) -/

/-- An element-wise operation: the TYPEs of va, vb (none when it has no vb) and vd, whether it draws, and an element's
result from those of va, vb and the old vd. -/
def VOp.map (ta : List Nat) (tb : Option (List Nat)) (td : List Nat) (draws : VIn → Bool)
    (g : VIn → Nat → Nat → Nat → BitVec 32 → Nat × Flags) : VOp where
  uses i := i.shape i.f.va ta true :: i.shape i.f.vd td false ::
    (match tb with | some l => [i.shape i.f.vb l true] | none => [])
  limits _ := true
  run i t x := some (i.grid i.f.vd i.rows i.cols (draws i) (fun r c d =>
    g i (i.get t i.f.va r c) (if tb.isSome then i.get t i.f.vb r c else 0) (i.old t i.f.vd r c) d) t x)

/-- No draw. -/
def noDraw : VIn → Bool := fun _ => false

/-- Integer rows with vb (R292): an exact integer of x and y, with flags, truncated. -/
def vopInt (f : FmtV) (g : Nat → Bool → Int → Int → Int × Flags) : VOp :=
  let t := f.t.toNat
  .map [t] (some [t]) [t] noDraw fun _ a b _ _ =>
    let (z, fl) := g (elemBits t) (typeSigned t) (elemInt t a) (elemInt t b)
    (intBits (elemBits t) z, fl)

/-- Integer rows without vb. -/
def vopInt1 (f : FmtV) (g : Int → Int) : VOp :=
  let t := f.t.toNat
  .map [t] none [t] noDraw fun _ a _ _ _ => (intBits (elemBits t) (g (elemInt t a)), noFlags)

/-- Logic and shift rows (R293): fields of w bits read unsigned. -/
def vopLogic (f : FmtV) (g : Nat → Nat → Nat → Nat) : VOp :=
  let t := f.t.toNat
  .map [t] (some [t]) [t] noDraw fun _ a b _ _ => (g (elemBits t) a b % 2 ^ elemBits t, noFlags)

/-- Floating-point rows that round (R295). -/
def vopFp (f : FmtV) (rm : BitVec 3) (g : Rm → Num → Num → Num → Exact × Flags) : VOp :=
  let t := f.t.toNat
  .map [t] (some [t]) [t] (fun i => i.rm rm == .sr) fun i a b z d =>
    let fm := fmtOfType t
    let (v, fl) := g (i.rm rm) (fpValue fm i.ftz a) (fpValue fm i.ftz b) (fpValue fm i.ftz z)
    let (r, fl') := fpPut fm i.ftz (i.rm rm) i.satf d v
    (r, fl ||| fl')

/-- VFMIN and VFMAX. -/
def vopPick (f : FmtV) (wantMax : Bool) : VOp :=
  let t := f.t.toNat
  .map [t] (some [t]) [t] noDraw fun i a b _ _ =>
    let fm := fmtOfType t
    let (v, fl) := minMaxNum wantMax (fpValue fm i.ftz a) (fpValue fm i.ftz b)
    ((fpPut fm false .rne false 0 v).1, fl)

/-! ## Special functions (R296 to R298) -/

/-- The exact result of VEXP2 (R297). -/
def exp2Num (x y k : Num) : Exact × Flags :=
  if x.isNan || y.isNan || k.isNan then (.nan, nvIf (x.sNan || y.sNan || k.sNan))
  else
    let u : Option Num := match x, y with
      | .fin n1 m1 e1, .fin n2 m2 e2 =>
        let (z, e) := dyadicSum n1 m1 e1 (!n2) m2 e2
        some (.fin (z < 0) z.natAbs e)
      | .inf a, .inf b => if a = b then none else some (.inf a)
      | .inf a, _ => some (.inf a)
      | _, .inf b => some (.inf !b)
      | _, _ => none
    match u with
    | none => (.nan, flagNV)
    | some u =>
      match mulVal u k with
      | (.fin n m e, _) => (Exact.ofPow2 n m e, noFlags)
      | (.inf false, _) => (.inf false, noFlags)
      | (.inf true, _) => (.zero false, noFlags)
      | (.nan _, _) => (.nan, flagNV)

/-- VLOG2 (R298). -/
def log2Num : Num → Exact × Flags
  | .nan s => (.nan, nvIf s)
  | .inf n => if n then (.nan, flagNV) else (.inf false, noFlags)
  | .fin n m e => if m = 0 then (.inf true, flagDZ) else if n then (.nan, flagNV) else (Exact.ofLog2 m e, noFlags)

/-- VRSQRT (R298). -/
def rsqrtNum : Num → Exact × Flags
  | .nan s => (.nan, nvIf s)
  | .inf n => if n then (.nan, flagNV) else (.zero false, noFlags)
  | .fin n m e => if m = 0 then (.inf n, flagDZ) else if n then (.nan, flagNV) else (Exact.ofRsqrt m e, noFlags)

/-- A row of major 0x23: vd has a format of its own. -/
def vopSpecial (f : FmtV) (rm : BitVec 3) (hasB : Bool) (g : VIn → Num → Num → Exact × Flags) : VOp :=
  let t := f.t.toNat
  .map [t] (if hasB then some [t] else none) [8, 9, 10] (fun i => i.rm rm == .sr) fun i a b _ d =>
    let fm := fmtOfType t
    let out := fmtOfType (viewType (i.view i.f.vd))
    let (v, fl) := g i (fpValue fm i.ftz a) (fpValue fm i.ftz b)
    let (r, fl') := fpPut out i.ftz (i.rm rm) i.satf d v
    (r, fl ||| fl')

/-! ## Reductions (R299, R300) -/

/-- A floating-point sum: exact, its zero signed as R300 gives. -/
def sumNum (rm : Rm) (l : List Num) : Exact × Flags :=
  if l.any Num.isNan then (.nan, nvIf (l.any Num.sNan))
  else if l.contains (.inf false) && l.contains (.inf true) then (.nan, flagNV)
  else if l.contains (.inf false) then (.inf false, noFlags)
  else if l.contains (.inf true) then (.inf true, noFlags)
  else
    let (z, e) := l.foldl (fun (z, e) v =>
      match v with
      | .fin n m e' => dyadicSum (decide (z < 0)) z.natAbs e n m e'
      | _ => (z, e)) ((0 : Int), (0 : Int))
    if z = 0 then
      let neg (v : Num) : Bool := match v with | .fin n m _ => n && m == 0 | _ => false
      let pos (v : Num) : Bool := match v with | .fin n m _ => !n && m == 0 | _ => false
      (.zero (if l.all neg then true else if l.all pos then false else rm == .rdn), noFlags)
    else (.ofDyadic (z < 0) z.natAbs e, noFlags)

/-- The maximum or minimum of values, NaNs ignored, −0 below +0; none where all are NaN. -/
def pickNum (wantMax : Bool) (l : List Num) : Option Num :=
  l.foldl (fun b v =>
    if v.isNan then b
    else match b with
      | none => some v
      | some b =>
        let less := ltNum b v || (eqNum b v && b.negative && !v.negative)
        some (if less == wantMax then v else b)) none

/-- The greatest or least integer of a nonempty list. -/
def pickInt (wantMax : Bool) : List Int → Int
  | [] => 0
  | x :: l => l.foldl (fun b v => if decide (b < v) == wantMax then v else b) x

/-- The result of a summing line: bits of the destination type and flags. -/
def sumLine (i : VIn) (t out : Nat) (rm : BitVec 3) (d : BitVec 32) (l : List Nat) : Nat × Flags :=
  if typeIsFloat t then
    let (v, fl) := sumNum (i.rm rm) (l.map (fpValue (fmtOfType t) i.ftz))
    let (r, fl') := fpPut (fmtOfType out) i.ftz (i.rm rm) i.satf d v
    (r, fl ||| fl')
  else (intBits (elemBits out) ((l.map (elemInt t)).sum), noFlags)

/-- The result of a maximum or minimum line. -/
def pickLine (i : VIn) (t : Nat) (wantMax : Bool) (l : List Nat) : Nat × Flags :=
  if typeIsFloat t then
    let vs := l.map (fpValue (fmtOfType t) i.ftz)
    let fl := nvIf (vs.any Num.sNan)
    match pickNum wantMax vs with
    | some v => ((fpPut (fmtOfType t) false .rne false 0 v.exact).1, fl)
    | none => (fpNan (fmtOfType t), fl)
  else (intBits (elemBits t) (pickInt wantMax (l.map (elemInt t))), noFlags)

/-- The lowest column that holds the row's maximum, −1 where all are NaN. -/
def argmaxLine (i : VIn) (t : Nat) (l : List Nat) : Nat × Flags :=
  if typeIsFloat t then
    let vs := l.map (fpValue (fmtOfType t) i.ftz)
    let fl := nvIf (vs.any Num.sNan)
    match pickNum true vs with
    | some m => (vs.findIdx fun v => eqNum v m && v.negative == m.negative, fl)
    | none => (2 ^ 32 - 1, fl)
  else
    let zs := l.map (elemInt t)
    (zs.findIdx fun z => z == pickInt true zs, noFlags)

/-- The TYPEs a sum may have (R299). -/
def sumTypes (t : Nat) : List Nat :=
  if typeIsFloat t then [8, t] else [0, 1, 2, 3, 4, 5, 6, 7].filter fun o => o % 2 == t % 2 && elemBits t ≤ elemBits o

/-- A reduction along rows, or along columns. -/
def vopReduce (f : FmtV) (byRow : Bool) (td : List Nat) (draws : VIn → Bool)
    (g : VIn → Nat → BitVec 32 → List Nat → Nat × Flags) : VOp where
  uses i := [i.shape f.va [f.t.toNat] true,
    { view := f.vd, types := td, rows := if byRow then i.rows else 1, cols := if byRow then 1 else i.cols, src := false }]
  limits _ := true
  run i t x :=
    let out := viewType (i.view f.vd)
    some (i.grid f.vd (if byRow then i.rows else 1) (if byRow then 1 else i.cols) (draws i) (fun r c d =>
      g i out d (if byRow then (List.range i.cols).map fun k => i.get t f.va r k
        else (List.range i.rows).map fun k => i.get t f.va k c)) t x)

/-- A sum draws under SR only where it rounds. -/
def vopSum (f : FmtV) (byRow : Bool) (rm : BitVec 3) : VOp :=
  let t := f.t.toNat
  vopReduce f byRow (sumTypes t) (fun i => typeIsFloat t && i.rm rm == .sr) fun i out d l => sumLine i t out rm d l

def vopPickLine (f : FmtV) (byRow wantMax : Bool) : VOp :=
  vopReduce f byRow [f.t.toNat] noDraw fun i _ _ l => pickLine i f.t.toNat wantMax l

/-! ## Conversion and MX (R301 to R303) -/

/-- VCVT. -/
def vopCvt (f : FmtV) (sat : Bool) (rm : BitVec 3) : VOp :=
  let t := f.t.toNat
  .map [0, 1, 2, 3, 4, 5, 6, 7, 8, 9, 10, 11, 12, 13] none [t] (fun i => i.rm rm == .sr) fun i a _ _ d =>
    convert (vtypeOf (viewType (i.view i.f.va))) (vtypeOf t) i.ftz (sat || i.satf) (i.rm rm) d a

/-- The element format that T names in VQMX. -/
def qmxFmt (t : Nat) : MxFmt := if t = 0 then .int8 else .flt (fmtOfType t)

/-- VQMX. -/
def vopQmx (f : FmtV) : VOp where
  uses i := [i.shape f.va [8, 9, 10] true, i.shape f.vd [f.t.toNat] false,
    { view := f.vb, types := [14], rows := i.rows, cols := i.cols / 32, src := false }]
  limits i := i.cols % 32 == 0
  run i t x :=
    let g := qmxFmt f.t.toNat
    let fm := fmtOfType (viewType (i.view f.va))
    let block (r j : Nat) : List Num := (List.range 32).map fun k => fpValue fm i.ftz (i.get t f.va r (32 * j + k))
    let scales := (gridCells i.rows (i.cols / 32)).map fun (r, j) => (r, j, mxScale g (block r j))
    let (t', x) := i.grid f.vd i.rows i.cols false (fun r c _ =>
      mxElement g (mxScale g (block r (c / 32))) ((block r (c / 32)).getD (c % 32) (.fin false 0 0))) t x
    some (scales.foldl (fun t (r, j, v) => i.put f.vb t r j v) t', x)

/-- VDQMX. -/
def vopDqmx (f : FmtV) (sat : Bool) (rm : BitVec 3) : VOp where
  uses i := [i.shape f.va [0, 11, 12, 13] true, i.shape f.vd [f.t.toNat] false,
    { view := f.vb, types := [14], rows := i.rows, cols := (i.cols + 31) / 32, src := true }]
  limits _ := true
  run i t x :=
    let ta := viewType (i.view f.va)
    let el : MatElem := if ta = 0 then .mxInt8 else .flt (fmtOfType ta)
    some (i.grid f.vd i.rows i.cols (i.rm rm == .sr) (fun r c d =>
      fpPut (fmtOfType f.t.toNat) i.ftz (i.rm rm) (sat || i.satf) d
        (mxValue (i.get t f.vb r (c / 32)) (el.value (i.get t f.va r c))).exact) t x)

/-! ## Compare, select and movement (R304, R305) -/

/-- A condition of VCMP as one of `cmpNum`. -/
def vcmpCode (cc : Nat) : Nat :=
  match cc with
  | 0 => 0
  | 1 => 4
  | 2 => 1
  | 3 => 2
  | _ => 3

/-- VCMP. -/
def vopCmp (f : FmtV) (cc : BitVec 3) : VOp :=
  let t := f.t.toNat
  .map [t] (some [t]) [0, 1, 2, 3, 4, 5, 6, 7] noDraw fun i a b _ _ =>
    let (h, fl) :=
      if typeIsFloat t then
        cmpNum (vcmpCode cc.toNat) (fpValue (fmtOfType t) i.ftz a) (fpValue (fmtOfType t) i.ftz b)
      else
        let x := elemInt t a
        let y := elemInt t b
        ((match cc.toNat with
          | 0 => x == y
          | 1 => x != y
          | 2 => decide (x < y)
          | _ => decide (x ≤ y)), noFlags)
    (if h then 2 ^ elemBits (viewType (i.view i.f.vd)) - 1 else 0, fl)

/-- VSEL. -/
def vopSel (f : FmtV) : VOp :=
  let t := f.t.toNat
  .map [t] (some [t]) [t] noDraw fun _ a b z _ => (if z.testBit (elemBits t - 1) then a else b, noFlags)

/-- Movement of elements bit for bit: the element (r, c) of vd from va, and from vb where the row names it; `rows` and
`cols` are those of vd, `ra` and `ca` those of va. -/
def vopMove (f : FmtV) (rows cols ra ca : VIn → Nat) (vb : VIn → List Use) (g : VIn → Tbl Byte → Nat → Nat → Nat) :
    VOp where
  uses i := [{ view := f.va, types := [f.t.toNat], rows := ra i, cols := ca i, src := true },
    { view := f.vd, types := [f.t.toNat], rows := rows i, cols := cols i, src := false }] ++ vb i
  limits _ := true
  run i t x := some (i.grid f.vd (rows i) (cols i) false (fun r c _ => (g i t r c, noFlags)) t x)

/-- VMOV and the broadcasts. -/
def vopBcast (f : FmtV) (oneRow oneCol : Bool) : VOp :=
  vopMove f VIn.rows VIn.cols (fun i => if oneRow then 1 else i.rows) (fun i => if oneCol then 1 else i.cols)
    (fun _ => []) fun i t r c => i.get t f.va (if oneRow then 0 else r) (if oneCol then 0 else c)

/-- VTRANS. -/
def vopTrans (f : FmtV) : VOp :=
  vopMove f VIn.cols VIn.rows VIn.rows VIn.cols (fun _ => []) fun i t r c => i.get t f.va c r

/-- VSLIDE. -/
def vopSlide (f : FmtV) : VOp :=
  vopMove f VIn.rows VIn.cols VIn.rows VIn.cols
    (fun i => [{ view := f.vb, types := [4], rows := i.rows, cols := 1, src := true }]) fun i t r c =>
    let k : Int := c + VType.value.toSignedBits 32 (i.get t f.vb r 0)
    if 0 ≤ k ∧ k < i.cols then i.get t f.va r k.toNat else 0

/-- VPERM. -/
def vopPerm (f : FmtV) : VOp :=
  vopMove f VIn.rows VIn.cols VIn.rows VIn.cols (fun i => [i.shape f.vb [1, 3, 5] true]) fun i t r c =>
    let j := i.get t f.vb r c
    if j < i.cols then i.get t f.va r j else 0

/-! ## Queues (R294, R306) -/

/-- The bytes of a queue row of the active shape. -/
def VIn.rowBytes (i : VIn) : Nat := (i.cols * elemBits i.f.t.toNat + 7) / 8

/-- VPOPQ. -/
def vopPop (f : FmtV) : VOp where
  uses i := [i.shape f.vd [f.t.toNat] false]
  limits i := decide (i.rowBytes ≤ 512) && decide (i.rows ≤ 16)
  run i t x :=
    let q := x.queue f.va.toNat
    if q.poppable < i.rows then none
    else
      let rows := q.rows.take i.rows
      let x := (List.range i.rows).foldl (fun x _ =>
        x.setQueue f.va.toNat ((x.queue f.va.toNat).pop (queueDepth f.va.toNat))) x
      let el (r : Nat) : List Nat :=
        unpackElems (elemBits f.t.toNat) i.cols (fitBytes i.rowBytes ((rows.map Row.bytes).getD r []))
      some (i.grid f.vd i.rows i.cols false (fun r c _ => ((el r).getD c 0, noFlags)) t x)

/-- Rows pushed into a queue. -/
def Ctx.pushRows (x : Ctx) (c : Nat) (l : List (List Byte)) : Ctx :=
  l.foldl (fun x b => x.setQueue c ((x.queue c).push b)) x

/-- The places free in a queue. -/
def Ctx.room (x : Ctx) (c : Nat) : Nat := queueDepth c - (x.queue c).rows.length

/-- VPUSHQ. -/
def vopPush (f : FmtV) : VOp where
  uses i := [i.shape f.va [f.t.toNat] true]
  limits i := decide (i.rowBytes ≤ 512) && decide (i.rows ≤ 16)
  run i t x :=
    if x.room f.vd.toNat < i.rows then none
    else
      some (t, x.pushRows f.vd.toNat ((List.range i.rows).map fun r =>
        packElems (elemBits f.t.toNat) ((List.range i.cols).map fun c => i.get t f.va r c)))

/-- VMAXD. -/
def vopMaxd (f : FmtV) (n : BitVec 2) : VOp where
  uses i := [i.shape f.va [f.t.toNat] true, i.shape f.vb [f.t.toNat] true, i.shape f.vd [f.t.toNat] false]
  limits i := decide (i.rows ≤ 16)
  run i t x :=
    let q := 8 + n.toNat
    let ty := f.t.toNat
    let wins (r c : Nat) : Bool := decide (elemInt ty (i.get t f.va r c) < elemInt ty (i.get t f.vb r c))
    if x.room q < i.rows then none
    else
      let entry (r : Nat) : List Byte :=
        leBytes ((i.cols + 7) / 8) (((List.range i.cols).map fun c => if wins r c then 2 ^ c else 0).sum)
      let x := x.pushRows q ((List.range i.rows).map entry)
      some (i.grid f.vd i.rows i.cols false (fun r c _ =>
        (if wins r c then i.get t f.vb r c else i.get t f.va r c, noFlags)) t x)

/-! ## Accumulators (R307, R308) -/

/-- The slab of a repetition. -/
def VIn.slab (i : VIn) : Nat := i.f.va.toNat * 4 + i.f.vb.toNat / 4 + i.rep
/-- The limits of major 0x28. -/
def VIn.slabLimits (i : VIn) : Bool := decide (i.rows ≤ 32) && decide (i.cols ≤ 256) && slabOk i.partw i.slab
/-- An element of the repetition's slab. -/
def VIn.slabGet (i : VIn) (t : Tbl Byte) (r c : Nat) : Nat := poolRead t (slabAddr i.partw i.slab r c) 4

/-- VACC, and VACC.z, which also clears what it drained. -/
def vopAcc (f : FmtV) (clear sat : Bool) (rm : BitVec 3) : VOp where
  uses i := [i.shape f.vd [f.t.toNat] false]
  limits := VIn.slabLimits
  run i t x :=
    let t' := if clear then
        (gridCells i.rows i.cols).foldl (fun t (r, c) => poolWrite t (slabAddr i.partw i.slab r c) 4 0) t
      else t
    some (i.grid f.vd i.rows i.cols (i.rm rm == .sr) (fun r c d =>
      convert (.flt .fp32) (vtypeOf f.t.toNat) i.ftz (sat || i.satf) (i.rm rm) d (i.slabGet t r c)) t' x)

/-- VACCW, and VACCW.add with its rounding. -/
def vopAccw (f : FmtV) (add : Option (BitVec 3)) : VOp where
  uses i := [i.shape f.vd [f.t.toNat] true]
  limits := VIn.slabLimits
  run i t x :=
    let fm := fmtOfType f.t.toNat
    let draws := match add with
      | some rm => i.rm rm == .sr
      | none => false
    let (xs, fl, l) := evalCells draws (fun r c d =>
      let v := fpValue fm i.ftz (i.get t f.vd r c)
      match add with
      | some rm =>
        let (s, fl) := addNum (i.rm rm) (fpValue .fp32 i.ftz (i.slabGet t r c)) v
        let (z, fl') := fpPut .fp32 i.ftz (i.rm rm) false d s
        (z, fl ||| fl')
      | none => convToFloat .fp32 i.ftz .rne false 0 v) (gridCells i.rows i.cols) x.e.lfsr
    some (xs.foldl (fun t (r, c, z) => poolWrite t (slabAddr i.partw i.slab r c) 4 z) t, x.vectorFlags fl l)

/-! ## The operation of a word -/

/-- The fields and the operation of a vector word. -/
def vopOf : Instr → Option (FmtV × VOp)
  | .vadd f => some (f, vopInt f fun _ _ x y => (x + y, noFlags))
  | .vsub f => some (f, vopInt f fun _ _ x y => (x - y, noFlags))
  | .vmul f => some (f, vopInt f fun _ _ x y => (x * y, noFlags))
  | .vmulh f => some (f, vopInt f fun w _ x y => (x * y / (2 ^ w : Nat), noFlags))
  | .vmin f => some (f, vopInt f fun _ _ x y => (if y < x then y else x, noFlags))
  | .vmax f => some (f, vopInt f fun _ _ x y => (if x < y then y else x, noFlags))
  | .vabs f => some (f, vopInt1 f fun x => x.natAbs)
  | .vneg f => some (f, vopInt1 f fun x => -x)
  | .vadds f => some (f, vopInt f fun w sgn x y => satInt (x + y) w sgn)
  | .vsubs f => some (f, vopInt f fun w sgn x y => satInt (x - y) w sgn)
  | .vavg f => some (f, vopInt f fun _ _ x y => ((x + y + 1) / 2, noFlags))
  | .vmaxd n f => some (f, vopMaxd f n)
  | .vand f => some (f, vopLogic f fun _ x y => x &&& y)
  | .vor f => some (f, vopLogic f fun _ x y => x ||| y)
  | .vxor f => some (f, vopLogic f fun _ x y => x ^^^ y)
  | .vandn f => some (f, vopLogic f fun w x y => x &&& (2 ^ w - 1 - y))
  | .vshl f => some (f, vopLogic f fun w x n => if w ≤ n then 0 else x <<< n)
  | .vshr f => some (f, vopLogic f fun w x n => if w ≤ n then 0 else x >>> n)
  | .vsar f => some (f, vopLogic f fun w x n =>
      intBits w (VType.value.toSignedBits w x / (2 ^ (if w ≤ n then w else n) : Nat)))
  | .vfadd rm f => some (f, vopFp f rm fun rm x y _ => addNum rm x y)
  | .vfsub rm f => some (f, vopFp f rm fun rm x y _ => addNum rm x y.neg)
  | .vfmul rm f => some (f, vopFp f rm fun _ x y _ => mulNum x y)
  | .vffma rm f => some (f, vopFp f rm fmaNum)
  | .vfdiv rm f => some (f, vopFp f rm fun _ x y _ => divNum x y)
  | .vfmin f => some (f, vopPick f false)
  | .vfmax f => some (f, vopPick f true)
  | .vexp2 rm f => some (f, vopSpecial f rm true fun i x y =>
      exp2Num x y (fpValue .fp32 i.ftz (bits i.vksc 0 32)))
  | .vlog2 rm f => some (f, vopSpecial f rm false fun _ x _ => log2Num x)
  | .vrcp rm f => some (f, vopSpecial f rm false fun _ x _ => divNum (.fin false 1 0) x)
  | .vrsqrt rm f => some (f, vopSpecial f rm false fun _ x _ => rsqrtNum x)
  | .vrsum rm f => some (f, vopSum f true rm)
  | .vrmax f => some (f, vopPickLine f true true)
  | .vrmin f => some (f, vopPickLine f true false)
  | .vcsum rm f => some (f, vopSum f false rm)
  | .vcmax f => some (f, vopPickLine f false true)
  | .vargmax f => some (f, vopReduce f true [4] noDraw fun i _ _ l => argmaxLine i f.t.toNat l)
  | .vcvt sat rm f => some (f, vopCvt f sat rm)
  | .vqmx f => some (f, vopQmx f)
  | .vdqmx sat rm f => some (f, vopDqmx f sat rm)
  | .vcmp cc f => some (f, vopCmp f cc)
  | .vsel f => some (f, vopSel f)
  | .vmov f => some (f, vopBcast f false false)
  | .vbcastRow f => some (f, vopBcast f false true)
  | .vbcastCol f => some (f, vopBcast f true false)
  | .vbcastOne f => some (f, vopBcast f true true)
  | .vpopq f => some (f, vopPop f)
  | .vpushq f => some (f, vopPush f)
  | .vtrans f => some (f, vopTrans f)
  | .vslide f => some (f, vopSlide f)
  | .vperm f => some (f, vopPerm f)
  | .vacc sat rm f => some (f, vopAcc f false sat rm)
  | .vaccZ sat rm f => some (f, vopAcc f true sat rm)
  | .vaccw f => some (f, vopAccw f none)
  | .vaccwAdd rm f => some (f, vopAccw f (some rm))
  | _ => none

end Sys2Proof.Machine
end

