-- ==== Sys2Proof/Machine/Vector.lean ====
section
/-! DEFINITION. Vector instructions, majors 0x20 to 0x28: how the E stream issues their repetitions and how the VE executes
them (R287, R288, R290). -/

namespace Sys2Proof.Machine

/-- A repetition of a pending word. -/
def VePend.vin (p : VePend) (f : FmtV) (rep : Nat) (partw : W64) : VIn :=
  { f, rep, vshape := p.vshape, vksc := p.vksc, fpctl := p.fpctl, vw := p.vw, partw }

/-- The word with its captured registers, as a word that begins or resumes at repetition k captures them. -/
def Ctx.capture (x : Ctx) (w : Insn) (pc : Int) (k : Nat) : VePend :=
  { word := w, pc, next := k, upto := k, more := true, vshape := x.vshape, vksc := x.vksc, fpctl := x.e.fpctl, vw := x.vw }

/-- The pending word whose repetition k the E stream issues next. -/
def Ctx.issuing (x : Ctx) (w : Insn) (pc : Int) (k : Nat) : Option VePend :=
  match x.ve.getLast? with
  | some p => if p.more && p.word == w && p.pc == pc && p.upto == k && k != 0 then some p else none
  | none => none

/-- The issue of repetition k: every check it needs, then its place in the VE (R287). -/
def issueRep (w : Insn) (f : FmtV) (op : VOp) (k : Nat) : M Unit := do
  let x ← curCtx
  let pc ← wordPc
  let held := x.issuing w pc k
  let p := held.getD (x.capture w pc k)
  M.check (op.ok (p.vin f k x.partw)) Cause.viewRange
  if held.isNone then M.await (x.ve.length < 16) .vector
  let p := { p with upto := k + 1, more := decide (k < f.rep.toNat) }
  modCtx fun x => { x with ve := (if held.isSome then x.ve.dropLast else x.ve) ++ [p] }

/-- A vector word with a stream check of its own. -/
def vectorChecked (checks : M Unit) (i : Instr) (s : State) : Host.Outcome State Fault Refusal :=
  match vopOf i, encode i with
  | some (f, op), some w => wordRep .eOnly checks f.pm f.rep.toNat (issueRep w f op) s
  | _, _ => .next s

/-- A vector word. -/
def vectorWord (i : Instr) (s : State) : Host.Outcome State Fault Refusal := vectorChecked (pure ()) i s

/-! ## The words -/

def execVadd (f : FmtV) (s : State) : Host.Outcome State Fault Refusal := vectorWord (.vadd f) s
def execVsub (f : FmtV) (s : State) : Host.Outcome State Fault Refusal := vectorWord (.vsub f) s
def execVmul (f : FmtV) (s : State) : Host.Outcome State Fault Refusal := vectorWord (.vmul f) s
def execVmulh (f : FmtV) (s : State) : Host.Outcome State Fault Refusal := vectorWord (.vmulh f) s
def execVmin (f : FmtV) (s : State) : Host.Outcome State Fault Refusal := vectorWord (.vmin f) s
def execVmax (f : FmtV) (s : State) : Host.Outcome State Fault Refusal := vectorWord (.vmax f) s
def execVabs (f : FmtV) (s : State) : Host.Outcome State Fault Refusal := vectorWord (.vabs f) s
def execVneg (f : FmtV) (s : State) : Host.Outcome State Fault Refusal := vectorWord (.vneg f) s
def execVadds (f : FmtV) (s : State) : Host.Outcome State Fault Refusal := vectorWord (.vadds f) s
def execVsubs (f : FmtV) (s : State) : Host.Outcome State Fault Refusal := vectorWord (.vsubs f) s
def execVavg (f : FmtV) (s : State) : Host.Outcome State Fault Refusal := vectorWord (.vavg f) s
def execVmaxd (n : BitVec 2) (f : FmtV) (s : State) : Host.Outcome State Fault Refusal := vectorWord (.vmaxd n f) s
def execVand (f : FmtV) (s : State) : Host.Outcome State Fault Refusal := vectorWord (.vand f) s
def execVor (f : FmtV) (s : State) : Host.Outcome State Fault Refusal := vectorWord (.vor f) s
def execVxor (f : FmtV) (s : State) : Host.Outcome State Fault Refusal := vectorWord (.vxor f) s
def execVandn (f : FmtV) (s : State) : Host.Outcome State Fault Refusal := vectorWord (.vandn f) s
def execVshl (f : FmtV) (s : State) : Host.Outcome State Fault Refusal := vectorWord (.vshl f) s
def execVshr (f : FmtV) (s : State) : Host.Outcome State Fault Refusal := vectorWord (.vshr f) s
def execVsar (f : FmtV) (s : State) : Host.Outcome State Fault Refusal := vectorWord (.vsar f) s
def execVfadd (rm : BitVec 3) (f : FmtV) (s : State) : Host.Outcome State Fault Refusal := vectorWord (.vfadd rm f) s
def execVfsub (rm : BitVec 3) (f : FmtV) (s : State) : Host.Outcome State Fault Refusal := vectorWord (.vfsub rm f) s
def execVfmul (rm : BitVec 3) (f : FmtV) (s : State) : Host.Outcome State Fault Refusal := vectorWord (.vfmul rm f) s
def execVffma (rm : BitVec 3) (f : FmtV) (s : State) : Host.Outcome State Fault Refusal := vectorWord (.vffma rm f) s
def execVfdiv (rm : BitVec 3) (f : FmtV) (s : State) : Host.Outcome State Fault Refusal := vectorWord (.vfdiv rm f) s
def execVfmin (f : FmtV) (s : State) : Host.Outcome State Fault Refusal := vectorWord (.vfmin f) s
def execVfmax (f : FmtV) (s : State) : Host.Outcome State Fault Refusal := vectorWord (.vfmax f) s
def execVexp2 (rm : BitVec 3) (f : FmtV) (s : State) : Host.Outcome State Fault Refusal := vectorWord (.vexp2 rm f) s
def execVlog2 (rm : BitVec 3) (f : FmtV) (s : State) : Host.Outcome State Fault Refusal := vectorWord (.vlog2 rm f) s
def execVrcp (rm : BitVec 3) (f : FmtV) (s : State) : Host.Outcome State Fault Refusal := vectorWord (.vrcp rm f) s
def execVrsqrt (rm : BitVec 3) (f : FmtV) (s : State) : Host.Outcome State Fault Refusal := vectorWord (.vrsqrt rm f) s
def execVrsum (rm : BitVec 3) (f : FmtV) (s : State) : Host.Outcome State Fault Refusal := vectorWord (.vrsum rm f) s
def execVrmax (f : FmtV) (s : State) : Host.Outcome State Fault Refusal := vectorWord (.vrmax f) s
def execVrmin (f : FmtV) (s : State) : Host.Outcome State Fault Refusal := vectorWord (.vrmin f) s
def execVcsum (rm : BitVec 3) (f : FmtV) (s : State) : Host.Outcome State Fault Refusal := vectorWord (.vcsum rm f) s
def execVcmax (f : FmtV) (s : State) : Host.Outcome State Fault Refusal := vectorWord (.vcmax f) s
def execVargmax (f : FmtV) (s : State) : Host.Outcome State Fault Refusal := vectorWord (.vargmax f) s
def execVcvt (sat : Bool) (rm : BitVec 3) (f : FmtV) (s : State) : Host.Outcome State Fault Refusal := vectorWord (.vcvt sat rm f) s
def execVqmx (f : FmtV) (s : State) : Host.Outcome State Fault Refusal := vectorWord (.vqmx f) s
def execVdqmx (sat : Bool) (rm : BitVec 3) (f : FmtV) (s : State) : Host.Outcome State Fault Refusal := vectorWord (.vdqmx sat rm f) s
def execVcmp (cc : BitVec 3) (f : FmtV) (s : State) : Host.Outcome State Fault Refusal := vectorWord (.vcmp cc f) s
def execVsel (f : FmtV) (s : State) : Host.Outcome State Fault Refusal := vectorWord (.vsel f) s
def execVmov (f : FmtV) (s : State) : Host.Outcome State Fault Refusal := vectorWord (.vmov f) s
def execVbcastRow (f : FmtV) (s : State) : Host.Outcome State Fault Refusal := vectorWord (.vbcastRow f) s
def execVbcastCol (f : FmtV) (s : State) : Host.Outcome State Fault Refusal := vectorWord (.vbcastCol f) s
def execVbcastOne (f : FmtV) (s : State) : Host.Outcome State Fault Refusal := vectorWord (.vbcastOne f) s
/-- The queue operand must be one the VE may use here (R306). -/
def execVpopq (f : FmtV) (s : State) : Host.Outcome State Fault Refusal :=
  vectorChecked (M.check (decide (f.va.toNat < 8)) Cause.stream) (.vpopq f) s
/-- The queue operand must be one the VE may use here (R306). -/
def execVpushq (f : FmtV) (s : State) : Host.Outcome State Fault Refusal :=
  vectorChecked (M.check (decide (8 ≤ f.vd.toNat) && decide (f.vd.toNat < 12)) Cause.stream) (.vpushq f) s
def execVtrans (f : FmtV) (s : State) : Host.Outcome State Fault Refusal := vectorWord (.vtrans f) s
def execVslide (f : FmtV) (s : State) : Host.Outcome State Fault Refusal := vectorWord (.vslide f) s
def execVperm (f : FmtV) (s : State) : Host.Outcome State Fault Refusal := vectorWord (.vperm f) s
def execVacc (sat : Bool) (rm : BitVec 3) (f : FmtV) (s : State) : Host.Outcome State Fault Refusal := vectorWord (.vacc sat rm f) s
def execVaccZ (sat : Bool) (rm : BitVec 3) (f : FmtV) (s : State) : Host.Outcome State Fault Refusal := vectorWord (.vaccZ sat rm f) s
def execVaccw (f : FmtV) (s : State) : Host.Outcome State Fault Refusal := vectorWord (.vaccw f) s
def execVaccwAdd (rm : BitVec 3) (f : FmtV) (s : State) : Host.Outcome State Fault Refusal := vectorWord (.vaccwAdd rm f) s

/-! ## The VE -/

/-- The engines of a context may act: it runs, or it is stopping and drains (R290). -/
def Ctx.drains (x : Ctx) : Bool := x.phase == .running || x.phase == .stopping

/-- The effect of the oldest issued repetition on the pool and the context; none where there is none or it waits. -/
def veRun (x : Ctx) (t : Tbl Byte) : Option (Tbl Byte × Ctx) :=
  match x.ve with
  | [] => none
  | p :: rest =>
    if p.next < p.upto then
      match decodeWord p.word with
      | .ok (.row i) =>
        match vopOf i with
        | some (f, op) =>
          (op.run (p.vin f p.next x.partw) t x).map fun (t, x) =>
            let p := { p with next := p.next + 1 }
            (t, { x with ve := if p.next = p.upto ∧ !p.more then rest else p :: rest })
        | none => some (t, { x with ve := rest })
      | _ => some (t, { x with ve := rest })
    else if p.more then none
    else some (t, { x with ve := rest })

/-- VE_REPETITION_EXECUTE (R288): the VE executes the oldest repetition that has been issued, once the
task's work may begin (R101). -/
def execVeRepetitionExecute (core : Nat) (s : State) : Host.Outcome State Fault Refusal :=
  let k := s.core core
  match k.ctx with
  | some x =>
    if x.drains && k.startAt.isNone then
      match veRun x k.sram with
      | some (t, x) => .next (s.setCore core ({ k with sram := t }.setCtx (some x)))
      | none => .next s
    else .next s
  | none => .next s

end Sys2Proof.Machine
end

