-- ==== Sys2Proof/Machine/Matrix.lean ====
section
/-! DEFINITION. Matrix commands and semaphores, majors 0x30 and 0x31: issue (R316 to R318), the ME's units and retirement
(R319 to R326, R331, R332), SEMSIG, SEMWAIT and MFENCE (R327 to R330). -/

namespace Sys2Proof.Machine

/-! ## Issue (R318) -/

/-- The slabs a command names are present. -/
def Ctx.slabsOk (x : Ctx) (f : FmtM) : Bool := slabOk x.partw (f.acc.toNat + slabCount f - 1)

/-- What each command leaves in the issue images: active and shadow. -/
def imageAfter (m : MCmd) (a b : StatImage) : StatImage × StatImage :=
  match m.fn with
  | 0 => (a, { fmt := some m.f.fmtb, sparse := m.f.ks.getLsbD 1, isSealed := m.f.ks.getLsbD 0 })
  | 1 => (b, a)
  | 4 => if m.f.ks.getLsbD 7 then (.empty, .empty) else (a, b)
  | _ => (a, b)

/-- A command as it is pushed: its slots assigned from the ring's read position. -/
def Ctx.newCmd (x : Ctx) (w : Insn) (pc : Int) (nslots nxq : Nat) : MCmd :=
  let m : MCmd :=
    { word := w, pc, started := false, wsTaken := false, slabs := 0, installed := 0, slot0 := 0, nslots, nxq,
      finished := false, refused := none }
  match m.ring with
  | some n =>
    let r := x.rgd.get 0 n
    { m with slot0 := (rgdHead r + x.readPos.get 0 n) % rgdSlots r }
  | none => m

/-- The push into mcq, which waits while it is full, and releases (R373, R377). -/
def pushCmd (w : Insn) (nslots nxq : Nat) : M Unit := do
  let pc ← curPc
  M.await ((← curCtx).mcq.length < 16) .mcq
  releaseStores
  modCtx fun x =>
    let m := x.newCmd w pc nslots nxq
    let (a, b) := imageAfter m x.imgAct x.imgShad
    { x with
      mcq := x.mcq ++ [m], imgAct := a, imgShad := b
      readPos := match m.ring with
        | some n => x.readPos.set 0 n (x.readPos.get 0 n + nslots)
        | none => x.readPos }

/-- MMUL and MMULS at issue. -/
def arrayWord (sparse : Bool) (f : FmtM) (s : State) : Host.Outcome State Fault Refusal :=
  word .eOnly (do
    let x ← curCtx
    let n := slabCount f
    let r := x.rgd.get 0 f.ra.toNat
    let k := fmtK f.fmtb
    M.check (x.slabsOk f) Cause.viewRange
    M.check (rgdOk r x.partw) Cause.ringRange
    M.check (x.imgAct.fmt == some f.fmtb && x.imgAct.sparse == sparse && !(sparse && f.ks.getLsbD 7 && x.imgAct.isSealed) &&
      decide (32 * rowLen k f.fmta ≤ rgdSlotBytes r) && decide (n ≤ rgdSlots r) && decide (actXq f.fmta k n ≤ 256))
      Cause.matrixCmd
    pushCmd (packM 0x30 (if sparse then 3 else 2) f) n (actXq f.fmta k n)) s

/-- MMUL (R324). -/
def execMmul (f : FmtM) (s : State) : Host.Outcome State Fault Refusal := arrayWord false f s
/-- MMULS (R325). -/
def execMmuls (f : FmtM) (s : State) : Host.Outcome State Fault Refusal := arrayWord true f s

/-- The slots an MLOADW reads. -/
def loadSlots (f : FmtM) (r : W64) : Nat :=
  (streamLen f.fmtb (f.ks.getLsbD 0) (f.ks.getLsbD 1) + rgdSlotBytes r - 1) / rgdSlotBytes r

/-- MLOADW (R322). -/
def execMloadw (f : FmtM) (s : State) : Host.Outcome State Fault Refusal :=
  word .eOnly (do
    let x ← curCtx
    let r := x.rgd.get 0 f.rb.toNat
    M.check (rgdOk r x.partw) Cause.ringRange
    M.check (decide (loadSlots f r ≤ rgdSlots r)) Cause.matrixCmd
    pushCmd (packM 0x30 0 f) (loadSlots f r) (statXq f.fmtb)) s

/-- MSWAP (R323). -/
def execMswap (f : FmtM) (s : State) : Host.Outcome State Fault Refusal :=
  word .eOnly (pushCmd (packM 0x30 1 f) 0 0) s

/-- MZERO (R326). -/
def execMzero (f : FmtM) (s : State) : Host.Outcome State Fault Refusal :=
  word .eOnly (do
    M.check ((← curCtx).slabsOk f) Cause.viewRange
    pushCmd (packM 0x30 4 f) 0 0) s

/-! ## The ME's units (R319) -/

/-- The command may start where it stands: its unit is free, every command it must follow has retired, and no earlier
command has met a fault (R332). -/
def Ctx.mayStart (x : Ctx) (idx : Nat) (m : MCmd) : Bool :=
  let earlier := x.mcq.take idx
  !m.finished && !(earlier.any fun e => e.refused.isSome) && m.refused.isNone &&
    (match m.fn with
      | 0 => !earlier.any fun e => e.fn == 0 || e.fn == 1
      | 1 => idx == 0
      | _ => !earlier.any fun e => e.fn != 0)

/-- A command of mcq replaced. -/
def Ctx.setCmd (x : Ctx) (idx : Nat) (m : MCmd) : Ctx := { x with mcq := x.mcq.set idx m }

/-- The semaphore of a command has a unit for it, or it needs none (R329). -/
def Ctx.wsReady (x : Ctx) (m : MCmd) : Bool :=
  m.f.ws.toNat == 0 || m.wsTaken || x.msem.get 0 m.f.ws.toNat != 0

/-- A command started: it takes its WS unit (R330). -/
def Ctx.startCmd (x : Ctx) (idx : Nat) (m : MCmd) : Ctx × MCmd :=
  let n := m.f.ws.toNat
  let taken := n = 0 ∨ m.wsTaken = true
  let m' := { m with started := true, wsTaken := m.wsTaken || n != 0 }
  ((if taken then x else { x with msem := x.msem.set 0 n (x.msem.get 0 n - 1) }).setCmd idx m', m')

/-- The xq entries of a command lie in reach (R321). -/
def Ctx.xqInReach (x : Ctx) (idx : Nat) (m : MCmd) : Bool := decide (x.xqDist idx + m.nxq ≤ 256)

/-- The slots and xq entries of a command lie in reach (R320, R321). -/
def Ctx.inReach (x : Ctx) (idx : Nat) (m : MCmd) : Bool :=
  (match m.ring with | some r => x.slotsInReach r idx m.nslots | none => true) && x.xqInReach idx m

/-- The context as it is when a command starts: an MLOADW first releases the slots that the shadow holds (R320). -/
def Ctx.beforeStart (x : Ctx) (shad : Stationary) (m : MCmd) : Ctx := if m.fn = 0 then x.releaseHeld shad else x

/-- The commands that are ready to start but for a unit of the semaphore (R330). -/
def Ctx.meAwaits (x : Ctx) (shad : Stationary) (n : Nat) : Nat :=
  x.mcq.zipIdx.countP fun (m, i) =>
    n != 0 && m.f.ws.toNat == n && !m.wsTaken && !m.started && x.mayStart i m && (x.beforeStart shad m).inReach i m

/-- The waits on a semaphore that come before a stream's own (R330). -/
def Ctx.semAhead (x : Ctx) (shad : Stationary) (ag : Agent) (n : Nat) : Nat :=
  x.meAwaits shad n + (match ag with | .a _ => if x.e.wait = some (.sem n) then 1 else 0 | _ => 0)

/-! ## Semaphores (R327, R328) -/

/-- The semaphore a word names. -/
def semOf (f : FmtP) : Nat := (f.imm.extractLsb' 0 5).toNat

/-- SEMSIG. -/
def execSemsig (f : FmtP) (s : State) : Host.Outcome State Fault Refusal :=
  word .ae (do
    streamCtlWait
    releaseStores
    let n := semOf f
    let v := (← curCtx).msem.get 0 n
    M.await (v < 0xFFFF) (.signal n)
    modCtx fun x => { x with msem := x.msem.set 0 n (v + 1) }) s

/-- SEMWAIT: the ME's commands that wait on the same semaphore, and before an A stream a waiting E stream, take their units first
(R330). -/
def execSemwait (f : FmtP) (s : State) : Host.Outcome State Fault Refusal :=
  word .ae (do
    let n := semOf f
    let ag ← curAgent
    let x ← curCtx
    let shad ← M.get fun s => (s.core ag.core).shad
    M.await (x.semAhead shad ag n < x.msem.get 0 n) (.sem n)
    modCtx fun x => { x with msem := x.msem.set 0 n (x.msem.get 0 n - 1) }) s

/-- MFENCE. -/
def execMfence (_f : FmtP) (s : State) : Host.Outcome State Fault Refusal :=
  word .eOnly (do M.await (← curCtx).mcq.isEmpty .matrix) s

/-- A load reads its stream into a stationary: its values, plane and scales, or the refused block. -/
def loadStat (keys : List (Nat × Nat)) (x : Ctx) (pool : Tbl Byte) (f : FmtM) (ring first n : Nat) (scales : List Byte) :
    Except Nat Stationary :=
  let isSealed := f.ks.getLsbD 0
  let sparse := f.ks.getLsbD 1
  match readStream keys f.fmtb isSealed sparse (x.slotBytes pool ring first n) with
  | .error e => .error e
  | .ok (vals, plane) =>
    .ok { fmt := some f.fmtb, sparse, isSealed, vals, scales, plane, source := some (ring, first, n) }

/-- Of the slots of a ring from one on, the first `len` bytes, slot after slot, hold an uncorrectable error (R332). -/
def Ctx.slotsBad (x : Ctx) (bad : Nat → Nat → Bool) (ring first len : Nat) : Bool :=
  let r := x.rgd.get 0 ring
  let size := rgdSlotBytes r
  (List.range ((len + size - 1) / size)).any fun i =>
    bad (bits x.partw 25 7 * 65536 + rgdBase r + (first + i) % rgdSlots r * size) (min size (len - i * size))

/-- The bytes of its slots that an MLOADW reads (R322), and those of one slab's slot that an array command reads (R314). -/
def MCmd.loadLen (m : MCmd) : Nat := streamLen m.f.fmtb (m.f.ks.getLsbD 0) (m.f.ks.getLsbD 1)
def MCmd.slabLen (m : MCmd) (k : Core) : Nat := 32 * rowLen k.act.k m.f.fmta

/-- What MEM_ERROR of the ME reports: cause and payload D (R332, R382). -/
def meError : Nat × Nat := (Cause.memError, 0x70)

/-- One step of a started MLOADW: its slots and scales there, it loads. `bad` tells the uncorrectable errors of the pool. -/
def stepLoad (keys : List (Nat × Nat)) (bad : Nat → Nat → Bool) (k : Core) (x : Ctx) (idx : Nat) (m : MCmd) : Core × Ctx :=
  let ring := m.f.rb.toNat
  let d := x.ringDist ring idx
  let xq := x.xqDist idx
  if !((List.range m.nslots).all fun j => x.slotFilled ring (d + j)) ∨ !x.xqReady xq m.nxq then (k, x)
  else if x.slotsBad bad ring m.slot0 m.loadLen then (k, x.setCmd idx { m with refused := some meError })
  else
    match loadStat keys x k.sram m.f ring m.slot0 m.nslots (x.xqBytes xq m.nxq) with
    | .ok t => ({ k with shad := t }, x.setCmd idx { m with finished := true })
    | .error b => (k, x.setCmd idx { m with refused := some (Cause.integrity, b) })

/-- mq entries that an MMULS.md has still to install (R325). -/
def MCmd.uninstalled (m : MCmd) (k : Core) : Nat := if m.fn = 3 ∧ m.f.ks.getLsbD 7 then k.act.k / 2 - m.installed else 0

/-- One entry of mq installed in the plane of the active stationary. -/
def installEntry (k : Core) (x : Ctx) (idx : Nat) (m : MCmd) : Core × Ctx × MCmd :=
  let q := x.queue 15
  match q.rows with
  | [] => (k, x, m)
  | r :: _ =>
    let m' := { m with installed := m.installed + 1 }
    ({ k with act := { k.act with plane := k.act.plane.set 0 m.installed (BitVec.ofNat 512 (ofBytes r.bytes)) } },
      (x.setQueue 15 (q.pop 64)).setCmd idx m', m')

/-- n entries of mq installed. -/
def installRest : Nat → Core → Ctx → Nat → MCmd → Core × Ctx
  | 0, k, x, _, _ => (k, x)
  | n + 1, k, x, idx, m => let (k, x, m) := installEntry k x idx m; installRest n k x idx m

/-- The mq install in progress completes where its rest stands in mq (R333). -/
def finishInstall (k : Core) (x : Ctx) : Core × Ctx :=
  match x.mcq.zipIdx.find? fun (m, _) => m.started && m.uninstalled k != 0 with
  | some (m, i) => if m.uninstalled k ≤ (x.queue 15).rows.length then installRest (m.uninstalled k) k x i m else (k, x)
  | none => (k, x)

/-- One step of a started MMUL or MMULS: an mq entry installed, or one slab. -/
def stepArray (bad : Nat → Nat → Bool) (k : Core) (x : Ctx) (idx : Nat) (m : MCmd) : Core × Ctx :=
  let f := m.f
  let ring := f.ra.toNat
  if m.uninstalled k ≠ 0 then
    let (k, x, _) := installEntry k x idx m
    (k, x)
  else
    let d := x.ringDist ring idx
    let per := if matIsMx f.fmta.toNat then k.act.k / 32 else 0
    let xq := x.xqDist idx
    if !x.slotFilled ring (d + m.slabs) ∨ !x.xqReady (xq + m.slabs * per) per then (k, x)
    else if x.slotsBad bad ring (m.slot0 + m.slabs) (m.slabLen k) ∨ bad (slabAddr x.partw (f.acc.toNat + m.slabs) 0 0) 32768 then
      (k, x.setCmd idx { m with refused := some meError })
    else
      let rows := x.slotBytes k.sram ring (m.slot0 + m.slabs) 1
      let (sram, fl) := k.act.accSlab x.partw (f.acc.toNat + m.slabs) f.fmta rows
        (x.xqBytes (xq + m.slabs * per) per) k.sram
      let n := m.slabs + 1
      ({ k with sram }, (x.setMx fl).setCmd idx { m with slabs := n, finished := decide (slabCount f ≤ n) })

/-- One step of an MZERO: one slab; the last also empties the stationaries with ST. -/
def stepZero (k : Core) (x : Ctx) (idx : Nat) (m : MCmd) : Core × Ctx :=
  let f := m.f
  let n := m.slabs + 1
  let k := { k with sram := zeroSlab x.partw (f.acc.toNat + m.slabs) k.sram }
  let x := x.setCmd idx { m with slabs := n, finished := decide (slabCount f ≤ n) }
  if slabCount f ≤ n ∧ f.ks.getLsbD 7 then
    ({ k with act := .empty, shad := .empty }, (x.releaseHeld k.act).releaseHeld k.shad)
  else (k, x)

/-- One stated step of a started command. -/
def stepCmd (keys : List (Nat × Nat)) (bad : Nat → Nat → Bool) (k : Core) (x : Ctx) (idx : Nat) (m : MCmd) : Core × Ctx :=
  match m.fn with
  | 0 => stepLoad keys bad k x idx m
  | 1 => ({ k with act := k.shad, shad := k.act }, x.setCmd idx { m with finished := true })
  | 4 => stepZero k x idx m
  | _ => stepArray bad k x idx m

/-- The words that a step of MZERO rewrites whole hold no error. -/
def State.zeroed (s : State) (core : Nat) (x : Ctx) (m : MCmd) : State :=
  if m.fn = 4 then s.sramRewritten core (slabAddr x.partw (m.f.acc.toNat + m.slabs) 0 0) 32768 else s

/-- ME_COMMAND_START (R319): the command at a place of mcq starts, where its unit is free, its semaphore has a unit and its slots and
entries lie in reach; and a started one makes its next stated step. An MLOADW that waits for no more than its slots empties the shadow first. -/
def execMeCommandStart (core entry : Nat) (s : State) : Host.Outcome State Fault Refusal :=
  let k := s.core core
  match k.ctx with
  | none => .next s
  | some x =>
    match x.mcq[entry]? with
    | none => .next s
    | some m =>
      if k.startAt.isSome ∨ x.phase ≠ .running ∨ !x.mayStart entry m ∨ !x.wsReady m ∨ (!m.started ∧ !x.xqInReach entry m) then .next s
      else
        let keys := (s.world x.world).wkGens
        let bad := s.sramBad core
        if m.started then
          let (k, x') := stepCmd keys bad k x entry m
          .next ((s.setCore core (k.setCtx (some x'))).zeroed core x m)
        else
          let k := if m.fn = 0 then { k with shad := .empty } else k
          let x := x.beforeStart (s.core core).shad m
          if !x.inReach entry m then .next (s.setCore core (k.setCtx (some x)))
          else
            let (x, m) := x.startCmd entry m
            let (k, x') := if m.fn = 0 then (k, x) else stepCmd keys bad k x entry m
            .next ((s.setCore core (k.setCtx (some x'))).zeroed core x m)

/-- What a finished command pops at its retirement: the slots of an array command, and its xq entries. -/
def Ctx.popCmd (x : Ctx) (m : MCmd) : Ctx :=
  let x := { x with mcq := x.mcq.drop 1 }
  let x := if m.fn = 2 ∨ m.fn = 3 then x.releaseSlots m.f.ra.toNat m.slot0 m.nslots else x
  let q := x.queue 14
  if m.nxq = 0 then x else x.setQueue 14 { head := (q.head + m.nxq) % 256, rows := q.rows.drop m.nxq }

/-- ME_COMMAND_RETIRE (R319): the head of mcq, once finished, retires: it pops and signals SS; a refused load at the
head faults the task (R332). -/
def execMeCommandRetire (core : Nat) (s : State) : Host.Outcome State Fault Refusal :=
  let k := s.core core
  match k.ctx with
  | none => .next s
  | some x =>
    match x.mcq with
    | [] => .next s
    | m :: _ =>
      if k.startAt.isSome ∨ x.phase ≠ .running then .next s
      else
        match m.refused with
        | some (cause, d) =>
          .next (s.raise (.core core) 3 { cause, c := w64 (pcField m.pc), d := w64 d, defer := false, log := none } 0)
        | none =>
          let n := m.f.ss.toNat
          let v := x.msem.get 0 n
          if !m.finished ∨ (n ≠ 0 ∧ v = 0xFFFF) then .next s
          else
            let x := x.popCmd m
            let x := if n = 0 then x else { x with msem := x.msem.set 0 n (v + 1) }
            .next (s.setCore core (k.setCtx (some x)))

end Sys2Proof.Machine
end

