-- ==== Sys2Proof/Machine/Migration.lean ====
section
/-! DEFINITION. The migration engine: MIGCMD (R362, R363), the motion state table (R137 to R147), hotness, live bits and the
error ring (R149, R155, R157), and the events of motion, links and scrubbing. -/

namespace Sys2Proof.Machine

def State.motion (s : State) (i : Nat) : Motion := s.motions.get .empty i
def State.setMotion (s : State) (i : Nat) (m : Motion) : State := { s with motions := s.motions.set .empty i m }

/-- The state's code in a record image. -/
def MotionState.code : MotionState → Nat
  | .free => 0
  | .copying => 1
  | .draining => 2
  | .committing => 3
  | .aborting => 4

/-- The lowest crumb of the block not yet copied. -/
def Motion.nextCrumb (m : Motion) : Option Nat := (List.range 512).find? fun c => !m.bitmap.getLsbD c

/-- The source and destination of a crumb's stored bytes; none where the unit stores nothing there. -/
def Motion.crumb (m : Motion) (blk c : Nat) : Option (Nat × Nat) :=
  let d := m.dpa + blk * 2 ^ 21 + c * 4096
  (m.leaves.find? fun l => decide (l.dst ≤ d) && decide (d < l.dst + l.len)).map fun l => (l.src + (d - l.dst), d)

/-- The bitmap of a block as its copying begins (R137). -/
def Motion.freshBitmap (m : Motion) (blk : Nat) : BitVec 512 :=
  (List.range 512).foldl (fun b c => if (m.crumb blk c).isNone then b ||| BitVec.ofNat 512 (2 ^ c) else b) 0

/-- The notice of a record (R70, R147): the block and crumb that failed, none for a motion that ended without a failure. -/
def State.motionNotice (s : State) (slot : Nat) (m : Motion) : State :=
  let quiet := m.stat == Stat.committed || m.stat == Stat.pteChanged || m.stat == Stat.cancelled || m.stat == Stat.reset
  let (blk, crumb) := if quiet then (0, 0) else m.failed
  s.postOrHold 0x05 0 0 1000 [w64 m.spa, w64 (m.stat + slot * 2 ^ 8 + crumb * 2 ^ 16 + blk * 2 ^ 25)] none

/-- Where a failure that names no crumb, as of a link, strikes a record: the crumb it would copy next (DESIGN CHOICE, log 66). -/
def Motion.here (m : Motion) : Nat × Nat := (m.cur, m.nextCrumb.getD 0)

/-! ## Leaves under motion (R143) -/

/-- A leaf as the engine compares it: without A and D. -/
def sansAD (e : W64) : W64 := e &&& ~~~ 0xC0

/-- The leaf still holds what the engine last wrote. -/
def MotionLeaf.same (s : State) (l : MotionLeaf) : Bool := sansAD (s.read64 l.pte) == sansAD l.value

/-- MOT replaced in a leaf. -/
def withMot (e : W64) (mot : Nat) : W64 := e &&& ~~~ 0x300 ||| w64 (mot * 2 ^ 8)
/-- The page address replaced in a leaf. -/
def withPa (e : W64) (pa : Nat) : W64 := e &&& ~~~ 0xFFFFFFFFF0000 ||| w64 pa

/-- A leaf updated by compare-and-swap, keeping A and D; unchanged where firmware has rewritten it. -/
def State.swapLeaf (s : State) (l : MotionLeaf) (f : W64 → W64) : MotionLeaf × State :=
  let s := s.dupSettle l.pte 8
  if l.same s then
    let e := f (s.read64 l.pte)
    ({ l with value := e }, s.write64 l.pte e)
  else (l, s)

/-- Every leaf of a unit updated so. -/
def State.swapLeaves (s : State) (m : Motion) (f : MotionLeaf → W64 → W64) : Motion × State :=
  let (ls, s) := m.leaves.foldl (fun (ls, s) l => let (l, s) := s.swapLeaf l (f l); (ls ++ [l], s)) ([], s)
  ({ m with leaves := ls }, s)

/-- The unit's translations dropped. -/
def State.dropUnit (s : State) (m : Motion) : State := s.invalidate m.world m.va m.size

/-! ## START (R140, R142) -/

/-- The leaf that an access to a page of the unit would use: one that a walk of the world accepts. -/
def unitLeaf (w : Nat) (f : Found) : Bool := leafOk f.leaf f.level && mayMap w (leafPA f.leaf (levelLo f.level))

/-- The valid entries of an L0 table, each read as a walk reads it; none where one faults: an entry other than VA's own, number `own`,
that no walk would accept refuses the unit as that one does (DESIGN CHOICE, log 66), but for a leaf of a device register, which has a
status of its own (R142). -/
def tableLeaves (s : State) (w tab own : Nat) : Option (List Found) :=
  ((List.range 32).mapM fun i =>
    match s.pteAt (tab + 8 * i) 0 with
    | .error _ => none
    | .ok e =>
      let f : Found := { leaf := e, ptePa := tab + 8 * i, level := 0, reads := [] }
      if !leafV e then some none
      else if bits e 52 12 == 0 && leafLeaf e && (unitLeaf w f || (i != own && leafOk e 0 && windowOf (leafPA e 16) == some Window.device)) then
        some (some f)
      else none).map
    (List.filterMap id)

/-- What a walk finds for a moving unit: its size and its leaves. A unit of an L0 table may have no valid leaf (DESIGN CHOICE,
log 66). -/
def unitLeaves (s : State) (w va : Nat) : Nat → Nat → Nat → Option (Nat × List Found)
  | 0, _, _ => none
  | fuel + 1, tab, lvl =>
    let pa := tab + 8 * ((va >>> levelLo lvl) % 2 ^ levelBits lvl)
    match s.pteAt pa lvl with
    | .error _ => none
    | .ok e =>
      let f : Found := { leaf := e, ptePa := pa, level := lvl, reads := [] }
      if !leafV e || bits e 52 12 != 0 then none
      else if leafLeaf e then (if unitLeaf w f then some (2 ^ levelLo lvl, [f]) else none)
      else if !tableOk e lvl then none
      else if lvl = 1 then (tableLeaves s w (nextTable e) (va / 2 ^ 16 % 32)).map fun l => (2 ^ 21, l)
      else unitLeaves s w va fuel (nextTable e) (lvl - 1)

/-- The unit of a request and the size it moves in; the device window is never translated (R106). -/
def unitOf (s : State) (w va : Nat) : Option (Nat × List Found) :=
  if !s.translates w || va >>> 48 == 0xFF then none else unitLeaves s w va 5 (s.rootOf w) 4

/-- Two byte ranges meet. -/
def meets (a b : Nat × Nat) : Bool := decide (a.1 < b.1 + b.2) && decide (b.1 < a.1 + a.2)

/-- The ranges a record occupies; of a lossy leaf the whole page, whose second half is not stored (R152; DESIGN CHOICE, log 66). -/
def Motion.ranges (m : Motion) : List (Nat × Nat) :=
  if m.st = .free then [] else (m.dpa, m.size) :: m.leaves.map fun l => (l.src, l.page)

/-- The record that a request asks for, or the status that refuses it. -/
def State.motionRequest (s : State) (l : List W64) : Nat ⊕ Motion :=
  let va := bits (wd l 0) 0 56
  let w := bits (wd l 0) 56 6
  let dpa := bits (wd l 1) 21 31 * 2 ^ 21
  if bits (wd l 0) 62 2 ≠ 0 ∨ bits (wd l 1) 52 12 ≠ 0 ∨ bits (wd l 1) 0 21 ≠ 0 ∨ bits (wd l 2) 21 43 ≠ 0 ∨ wd l 3 ≠ 0 ∨
      va % 2 ^ 21 ≠ 0 then .inl Status.badReq
  else
    match unitOf s w va with
    | none => .inl Status.badReq
    | some (size, fs) =>
      if va % size ≠ 0 then .inl Status.badReq
      else if fs.any fun f => leafMOT f.leaf != 0 || leafDUP f.leaf || !tiered (leafPA f.leaf (levelLo f.level)) then
        .inl Status.state
      else
        let leaves := fs.map fun f : Found =>
          let page := 2 ^ levelLo f.level
          { pte := f.ptePa, src := leafPA f.leaf (levelLo f.level),
            dst := if f.level = 0 then dpa + f.ptePa / 8 % 32 * 2 ^ 16 else dpa, page,
            len := if leafLOSSY f.leaf = 0 then page else page / 2, value := f.leaf : MotionLeaf }
        if dpa % size ≠ 0 ∨ !tiered dpa ∨ !tiered (dpa + size - 1) ∨ leaves.any fun l => meets (dpa, size) (l.src, l.page) then
          .inl Status.badDest
        else
          let m : Motion :=
            { st := .copying, va, spa := (leaves.head?.map MotionLeaf.src).getD 0, dpa, world := w, cur := 0,
              nblk := size / 2 ^ 21 - 1, stat := 0, fcr := 0, bitmap := 0,
              failed := (0, 0), inj := if (wd l 2).getLsbD 0 then some (bits (wd l 2) 10 11, bits (wd l 2) 1 9) else none, leaves, alone := false }
          if s.motions.any fun (_, o) => o.ranges.any fun r => m.ranges.any (meets r) then .inl Status.overlap
          else .inr { m with bitmap := m.freshBitmap 0 }

/-- The lowest FREE slot. -/
def State.freeSlot (s : State) : Option Nat := (List.range 256).find? fun i => (s.motion i).st == .free

/-- Writes still held for the pages of a unit, of either place, take effect (R128, R379). -/
def State.settleUnit (s : State) (m : Motion) : State := m.leaves.foldl (fun s l => (s.dupSettle l.src l.page).dupSettle l.dst l.page) s

/-- START: its status with the slot in bits [15:8]. -/
def State.motionStart (s : State) (l : List W64) : Nat × State :=
  match s.motionRequest l with
  | .inl st => (st, s)
  | .inr m =>
    match s.freeSlot with
    | none => (Status.busy, s)
    | some i =>
      let (m, s) := (s.settleUnit m).swapLeaves m fun _ e => withMot e 1
      (Status.ok + i * 2 ^ 8, s.setMotion i m)

/-! ## MIGCMD (R139, R363) -/

/-- The fault that an access by physical address meets (R136, R156, R159). -/
def State.physFault (s : State) (pa n : Nat) (read : Bool) : Option FaultInfo :=
  let f (cause : Nat) (log : Option Nat) : FaultInfo := { cause, c := w64 pa, d := w64 (7 <<< 4), defer := false, log }
  if s.tierDown pa || s.tierDown (pa + n - 1) then some (f Cause.tierDown none)
  else if read then (s.badGranule pa n).map fun g => f Cause.memError (some g)
  else none

/-- An access of a supervisor operation by physical address, whose faults are precise (R136). -/
def physOk (pa n : Nat) (read : Bool) : M Unit := do
  match (← get).physFault pa n read with
  | some f => throw (.fault f)
  | none => pure ()

/-- Bytes that a supervisor operation reads at a physical address. -/
def readPa (pa n : Nat) : M (List Byte) := do
  physOk pa n true
  M.step fun s => (s.readPhys pa n, s.touched pa n)

/-- Bytes that a supervisor operation writes at a physical address. -/
def storePa (pa : Nat) (l : List Byte) : M Unit := do
  physOk pa l.length false
  M.upd fun s => s.putPhys pa l

/-- A range of device memory of the module. -/
def installed (pa n : Nat) : Bool := tiered pa && tiered (pa + n - 1)

/-- A MIGCMD: its operands, then its status. -/
def migWord (second : Bool) (body : W64 → W64 → M Nat) (f : FmtP) (s : State) : Host.Outcome State Fault Refusal :=
  word .supervisor (do
    let a ← sreg f.a
    let b ← sreg f.b
    M.check (second || b == 0) Cause.badOperand
    releaseStores
    writeSreg f.d (w64 (← body a b))) s

/-- START (R142). -/
def execStart (f : FmtP) (s : State) : Host.Outcome State Fault Refusal :=
  migWord false (fun a _ => do
    if a.toNat % 32 ≠ 0 ∨ !installed a.toNat 32 then return Status.badReq
    let l ← readPa a.toNat 32
    M.step fun s => s.motionStart (wordsOf 4 l)) f s

/-- A physical address after a unit has moved. -/
def Motion.moved (m : Motion) (pa : Nat) : Nat :=
  match m.leaves.find? fun l => decide (l.src ≤ pa) && decide (pa < l.src + l.len) with
  | some l => l.dst + (pa - l.src)
  | none => pa

def BarRec.moved (m : Motion) (r : BarRec) : BarRec := { r with pa := m.moved r.pa }
def Stream.barMoved (m : Motion) (st : Stream) : Stream := { st with bar := st.bar.map (BarRec.moved m) }
def Ctx.barMoved (m : Motion) (x : Ctx) : Ctx := { x with a := x.a.barMoved m, e := x.e.barMoved m }

/-- Live barrier words and their waiters follow the unit. -/
def State.moveBarriers (s : State) (m : Motion) : State :=
  { s with
    barriers := s.barriers.foldl (fun t (k, b) => t.set none (m.moved (k * 8) / 8) b) [],
    cores := s.cores.map fun (c, k) =>
      (c, { k with bank0 := k.bank0.map (Ctx.barMoved m), bank1 := k.bank1.map (Ctx.barMoved m) }),
    threads := s.threads.map fun (t, x) => (t, x.map (Ctx.barMoved m)),
    saved := s.saved.map fun v => { v with ctx := v.ctx.map (Ctx.barMoved m) } }

/-- A record goes to ABORTING with a status and the block and crumb that failed (R143). -/
def State.abortMotion (s : State) (i stat : Nat) (failed : Nat × Nat) : State :=
  let m := s.motion i
  let s := if m.alone then s.moveBarriers { m with leaves := m.leaves.map fun l => { l with src := l.dst, dst := l.src } } else s
  let (m, s) := if m.st = .committing then s.swapLeaves m fun l e => withPa e l.src else (m, s)
  s.setMotion i { m with st := .aborting, stat, failed, alone := false }

/-- CANCEL. -/
def execCancel (f : FmtP) (s : State) : Host.Outcome State Fault Refusal :=
  migWord false (fun a _ => do
    if 255 < a.toNat then return Status.badReq
    let m ← M.get fun s => s.motion a.toNat
    match m.st with
    | .copying | .draining =>
      M.upd fun s => s.abortMotion a.toNat Stat.cancelled (0, 0)
      return Status.ok
    | .committing => return Status.late
    | _ => return Status.state) f s

/-- The record image (R141). -/
def Motion.image (m : Motion) : List W64 :=
  [w64 m.va, w64 m.spa, w64 m.dpa,
    w64 (m.fcr * 2 ^ 13 + m.stat * 2 ^ 22 + m.nblk * 2 ^ 30 + m.cur * 2 ^ 41 + m.world * 2 ^ 52 + m.st.code * 2 ^ 58)] ++
    (List.range 8).map fun i => m.bitmap.extractLsb' (64 * i) 64

/-- QUERY. -/
def execQuery (f : FmtP) (s : State) : Host.Outcome State Fault Refusal :=
  migWord true (fun a b => do
    if 255 < a.toNat ∨ !installed b.toNat 96 then return Status.badReq
    storePa b.toNat ((← M.get fun s => s.motion a.toNat).image.flatMap fun v => leBytes 8 v.toNat)
    return Status.ok) f s

/-- RELEASE. -/
def execRelease (f : FmtP) (s : State) : Host.Outcome State Fault Refusal :=
  migWord false (fun a _ => do
    if 255 < a.toNat then return Status.badReq
    let m ← M.get fun s => s.motion a.toNat
    if m.st = .aborting ∧ m.lost then
      M.upd fun s => s.setMotion a.toNat { m with st := .free, leaves := [] }
      return Status.ok
    return Status.state) f s

/-- LIVEMARK (R154, R155), a write of its block (R379). -/
def execLivemark (f : FmtP) (s : State) : Host.Outcome State Fault Refusal :=
  migWord true (fun a b => do
    let pa := a.toNat
    if 1 < b.toNat ∨ pa % 2 ^ 21 ≠ 0 then return Status.badReq
    match windowOf pa with
    | some (.t2 _) => return Status.badDest
    | some .t0 | some .t1 =>
      let s ← get
      if b = 0 then
        if s.motions.any fun (_, m) => m.ranges.any (meets (pa, 2 ^ 21)) then return Status.overlap
        M.upd fun s => let s := s.dupSettle pa (2 ^ 21); { s with dead := s.dead.set false (blockOf pa) true }
        return Status.ok
      else
        M.upd fun s => (s.dupSettle pa (2 ^ 21)).revive pa
        return Status.ok
    | _ => return Status.badReq) f s

/-- The hotness array cleared (R149): its whole granules, and the bytes of it in the two at its ends. -/
def State.clearHot (s : State) (base : Nat) : State :=
  let inside (g : Nat) : Bool := (s.hotCell base (g * 64)).isSome && (s.hotCell base (g * 64 + 63)).isSome
  let s : State :=
    { s with mem := s.mem.filter fun (x, _) => (s.hotCell base x).isNone || !inside (x / 64),
             enc := s.enc.filter fun (g, _) => !inside g, ecc := s.ecc.filter fun (g, _) => !inside g }
  let r := base % 64
  if r = 0 then s else (s.writePa base (List.replicate (64 - r) 0)).writePa (base + 9699328 - r) (List.replicate r 0)

/-- HOTCFG (R148, R149). SR above 12, and an array not wholly inside device memory, are refused with BAD_REQ, as are the other operands of
MIGCMD beyond what R139 gives: a request or buffer outside device memory, a live bit above 1, a ring of another size (DESIGN CHOICE,
log 66). -/
def execHotcfg (f : FmtP) (s : State) : Host.Outcome State Fault Refusal :=
  migWord true (fun a b => do
    if 12 < b.toNat ∨ !installed a.toNat 9699328 then return Status.badReq
    M.upd fun s =>
      { (s.dupSettle a.toNat 9699328).clearHot a.toNat with hotArray := some (a.toNat, b.toNat), hotReqs := [], hotSamples := [] }
    return Status.ok) f s

/-- ERRLOG (R157): the header stands as memory has it (DESIGN CHOICE, log 66). -/
def execErrlog (f : FmtP) (s : State) : Host.Outcome State Fault Refusal :=
  migWord true (fun a b => do
    if b.toNat < 6 ∨ 16 < b.toNat ∨ !installed a.toNat (64 + 32 * 2 ^ (b.toNat % 32)) then return Status.badReq
    M.upd fun s => { s with errRing := some (a.toNat, b.toNat) }
    return Status.ok) f s

/-! ## Events of motion -/

/-- Two places in T2 behind a link that is down. -/
def State.linkLost (s : State) (pa : Nat) : Bool :=
  match windowOf pa with
  | some (.t2 p) => s.linkDown.get false p
  | _ => false

/-- A source failure before the copy is whole (R143): every leaf LOST, in the PTE and where it is cached. -/
def State.loseMotion (s : State) (i crumb stat : Nat) : State :=
  let m := s.motion i
  let (m, s) := s.swapLeaves m fun _ e => withMot e 3
  let s := { s with tlb := s.tlb.map fun e : TlbEntry =>
    if e.world == m.world && m.leaves.any (fun l => l.pte == e.ptePa && leafMOT l.value == 3) then
      { e with leaf := withMot e.leaf 3 } else e }
  let m := { m with st := .aborting, stat, fcr := crumb, failed := (m.cur, crumb), alone := false }
  (s.setMotion i m).motionNotice i m

/-- A crumb's stored bytes moved as they are, with what they are encrypted under (R146). -/
def State.moveCrumb (s : State) (src dst : Nat) : State :=
  let live := !s.dead.get false (blockOf src)
  let bytes := if live then s.mem.filter fun (a, _) => decide (src ≤ a) && decide (a < src + 4096) else []
  let tags := if live then s.enc.filter fun (g, _) => decide (src / 64 ≤ g) && decide (g < (src + 4096) / 64) else []
  let s := (s.revive dst).clearRange dst 4096
  { s with mem := bytes.foldl (fun t (a, b) => t.set 0 (dst + (a - src)) b) s.mem,
           enc := tags.foldl (fun t (g, v) => t.set none (dst / 64 + (g - src / 64)) v) s.enc }

/-- The record after a crumb: the next block, or DRAINING after the last. -/
def Motion.advance (m : Motion) : Motion :=
  if m.nextCrumb.isSome then m
  else if m.cur < m.nblk then { m with cur := m.cur + 1, bitmap := m.freshBitmap (m.cur + 1) }
  else { m with st := .draining }

/-- CRUMB_COPY (R146): the next crumb of a COPYING record. -/
def execCrumbCopy (slot : Nat) (s : State) : Host.Outcome State Fault Refusal :=
  let m := s.motion slot
  if m.st ≠ .copying then .next s
  else
    match m.nextCrumb with
    | none => .next (s.setMotion slot m.advance)
    | some c =>
      match m.crumb m.cur c with
      | none => .next (s.setMotion slot { m with bitmap := m.bitmap ||| BitVec.ofNat 512 (2 ^ c) }.advance)
      | some (src, dst) =>
        let live := !s.dead.get false (blockOf src)
        if m.inj = some (m.cur, c) then .next (s.abortMotion slot Stat.injected (m.cur, c))
        else if s.linkLost dst then .next (s.abortMotion slot Stat.destLink (m.cur, c))
        else if s.linkLost src then .next (s.loseMotion slot c Stat.lostLink)
        else if live && (List.range 64).any fun g => s.ecc.get 0 (src / 64 + g) == 2 then
          .next (s.loseMotion slot c Stat.lostError)
        else
          let s := (s.dupSettle src 4096).dupSettle dst 4096
          let s := (List.range 64).foldl (fun s g =>
            if live && s.ecc.get 0 (src / 64 + g) == 1 then
              { (s.logError (src / 64 + g) 1) with ecc := s.ecc.set 0 (src / 64 + g) 0 } else s) s
          .next ((s.moveCrumb src dst).setMotion slot { m with bitmap := m.bitmap ||| BitVec.ofNat 512 (2 ^ c) }.advance)

/-- MOTION_COMMIT (R143): every access of a DRAINING record has been applied; the leaves pass to the destination. -/
def execMotionCommit (slot : Nat) (s : State) : Host.Outcome State Fault Refusal :=
  let m := s.motion slot
  let s := if m.st = .draining then s.settleUnit m else s
  if m.st ≠ .draining then .next s
  else if m.leaves.all (MotionLeaf.same s) then
    let (m, s) := s.swapLeaves m fun l e => withMot (withPa e l.dst) 0
    .next (s.setMotion slot { m with st := .committing })
  else .next (s.abortMotion slot Stat.pteChanged (0, 0))

/-- MOTION_COMPLETE (R143): the invalidation is complete, the source is released and the notice posted. -/
def execMotionComplete (slot : Nat) (s : State) : Host.Outcome State Fault Refusal :=
  let m := s.motion slot
  if m.st ≠ .committing then .next s
  else
    let s := ((s.settleUnit m).dropUnit m).moveBarriers m
    let m := { m with st := .free, stat := Stat.committed, leaves := [], alone := false }
    .next ((s.setMotion slot m).motionNotice slot m)

/-- MOTION_DEST_FAILURE (R143): of the link, or an error in a crumb of a block. -/
def execMotionDestFailure (slot : Nat) (where_ : Option (Nat × Nat)) (s : State) : Host.Outcome State Fault Refusal :=
  match (s.motion slot).st with
  | .copying | .draining | .committing =>
    .next (match where_ with
      | none => s.abortMotion slot Stat.destLink (s.motion slot).here
      | some (blk, crumb) => s.abortMotion slot Stat.destError (blk % 2 ^ 11, crumb % 2 ^ 9))
  | _ => .next s

/-- MOTION_SOURCE_FAILURE (R143): of the link, or an error in a crumb of the block; while the copy goes on, an error in a crumb
already copied is corrected from the destination. -/
def State.sourceFailure (s : State) (slot : Nat) (crumb : Option Nat) : State :=
  let m := s.motion slot
  let lose : State :=
    match crumb with
    | none => s.loseMotion slot (m.nextCrumb.getD 0) Stat.lostLink
    | some c => s.loseMotion slot (c % 2 ^ 9) Stat.lostError
  match m.st with
  | .copying => if crumb.any fun c => m.bitmap.getLsbD (c % 2 ^ 9) then s else lose
  | .aborting => if m.lost then s else lose
  | .draining | .committing => if m.alone then s else (s.moveBarriers m).setMotion slot { m with alone := true }
  | .free => s

def execMotionSourceFailure (slot : Nat) (crumb : Option Nat) (s : State) : Host.Outcome State Fault Refusal :=
  .next (s.sourceFailure slot crumb)

/-- MOTION_ABORT_COMPLETE (R143). -/
def execMotionAbortComplete (slot : Nat) (s : State) : Host.Outcome State Fault Refusal :=
  let m := s.motion slot
  if m.st ≠ .aborting ∨ m.lost then .next s
  else
    let (m, s) := s.swapLeaves m fun _ e => withMot e 0
    let m := { m with st := .free, leaves := [] }
    .next (((s.dropUnit m).setMotion slot m).motionNotice slot m)

/-! ## Links and scrubbing (R156, R159) -/

/-- A PA lies behind a CXL port. -/
def behind (port pa : Nat) : Bool := windowOf pa == some (.t2 port)

/-- T2_LINK_DOWN (R159): the destination row before the source row. -/
def execT2LinkDown (port : Nat) (s : State) : Host.Outcome State Fault Refusal :=
  if 2 ≤ port ∨ s.linkDown.get false port then .next s
  else
    let s := { s with linkDown := s.linkDown.set false port true }
    let s := s.logError ((2 ^ 44 + port * 2 ^ 43) / 64) 4
    .next (s.motions.keys.foldl (fun s i =>
      let m := s.motion i
      let s := if behind port m.dpa then
          (match m.st with | .copying | .draining | .committing => s.abortMotion i Stat.destLink m.here | _ => s) else s
      if m.st ≠ .free && m.leaves.any fun l => behind port l.src then s.sourceFailure i none else s) s)

/-- T2_LINK_UP (R159). -/
def execT2LinkUp (port : Nat) (s : State) : Host.Outcome State Fault Refusal :=
  .next { s with linkDown := s.linkDown.set false port false }

/-- MEMORY_SCRUB (R156): a granule of a live block is checked; a corrected error is logged and gone, an uncorrectable one
logged. -/
def execMemoryScrub (granule : Nat) (s : State) : Host.Outcome State Fault Refusal :=
  if s.dead.get false (blockOf (granule * 64)) then .next s
  else
    match s.ecc.get 0 granule with
    | 1 => .next { (s.logError granule 1) with ecc := s.ecc.set 0 granule 0 }
    | 2 => .next (s.logError granule 3)
    | _ => .next s

/-- DUP_WRITE_RELEASE (R128): every holder has acknowledged. -/
def execDupWriteRelease (page : Nat) (s : State) : Host.Outcome State Fault Refusal := .next (s.dupRelease page)

end Sys2Proof.Machine
end

