-- ==== Sys2Proof/Machine/Sync.lean ====
section
/-! DEFINITION. Fences, MARK, atomics and exact cells: majors 0x34, 0x36 and 0x37 (R337 to R344). -/

namespace Sys2Proof.Machine

/-! ## Fences

Every access of a stream is performed when its word executes, and every agent sees one order of memory (log 2), but for
the writes that a DUP page holds: a fence that covers device memory makes those visible (R128). -/

/-- A fence on the storage scope of MOD. -/
def fenceWord (f : FmtS) (s : State) : Host.Outcome State Fault Refusal :=
  wordIf .any f.pg (if storOf f.mod = 0 then pure () else releaseStores) s

/-- FENCE (R337). -/
def execFence (f : FmtS) (s : State) : Host.Outcome State Fault Refusal := fenceWord f s
/-- OFENCE (R338): it stalls nothing. -/
def execOfence (f : FmtS) (s : State) : Host.Outcome State Fault Refusal := wordIf .any f.pg (pure ()) s
/-- The streams and threads of the issuer's world within an agent scope. -/
def withinScope (ag : Agent) (scope : Nat) (other : Agent) : Bool :=
  match scope, ag, other with
  | 0, .np t, o => o == .np t
  | 1, .np t, o => o == .np t
  | 2, .np t, o => o == .np t
  | 0, _, .np _ => false
  | 1, _, .np _ => false
  | 2, _, .np _ => false
  | 0, a, o => a.core == o.core
  | 1, a, o => a.core / 4 == o.core / 4
  | 2, a, o => a.core / 32 == o.core / 32
  | _, _, _ => true
/-- The world that an agent's running task belongs to. -/
def State.agentWorld (s : State) (ag : Agent) : Option Nat := (s.ctx ag.place).map Ctx.world
/-- A context has a store or an atomic on its way to another module. -/
def Ctx.storesOut (x : Ctx) : Bool := (x.a.out ++ x.e.out).any fun o => o.kind != 1 && o.kind != 4
/-- A place lies within an agent's scope. -/
def placeWithin (ag : Agent) (scope : Nat) : Place → Bool
  | .core c => withinScope ag scope (.e c)
  | .thread t => withinScope ag scope (.np t)
/-- A stream of the world within the scope awaits the response of a store (R338): in a bank, on a thread or in a saved context. -/
def State.storesOut (s : State) (ag : Agent) (w scope : Nat) : Bool :=
  let due (p : Place) (x : Option Ctx) : Bool := placeWithin ag scope p && x.any fun x => x.world == w && x.storesOut
  (s.cores.any fun (c, k) => due (.core c) k.bank0 || due (.core c) k.bank1) || (s.threads.any fun (t, x) => due (.thread t) x) ||
    s.saved.any fun v => v.world == w && placeWithin ag scope (if v.core < 128 then .core v.core else .thread (v.core - 128)) &&
      v.late.any fun (_, o) => o.kind != 1 && o.kind != 4
/-- XFENCE (R338): a fence, within which every stream of its world in its scope makes its stores visible; it waits for those that are
on their way to another module. -/
def execXfence (f : FmtS) (s : State) : Host.Outcome State Fault Refusal :=
  wordIf .any f.pg (do
    let ag ← curAgent
    let w ← curWorld
    releaseStores
    M.upd fun s => s.dupReleaseIf fun d => d.held.any fun h =>
      h.ag.any fun o => s.agentWorld o == some w && withinScope ag (scopeOf f.mod) o
    M.await (!(← get).storesOut ag w (scopeOf f.mod)) .fence) s
/-- MARK (R339): accesses after it follow those before it, held writes included. -/
def execMark (f : FmtS) (s : State) : Host.Outcome State Fault Refusal := wordIf .any f.pg releaseStores s

/-! ## Atomics (R340 to R342) -/

/-- The new value of w bits from the old one, y and z; none where nothing is written (R340). -/
def atomicNew (op : AtomicOp) (w old y z : Nat) : Option Nat :=
  let less (a b : Nat) : Bool := decide (toSigned w a < toSigned w b)
  match op with
  | .add => some ((old + y) % 2 ^ w)
  | .and => some (old &&& y)
  | .or => some (old ||| y)
  | .xor => some (old ^^^ y)
  | .min => some (if less y old then y else old)
  | .max => some (if less old y then y else old)
  | .minn => some (if y < old then y else old)
  | .maxn => some (if old < y then y else old)
  | .swap => some y
  | .cas => if old = z then some y else none

/-- The release that an ordering code makes: 2 `.rel`, 3 `.ar` (R340). An acquire needs nothing more in this model's order
(log 2). -/
def releaseOf (ord : BitVec 2) : M Unit := releaseIf (ord.getLsbD 1)

/-- An atomic word (R341). -/
def atomicWord (op : AtomicOp) (ord : BitVec 2) (f : FmtS) (s : State) : Host.Outcome State Fault Refusal :=
  wordIf .any f.pg (do
    releaseOf ord
    let n := bytesOf f.sz
    let ea ← sreg f.a
    checkAligned ea n
    let y ← sreg f.b
    let z ← sreg f.c
    let acc ← streamAccess .atomic 3 false
    match ← resolve acc (storOf f.mod) ea n with
    | .remote m job va => issueRemote m job va (.atomic op (8 * n) y z) (.reg f.d.toNat n false) ea 3 0
    | t =>
      match ← rmwTarget acc n (fun l =>
          (atomicNew op (8 * n) (ofBytes l) (uintW (8 * n) y) (uintW (8 * n) z)).map (leBytes n)) t with
      | .ok old => writeSreg f.d (w64 (ofBytes old))
      | .error e => refuse e .none 0) s

def execAadd (ord : BitVec 2) (f : FmtS) (s : State) : Host.Outcome State Fault Refusal := atomicWord .add ord f s
def execAand (ord : BitVec 2) (f : FmtS) (s : State) : Host.Outcome State Fault Refusal := atomicWord .and ord f s
def execAor (ord : BitVec 2) (f : FmtS) (s : State) : Host.Outcome State Fault Refusal := atomicWord .or ord f s
def execAxor (ord : BitVec 2) (f : FmtS) (s : State) : Host.Outcome State Fault Refusal := atomicWord .xor ord f s
def execAmin (ord : BitVec 2) (f : FmtS) (s : State) : Host.Outcome State Fault Refusal := atomicWord .min ord f s
def execAmax (ord : BitVec 2) (f : FmtS) (s : State) : Host.Outcome State Fault Refusal := atomicWord .max ord f s
def execAminn (ord : BitVec 2) (f : FmtS) (s : State) : Host.Outcome State Fault Refusal := atomicWord .minn ord f s
def execAmaxn (ord : BitVec 2) (f : FmtS) (s : State) : Host.Outcome State Fault Refusal := atomicWord .maxn ord f s
def execAswap (ord : BitVec 2) (f : FmtS) (s : State) : Host.Outcome State Fault Refusal := atomicWord .swap ord f s
def execAcas (ord : BitVec 2) (f : FmtS) (s : State) : Host.Outcome State Fault Refusal := atomicWord .cas ord f s

/-! ## Exact cells (R343, R344) -/

/-- The bytes of a cell. -/
def Cell.ofBytes (l : List Byte) : Cell := Cell.ofBits (BitVec.ofNat 256 (Machine.ofBytes l))
def Cell.bytes (c : Cell) : List Byte := leBytes 32 c.toBits.toNat

/-- One indivisible step on the cell at sreg(a), all of whose bytes it reads and writes (R343); `done` takes the cell as it was. -/
def cellStep (ord : BitVec 2) (f : FmtS) (g : Cell → Cell) (done : Cell → M Unit) : M Unit := do
  releaseOf ord
  let ea ← sreg f.a
  checkAligned ea 32
  let acc ← streamAccess .atomic 3 false
  let t ← resolve acc 1 ea 32
  match ← rmwTarget acc 32 (fun l => some (g (Cell.ofBytes l)).bytes) t with
  | .ok old => done (Cell.ofBytes old)
  | .error e => refuse e .none 0

/-- AFXINIT. -/
def execAfxinit (ord : BitVec 2) (f : FmtS) (s : State) : Host.Outcome State Fault Refusal :=
  wordIf .any f.pg (do
    let e ← sreg f.b
    cellStep ord f (fun _ => { s := 0, e := e.setWidth 32, flags := 0 }) fun _ => pure ()) s

/-- AFXADD. -/
def execAfxadd (ord : BitVec 2) (f : FmtS) (s : State) : Host.Outcome State Fault Refusal :=
  wordIf .any f.pg (do
    let fm : Fmt := if f.sz = 2 then .fp32 else .bf16
    let x := fpDecode fm (← sreg f.b).toNat
    cellStep ord f (fun c => c.add x) fun _ => pure ()) s

/-- The result of AFXRD in the format of SZ. -/
def Cell.rounded (c : Cell) (fm : Fmt) : W64 := w64 (fpPut fm false .rne false 0 c.value.exact).1

/-- AFXRD and AFXRD.clr; without `.clr` the cell is written as it was. -/
def cellRead (clear : Bool) (ord : BitVec 2) (f : FmtS) (s : State) : Host.Outcome State Fault Refusal :=
  wordIf .any f.pg (do
    cellStep ord f (fun c => if clear then { c with s := 0, flags := 0 } else c) fun c => do
      writeSreg f.d (c.rounded (fmtOf f.sz))
      writeSreg f.c (c.flags.setWidth 64)) s

def execAfxrd (ord : BitVec 2) (f : FmtS) (s : State) : Host.Outcome State Fault Refusal := cellRead false ord f s
def execAfxrdClr (ord : BitVec 2) (f : FmtS) (s : State) : Host.Outcome State Fault Refusal := cellRead true ord f s

end Sys2Proof.Machine
end

