-- ==== Sys2Proof/Machine/Tags.lean ====
section
/-! DEFINITION. Counters and readiness tags: majors 0x38 and 0x39 (R350 to R353). -/

namespace Sys2Proof.Machine

/-! ## Counters -/

/-- The counter an operand names, checked (R350). -/
def counterOperand (v : W64) : M Nat := do
  M.check (v.toNat < 262144) Cause.badOperand
  M.check ((← get).mayCount (← curWorld) v.toNat) Cause.notOwned
  return v.toNat

/-- CTRADD (R350, R58). -/
def execCtradd (f : FmtP) (s : State) : Host.Outcome State Fault Refusal :=
  word .any (do
    let i ← counterOperand (← sreg f.a)
    releaseStores
    M.upd fun s => s.counterAdd i (f.imm.toNat % 64)) s

/-- CTRRD and CTRRD.acq (R350). -/
def execCtrrd (f : FmtP) (s : State) : Host.Outcome State Fault Refusal :=
  word .any (do
    let i ← counterOperand (← sreg f.a)
    writeSreg f.d ((← get).counter i).value) s

/-! ## Tags -/

/-- The lowest key from `i` on whose entry is free; an unlisted one is. -/
def lowestFree {α : Type} (free : α → Bool) : Nat → Tbl α → Nat
  | i, [] => i
  | i, (k, v) :: t => if i < k then i else if free v then k else lowestFree free (k + 1) t

/-- Tags of a world that are not FREE (R83). -/
def State.tagCount (s : State) (w : Nat) : Nat := s.tags.countP fun (_, t) => t.st != .free && t.world == w

/-- TAGALLOC (R351, R352, R82, R83). -/
def execTagalloc (f : FmtP) (s : State) : Host.Outcome State Fault Refusal :=
  word .any (do
    let a ← sreg f.a
    let b ← sreg f.b
    let len := bits b 0 25
    let scope := bits b 25 3
    M.check (bits a 0 6 == 0 && bits a 56 8 == 0 && decide (64 ≤ len) && decide (len ≤ 2 ^ 24) && len % 64 == 0 &&
      decide (scope ≤ 5) && bits b 50 14 == 0) Cause.badOperand
    let w ← curWorld
    let s ← get
    M.check (s.mayCount w f.imm.toNat) Cause.notOwned
    let i := lowestFree (fun t : Tag => t.st == .free) 0 s.tags
    if s.tagCount w < s.quota w 0 ∧ i < 131072 then
      let g := (s.tag i).gen
      M.upd fun s =>
        s.setTag i { gen := g, world := w, st := .allocated, scope, pv := false, pcore := 0, base := a.toNat, refs := 0, len }
      writeSreg f.d (normalHandle i g w)
    else writeSreg f.d (fallbackHandle f.imm.toNat (w64 (bits b 28 22)) w)) s

/-- A handle checked (R86): the counter of a fallback-form handle, or the tag of a normal-form one. A RETIRED tag has
passed every generation it was handed out with. -/
def tagOperand (h : W64) (count : Bool) : M (Nat ⊕ Nat) := do
  let w ← curWorld
  let s ← get
  if handleFallback h then
    M.check (handleHere h w) Cause.staleTag
    M.check (!count || s.mayCount w (handleFctr h)) Cause.notOwned
    return .inl (handleFctr h)
  else
    match s.liveTag h w with
    | some i =>
      M.check ((s.tag i).st != .retired) Cause.staleTag
      return .inr i
    | none => M.fault Cause.staleTag

/-- The copies a PUBL awaits (R84): those named when it began to wait, or now. -/
def publAwaits (w : Option Wait) (h : W64) : M (List Nat) := do
  let ag ← curAgent
  let x ← curCtx
  let s ← get
  return match w, ag with
    | some (.publ ids), _ => ids
    | _, .np _ => []
    | _, _ => s.coveredBy ag.core x.disp h x.world

/-- PUBL (R353, R84, R86): it waits for the copies it covers. -/
def execPubl (f : FmtP) (s : State) : Host.Outcome State Fault Refusal :=
  s.runBody do
    requireLegal .any
    let was := (← curStream).wait
    modStream Stream.advance
    let h ← sreg f.a
    let t ← tagOperand h true
    let ag ← curAgent
    match t with
    | .inl i =>
      releaseStores
      M.upd fun s => s.counterAdd i 1
    | .inr i =>
      let s ← get
      M.check ((s.tag i).st == .allocated) Cause.tagState
      let ids ← publAwaits was h
      M.await (!s.coverPending ag.core ids h (← curWorld)) (.publ ids)
      releaseStores
      M.upd fun s => s.publishTag i (match ag with | .np _ => none | _ => some ag.core)

/-- Word 0 of a tag entry (R79). -/
def Tag.word0 (t : Tag) : W64 :=
  let st := match t.st with
    | .free => 0
    | .allocated => 1
    | .published => 2
    | .retired => 3
  w64 (t.gen.toNat * 2 ^ 40 + t.world * 2 ^ 34 + st * 2 ^ 32 + t.scope * 2 ^ 29 + (if t.pv then 2 ^ 28 else 0) +
    t.pcore * 2 ^ 21)

/-- TAGQRY (R353). -/
def execTagqry (f : FmtP) (s : State) : Host.Outcome State Fault Refusal :=
  word .any (do
    let h ← sreg f.a
    let w ← curWorld
    let s ← get
    if handleFallback h then
      M.check (handleHere h w) Cause.staleTag
      M.check (s.mayCount w (handleFctr h)) Cause.notOwned
      writeSreg f.d (s.counter (handleFctr h)).value
    else
      match s.liveTag h w with
      | some i => writeSreg f.d (s.tag i).word0
      | none => M.fault Cause.staleTag) s

/-- The records that wait on a tag of a generation are discarded (R88): resident or spilled, each with STALE_TAG in its
LASTC and a report to its world. -/
def State.discardWaiters (s : State) (i gen : Nat) : State :=
  let waits (words ext : List W64) : Bool := ((recSlots words ext).map readSlot).any fun v => v == .tag i gen
  let gone := s.pool.filter fun r => waits r.words r.ext
  let s := { s with pool := s.pool.filter fun r => !waits r.words r.ext }
  let s := gone.foldl (fun s r => (s.dropRefs r.refs).refuse r.recva r.readWorld true r.world Cause.staleTag 0 0) s
  let lost := s.spilled.filter fun r => !r.dropped && r.refs.contains i
  let s := { s with spilled := s.spilled.map fun r => if r.refs.contains i then { r with dropped := true } else r }
  lost.foldl (fun s r => (s.dropRefs r.refs).refuse r.recva r.readWorld true r.world Cause.staleTag 0 0) s

/-- A tag freed by TAGFREE or by a partition reset keeps its next generation (R82). -/
def State.freeTag (s : State) (i : Nat) : State :=
  let t := s.tag i
  s.setTag i { t.freed with gen := t.gen + 2 }

/-- TAGFREE (R82, R86, R88). -/
def execTagfree (f : FmtP) (s : State) : Host.Outcome State Fault Refusal :=
  word .any (do
    match ← tagOperand (← sreg f.a) false with
    | .inl _ => pure ()
    | .inr i => M.upd fun s =>
        let t := s.tag i
        if t.st = .allocated then (s.discardWaiters i t.gen.toNat).freeTag i
        else if t.refs = 0 then s.freeTag i
        else s.setTag i { t with gen := t.gen + 2, st := .retired }) s

end Sys2Proof.Machine
end

