-- ==== Sys2Proof/Machine/Network.lean ====
section
/-! DEFINITION. Triggers and the network: major 0x3D (R359 to R361), sends (R55, R56), arming (R50, R66, R67), inbound
messages (R45 to R54), and the actions that launch, copy and send (R65). -/

namespace Sys2Proof.Machine

/-! ## Delivery descriptors (R49, R50) -/

def ddDk (l : List W64) : Nat := bits (wd l 0) 0 2
def ddCm (l : List W64) : Nat := bits (wd l 0) 2 2
def ddWorld (l : List W64) : Nat := bits (wd l 0) 4 6
def ddCore (l : List W64) : Nat := bits (wd l 0) 10 7
def ddCidx (l : List W64) : Nat := bits (wd l 0) 17 18
def ddRmaw (l : List W64) : Bool := (wd l 0).getLsbD 35
def ddRmar (l : List W64) : Bool := (wd l 0).getLsbD 36
def ddRmaa (l : List W64) : Bool := (wd l 0).getLsbD 37
def ddTsd (l : List W64) : Bool := (wd l 0).getLsbD 38
def ddLen (l : List W64) : Nat := bits (wd l 2) 0 40
def ddKey (l : List W64) : Nat := bits (wd l 3) 0 48

/-- An armed descriptor. -/
def State.ddescOf (s : State) (i : Nat) : Option (List W64) :=
  let l := s.ddesc.get [] i
  if l.isEmpty then none else some l

/-- A descriptor image may be armed by a thread of a world (R50). -/
def ddOk (s : State) (by_ : Nat) (l : List W64) : Bool :=
  let w := ddWorld l
  bits (wd l 0) 39 25 == 0 && ddCm l != 3 && (ddDk l == 1 || ddDk l == 2) &&
    (if ddDk l = 1 then bits (wd l 1) 23 41 == 0 else bits (wd l 1) 56 8 == 0) && bits (wd l 2) 40 24 == 0 &&
    bits (wd l 3) 48 16 == 0 && (w == by_ || by_ == 0) && (ddCm l == 0 || s.ownsCounter w (ddCidx l)) &&
    (ddDk l != 1 || (s.holdsCore w (ddCore l) && decide (bits (wd l 1) 0 23 + ddLen l ≤ 2 ^ 23)))

/-! ## Trigger entries (R60, R61, R66, R67) -/

/-- An image without the fields that are RO. -/
def trigImage (l : List W64) : List W64 :=
  let l := l.set 0 (w64 (bits (wd l 0) 0 32 + bits (wd l 0) 60 4 * 2 ^ 60))
  if (wd l 0).getLsbD 0 then l else l.set 1 (w64 (bits (wd l 1) 0 44))

/-- No refused code and no nonzero RES0 field. -/
def trigCodes (l : List W64) : Bool :=
  let w0 := wd l 0
  bits w0 60 4 == 0 && decide (bits w0 4 2 ≤ 1) && decide (trigAct l ≤ 4) &&
    (if w0.getLsbD 0 then
      bits (wd l 1) 18 46 == 0 && wd l 2 == 0 && wd l 3 == 0 && bits (wd l 5) 40 24 == 0 && wd l 7 == 0 &&
        ((bits w0 4 2 == 1) == (bits (wd l 5) 0 40 != 0))
     else bits (wd l 4) 20 44 == 0 && bits (wd l 4) 0 20 != 0 && wd l 5 == 0 && bits (wd l 7) 16 48 == 0)

/-- What TRGARM refuses as BAD_ENTRY. -/
def trigOk (s : State) (by_ : Nat) (l : List W64) : Bool :=
  let w := trigWorld l
  trigCodes l && (w == by_ || by_ == 0) &&
    (if (wd l 0).getLsbD 0 then s.ownsCounter w (trigCidx l)
     else match s.ddescOf (bits (wd l 7) 0 16) with
      | some d => ddWorld d == w && ddTsd d
      | none => false) &&
    (trigAct l != 2 || s.holdsCore w (trigCore l))

/-- Entries of a world that are not FREE. -/
def State.trigCount (s : State) (w : Nat) : Nat :=
  s.triggers.countP fun (_, t) => t.st != .free && trigWorld t.words == w

/-- Code of ST. -/
def TrigState.code : TrigState → Nat
  | .free => 0
  | .armed => 1
  | .firing => 2
  | .disarmed => 3

/-- Word 0 as it currently stands. -/
def Trigger.word0 (t : Trigger) : W64 :=
  w64 (bits (wd t.words 0) 0 32 + t.fires.toNat * 2 ^ 32 + t.missed % 1024 * 2 ^ 48 + t.st.code * 2 ^ 58)

/-- A word as TRGRD returns it. -/
def Trigger.word (t : Trigger) (i : Nat) : W64 :=
  match i with
  | 0 => t.word0
  | 1 => if trigCounter t then wd t.words 1 else w64 (bits (wd t.words 1) 0 44 + t.hits % 2 ^ 20 * 2 ^ 44)
  | i => wd t.words i

/-- A trigger image armed (R66, R67): its status, and the index on OK. -/
def State.armTrigger (s : State) (by_ : Nat) (img : List W64) : Nat × Option Nat × State :=
  let l := trigImage img
  let c := s.counter (trigCidx l)
  let i := lowestFree (fun t : Trigger => t.st == .free) 0 s.triggers
  let counterKeyed := (wd l 0).getLsbD 0
  if !trigOk s by_ l then (Status.badEntry, none, s)
  else if counterKeyed && decide (64 ≤ c.nwatch) then (Status.watchFull, none, s)
  else if s.quota (trigWorld l) 2 ≤ s.trigCount (trigWorld l) ∨ 32768 ≤ i then (Status.full, none, s)
  else
    let t : Trigger := { st := .armed, missed := 0, fires := 0, hits := 0, words := l, arm := s.nextId }
    let s := { s with nextId := s.nextId + 1 }.setTrigger i t
    let s := if counterKeyed then (s.setCounter (trigCidx l) { c with nwatch := c.nwatch + 1 }).trigCheck i else s
    (Status.ok, some i, s)

/-- A descriptor image armed (R50). -/
def State.armDesc (s : State) (by_ : Nat) (l : List W64) : Nat × Option Nat × State :=
  let i := lowestFree (fun d : List W64 => d.isEmpty) 0 s.ddesc
  if !ddOk s by_ l then (Status.badDesc, none, s)
  else if 65536 ≤ i then (Status.full, none, s)
  else (Status.ok, some i, { s with ddesc := s.ddesc.set [] i l })

/-- TRGARM of an image of n bytes (R361). -/
def armWord (n : Nat) (arm : State → Nat → List W64 → Nat × Option Nat × State) (f : FmtP) (s : State) :
    Host.Outcome State Fault Refusal :=
  word .npOnly (do
    let ea ← sreg f.a
    M.check (ea.toNat % n == 0) Cause.misaligned ea
    releaseStores
    let acc ← streamAccess .read 7 false
    let t ← resolve acc 1 ea n
    let l ← readNow acc n t
    let (st, i, s') := arm (← get) (← curWorld) (wordsOf (n / 8) l)
    set s'
    writeSreg f.d (w64 st)
    match i with
    | some i => writeSreg f.b (w64 i)
    | none => pure ()) s

def execTrgarmEntry (f : FmtP) (s : State) : Host.Outcome State Fault Refusal := armWord 64 State.armTrigger f s
def execTrgarmDesc (f : FmtP) (s : State) : Host.Outcome State Fault Refusal := armWord 32 State.armDesc f s

/-- The index of TRGDIS and TRGRD. -/
def indexOperand (f : FmtP) (n : Nat) : M Nat := do
  let i := (← sreg f.a).toNat
  M.check (i < n) Cause.badOperand
  return i

/-- A thread of a world may touch an object of another. -/
def mayTouch (by_ owner : Nat) : Bool := by_ == 0 || by_ == owner

/-- TRGDIS of an entry (R361, R67). -/
def execTrgdisEntry (f : FmtP) (s : State) : Host.Outcome State Fault Refusal :=
  word .npOnly (do
    let i ← indexOperand f 32768
    let t := (← get).trigger i
    if t.st = .free ∨ !mayTouch (← curWorld) (trigWorld t.words) then writeSreg f.d 0
    else
      M.upd fun s => (if t.st = .disarmed then s else s.unwatch t).setTrigger i Trigger.empty
      writeSreg f.d t.word0) s

/-- TRGDIS of a descriptor (R361). -/
def execTrgdisDesc (f : FmtP) (s : State) : Host.Outcome State Fault Refusal :=
  word .npOnly (do
    let i ← indexOperand f 65536
    match (← get).ddescOf i with
    | some l =>
      let w ← curWorld
      if mayTouch w (ddWorld l) then
        M.upd fun s => { s with ddesc := s.ddesc.set [] i [] }
        writeSreg f.d 1
      else writeSreg f.d 0
    | none => writeSreg f.d 0) s

/-- TRGRD of an entry (R361). -/
def execTrgrdEntry (f : FmtP) (s : State) : Host.Outcome State Fault Refusal :=
  word .npOnly (do
    let i ← indexOperand f 32768
    let t := (← get).trigger i
    writeSreg f.d (if t.st = .free ∨ !mayTouch (← curWorld) (trigWorld t.words) then 0
      else t.word (f.imm.extractLsb' 1 3).toNat)) s

/-- TRGRD of a descriptor (R361). -/
def execTrgrdDesc (f : FmtP) (s : State) : Host.Outcome State Fault Refusal :=
  word .npOnly (do
    let i ← indexOperand f 65536
    let w ← curWorld
    writeSreg f.d (match (← get).ddescOf i with
      | some l => if mayTouch w (ddWorld l) then wd l (f.imm.extractLsb' 1 3).toNat else 0
      | none => 0)) s

/-! ## NOTIFY (R359) -/

def execNotify (f : FmtP) (s : State) : Host.Outcome State Fault Refusal :=
  word .npOnly (do
    let a ← sreg f.a
    let v ← sreg f.b
    M.check (bits a 22 42 == 0) Cause.badOperand
    releaseStores
    let m := bits a 12 10
    if m = moduleNo then M.upd fun s => s.notify (bits a 0 12) v .here
    else
      awaitNonces (← curWorld) 1
      M.upd fun s => { s with outbox := s.outbox ++ [.notify m (bits a 0 12) v] }) s

/-! ## Sends (R55, R56) -/

def sdWorld (l : List W64) : Nat := bits (wd l 0) 39 6
def sdOpk (l : List W64) : Nat := bits (wd l 0) 36 3
def sdLva (l : List W64) : Nat := bits (wd l 3) 0 56
def sdLen (l : List W64) : Nat := bits (wd l 4) 0 30
def sdCcm (l : List W64) : Nat := bits (wd l 5) 18 2
def sdCcidx (l : List W64) : Nat := bits (wd l 5) 0 18

/-- A well-formed send descriptor of a sender's world. -/
def sdOk (s : State) (w : Nat) (l : List W64) : Bool :=
  bits (wd l 0) 49 15 == 0 && decide (bits (wd l 0) 45 4 ≤ 9) && decide (sdOpk l ≤ 3) && decide (bits (wd l 0) 34 2 ≤ 2) &&
    bits (wd l 2) 40 24 == 0 && bits (wd l 3) 56 8 == 0 && bits (wd l 4) 30 34 == 0 && bits (wd l 5) 20 44 == 0 &&
    sdCcm l != 3 && sdWorld l == w && (sdCcm l == 0 || s.ownsCounter w (sdCcidx l)) && (sdOpk l != 3 || sdLen l == 8)

/-- What a count mode adds for a message of len bytes (R52). -/
def countOf (cm len : Nat) : Nat :=
  match cm with
  | 1 => 1
  | 2 => (len + 63) / 64
  | _ => 0
/-- The increment, if there is one. -/
def State.count (s : State) (cm idx len : Nat) : State :=
  let n := countOf cm len
  if n = 0 then s else s.counterAdd idx n

/-- A malformed descriptor reported (R56, R382). -/
def State.badSend (s : State) (w va : Nat) (faulted : Bool) : State :=
  s.dieReport 0 Cause.badSend (w64 va) (if faulted then 1 else 0) (some w)

/-- An outbound slot is free (R46). -/
def State.outboundRoom (s : State) : Bool := decide (s.outbound.length < 131072)

/-- The source bytes of k packets of at most 4,096 bytes, as far as they can be read: the bytes of the packets formed, and the fault
that the next one met. -/
def State.formPackets (w : Nat) : Nat → Nat → Nat → State → List Byte × Option FaultInfo × State
  | 0, _, _, s => ([], none, s)
  | k + 1, va, n, s =>
    match s.readVa 7 w va (min n 4096) with
    | .error f => ([], some f, s)
    | .ok (b, s) =>
      let (l, f, s) := State.formPackets w k (va + min n 4096) (n - min n 4096) s
      (b ++ l, f, s)

/-- A message started (R56): its source bytes are read as its packets are formed. A fault there ends it in error, and the packets
before stand. None where its sender stalls for nonces (R171). -/
def State.startSend (s : State) (w : Nat) (l : List W64) : Option State :=
  let n := sdLen l
  let (bytes, bad, s) :=
    if 2 ≤ sdOpk l ∨ n = 0 then (([] : List Byte), (none : Option FaultInfo), s) else State.formPackets w (packets n) (sdLva l) n s
  let k := if bad.isSome then bytes.length / 4096 else if 2 ≤ sdOpk l then 1 else packets n
  match s.linkNonces w k with
  | (false, _) => none
  | (true, s) =>
    let out : List Output := if k = 0 then [] else [.message s.nextId l bytes]
    let s := { s with nextId := s.nextId + 1, outbox := s.outbox ++ out }
    match bad with
    | some f => some ((s.logFault f).dieReport 0 f.cause f.c f.d (some w))
    | none => some { s with outbound := s.outbound ++ [{ id := s.nextId - 1, world := w, desc := l }] }

/-- PKSEND (R360). -/
def execPksend (f : FmtP) (s : State) : Host.Outcome State Fault Refusal :=
  word .npOnly (do
    let va ← sreg f.a
    let w ← curWorld
    if va.toNat % 64 ≠ 0 then
      M.upd fun s => s.badSend w va.toNat false
      writeSreg f.d (w64 Status.badDesc)
    else
      let acc ← streamAccess .read 7 false
      let t ← resolve acc 1 va 64
      let l := wordsOf 8 (← readNow acc 64 t)
      if sdOk (← get) w l then
        M.await (← get).outboundRoom .outbound
        releaseStores
        match (← get).startSend w l with
        | some s' =>
          set s'
          writeSreg f.d (w64 Status.ok)
        | none => M.stall w
      else
        M.upd fun s => s.badSend w va.toNat false
        writeSreg f.d (w64 Status.badDesc)) s

/-! ## Trigger actions (R65) -/

/-- TRIGGER_LAUNCH: the record at OPND is submitted. -/
def execTriggerLaunch (entry : Nat) (s : State) : Host.Outcome State Fault Refusal :=
  match s.firedFor entry 1 with
  | none => .next s
  | some a =>
    let w := trigWorld a.words
    match s.submit { recva := trigOpnd a.words, readWorld := w, expect := some w } s.submits with
    | (.full, _) => .next s
    | (_, s) => .next (s.actionIssued a)

/-- TRIGGER_SEND: the descriptor at OPND is sent once an outbound slot is free. -/
def execTriggerSend (entry : Nat) (s : State) : Host.Outcome State Fault Refusal :=
  match s.firedFor entry 3 with
  | none => .next s
  | some a =>
    let w := trigWorld a.words
    let va := trigOpnd a.words
    if va % 64 ≠ 0 then .next ((s.badSend w va false).actionIssued a)
    else
      match s.readVa 7 w va 64 with
      | .error f => .next (((s.logFault f).badSend w va true).actionIssued a)
      | .ok (b, s') =>
        let l := wordsOf 8 b
        if !sdOk s' w l then .next ((s'.badSend w va false).actionIssued a)
        else if !s'.outboundRoom then .next s
        else
          match s'.startSend w l with
          | some s' => .next (s'.actionIssued a)
          | none => .next (s.exhausted w)

/-- The placement whose scratchpad a trigger copy reaches by the own window: that of the core's active task, where it is of the entry's
world (DEDUCED, log 12). -/
def Core.partwFor (k : Core) (world : Nat) : W64 :=
  match k.ctx with
  | some x => if x.world = world then x.partw else 0
  | none => 0

/-- The copy that a trigger copy block asks for (R284). -/
def triggerCopyOf (id world entry : Nat) (partw : W64) (words : List W64) : Copy :=
  let c := wd words 0
  let p : Copy :=
    { Copy.fresh id world (words.drop 8) with
      trigger := some entry, partw, uw := c.setWidth 16, sc := bits c 16 4, buf := some (bits c 20 8) }
  let ok := bits c 28 36 == 0 && ((words.take 8).drop 1).all (· == 0) && decide (bits c 16 4 ≤ 5) && uwOk p.uw && p.dk == 0
  if ok then p else { p with early := some (statusWord 2 0) }

/-- Copies of ended tasks and of triggers in a copy engine (R394). -/
def Core.orphans (k : Core) : Nat := k.copies.countP fun c => c.task.isNone

/-- TRIGGER_COPY (R65, R284): the block at OPND is read and the copy handed to CORE's copy engine. -/
def execTriggerCopy (entry : Nat) (s : State) : Host.Outcome State Fault Refusal :=
  match s.firedFor entry 2 with
  | none => .next s
  | some a =>
    let w := trigWorld a.words
    let core := trigCore a.words
    let va := trigOpnd a.words
    let partw := (s.core core).partwFor w
    let p := triggerCopyOf s.nextId w entry partw []
    if 64 ≤ (s.core core).orphans then .next s
    else if va % 64 ≠ 0 then
      .next ((s.copyReport core p Cause.misaligned (w64 va) (statusWord 1 Cause.misaligned)).actionIssued a)
    else
      match s.readVa 7 w va 128 with
      | .error f => .next (((s.logFault f).copyReport core p f.cause f.c (statusWord 1 f.cause)).actionIssued a)
      | .ok (b, s) => .next ((s.addCopy core (triggerCopyOf s.nextId w entry partw (wordsOf 16 b))).actionIssued a)

/-! ## Save areas, and banks that a delivery claims (R102, R168) -/

/-- The physical address of the save area of a core or thread and a world: its shadow slot, else the world's context area (log 18). -/
def State.areaPa (s : State) (u world : Nat) : Nat :=
  match (s.core u).shadow.find? fun (w, _) => w == world with
  | some (_, off, size) =>
    if u < 128 ∧ size ≠ 0 then shadowBase + u / 32 * 2 ^ 27 + off else Config.contextArea u world
  | none => Config.contextArea u world

/-- The key of an evicted bank. -/
def evictKey (core world bank : Nat) : Nat := core * 4096 + world * 64 + bank

/-- The tweak of granule g of an evicted bank (R168). -/
def bankTweak (core world bank g : Nat) : Nat := 2 ^ 127 + world % 64 * 2 ^ 24 + core % 128 * 2 ^ 17 + bank % 64 * 2 ^ 11 + g

/-- The granule of the save area that holds granule g of a bank. -/
def State.bankGranule (s : State) (c world bank g : Nat) : Nat := s.areaPa c world / 64 + Config.bankArea c world bank + g
/-- Under what it is written. -/
def State.bankTag (s : State) (c world bank g : Nat) : EncTag := .bank world (s.world world).keyNow (bankTweak c world bank g)

/-- The bytes of a granule deciphered as one of a bank, those that are not 0, by offset: what it was written with, or its bytes as
world 0 has them. -/
def State.bankBytes (s : State) (gr : Nat) (t : EncTag) : Tbl Byte :=
  if s.enc.get none ((s.sequenced (gr * 64)).1 / 64) = some t then s.granuleTbl gr (some t)
  else ((t.load (s.readPhys (gr * 64) 64)).zipIdx.filter fun (b, _) => b != 0).map fun (b, i) => (i, b)

/-- The bytes of a bank that its save area holds, by pool byte. -/
def State.savedBank (s : State) (c world bank : Nat) : Tbl Byte :=
  (List.range 2048).flatMap fun g =>
    (s.bankBytes (s.bankGranule c world bank g) (s.bankTag c world bank g)).map fun (i, b) => (bank * 2 ^ 17 + g * 64 + i, b)

/-- What filling granule g of a bank from a granule of memory does besides: samples and corrections; an uncorrectable error is reported
by its controller, and goes with the bytes (R149, R156, R173). -/
def State.fillGranule (s : State) (c bank g gr : Nat) : State :=
  let ws := s.badWords (gr * 64)
  let s := match s.badGranule (gr * 64) 64 with
    | some b => s.memError b
    | none => s
  (s.touched (gr * 64) 64).spoilPool c (bank * 2 ^ 17 + g * 64) ws

/-- Granules of a bank filled so, from a granule of memory on. -/
def State.fillGranules (s : State) (c bank gr : Nat) : State :=
  if s.ecc.isEmpty ∧ s.sramEcc.isEmpty ∧ s.hotArray.isNone then s
  else (List.range 2048).foldl (fun s g => s.fillGranule c bank g (gr + g)) s

/-- A bank with V = 0 claimed for a world: filled from the save area when it holds a copy. -/
def State.fillBank (s : State) (c world bank : Nat) : State :=
  let k := s.core c
  let sram : Tbl Byte := k.sram.filter fun (a, _) => a / 2 ^ 17 != bank
  let copy := s.evicted.get false (evictKey c world bank)
  let old := if copy then s.savedBank c world bank else []
  let sram := old.foldl (fun (m : Tbl Byte) (a, b) => m.set 0 a b) sram
  let s := (s.setCore c { k with sram, owner := k.owner.set 0 bank (64 + world) }).sramRewritten c (bank * 2 ^ 17) (2 ^ 17)
  { (if copy then s.fillGranules c bank (s.bankGranule c world bank 0) else s) with
    evicted := s.evicted.set false (evictKey c world bank) false }

/-- The banks of a run of pool bytes. -/
def bankRange (off n : Nat) : List Nat :=
  if n = 0 then [] else (List.range ((off + n - 1) / 2 ^ 17 - off / 2 ^ 17 + 1)).map fun i => off / 2 ^ 17 + i

/-- The banks made resident for a delivery, or none where another world's stands in the way. -/
def State.bankDelivery (s : State) (c world off n : Nat) : Option State :=
  (bankRange off n).foldl (fun s b =>
    match s with
    | none => none
    | some s =>
      let t := (s.core c).owner.get 0 b
      if t = 64 + world then some s else if t = 0 then some (s.fillBank c world b) else none) (some s)

/-! ## Landing (R51, R52) -/

/-- What becomes of bytes at a descriptor's region. -/
inductive Landed where
  /-- done, with the bytes read or the old value; whether a live barrier word was met -/
  | ok (bytes : List Byte) (barrier : Bool) (s : State)
  | retry
  | bad (f : FaultInfo) (s : State)

/-- What an operation needs of a leaf, and its bytes. -/
def rmaNeed : RmaKind → Need
  | .write _ => .write
  | .read _ => .read
  | .atomic _ _ _ _ => .atomic
def rmaSize (k : RmaKind) : Nat :=
  match k with
  | .write l => l.length
  | .read n => n
  | .atomic _ width _ _ => width / 8

/-- An operation of the UET engine at a target: a write that leaves live barrier words alone where it may, a read, or an atomic; with
the bytes read, and whether it met such a word. -/
def landOn (acc : Access) (kind : RmaKind) (skip : Bool) (t : Target) : M (List Byte × Bool) := do
  match kind with
  | .write l =>
    let hit ← M.get fun s => match t with | .mem _ segs => segs.any (Seg.touchesBarrier s) | _ => false
    writeNow acc skip l t
    return ([], hit)
  | .read n => return (← readNow acc n t, false)
  | .atomic op width x y =>
    match ← rmwTarget acc (width / 8) (fun l =>
      (atomicNew op width (ofBytes l) (x.toNat % 2 ^ width) (y.toNat % 2 ^ width)).map (leBytes (width / 8))) t with
    | .ok old => return (old, false)
    | .error f => throw (.fault f)

/-- The same as what becomes of it; no byte is no access. -/
def landed (kind : RmaKind) (m : M (List Byte × Bool)) (s : State) : Landed :=
  if rmaSize kind = 0 then .ok [] false s
  else
    match M.try m s with
    | .ok ((b, hit), s) => .ok b hit s
    | .error f => .bad f s

/-- An operation in a world's memory. -/
def landVa (s : State) (w va : Nat) (kind : RmaKind) (skip : Bool) : Landed :=
  let acc := polethAccess (rmaNeed kind) 7 w
  landed kind (do landOn acc kind skip (← resolve acc 1 (w64 va) (rmaSize kind))) s

/-- The same at a core's scratchpad. -/
def landPool (s : State) (w c off : Nat) (kind : RmaKind) : Landed :=
  match s.bankDelivery c w off (rmaSize kind) with
  | none => .retry
  | some s => landed kind (landOn (polethAccess (rmaNeed kind) 7 w) kind true (.pool c off off)) s

/-- The target of an offset in a descriptor's region. -/
def landAt (s : State) (d : List W64) (off : Nat) (kind : RmaKind) : Landed :=
  if ddDk d = 1 then landPool s (ddWorld d) (ddCore d) (bits (wd d 1) 0 23 + off) kind
  else landVa s (ddWorld d) (bits (wd d 1) 0 56 + off) kind true

/-! ## Responses to sends (R51, R56) -/

/-- Response bytes written packet by packet, up to the one that faults: the VA of the first packet that met a live barrier word, and the
fault. -/
def State.landResponse (w : Nat) : Nat → Nat → List Byte → State → Option Nat × Option FaultInfo × State
  | 0, _, _, s => (none, none, s)
  | k + 1, va, l, s =>
    match landVa s w va (.write (l.take 4096)) true with
    | .bad f s => (none, some f, s)
    | .retry => (none, none, s)
    | .ok _ hit s =>
      let (h, f, s) := State.landResponse w k (va + 4096) (l.drop 4096) s
      (if hit then some va else h, f, s)

/-- SEND_COMPLETION (R56): the final acknowledgement, or the response bytes, of an outbound message. Bytes landed before a local
fault stand; a live barrier word in the landing bytes keeps its value, and the message completes in error (R51, R348). -/
def execSendCompletion (id : Nat) (rsp : Response) (s : State) : Host.Outcome State Fault Refusal :=
  match s.outbound.find? fun m => m.id == id with
  | none => .next s
  | some m =>
    let s := { s with outbound := s.outbound.filter fun m => m.id != id }
    let n := sdLen m.desc
    match rsp with
    | .refusal => .next s
    | .data b =>
      if sdOpk m.desc < 2 ∨ n = 0 then .next (s.count (sdCcm m.desc) (sdCcidx m.desc) n)
      else
        match State.landResponse m.world (packets n) (sdLva m.desc) (fitBytes n b) s with
        | (none, none, s) => .next (s.count (sdCcm m.desc) (sdCcidx m.desc) n)
        | (some va, f, s) =>
          .next (((f.map s.logFault).getD s).dieReport 0 Cause.barrierWord (w64 va) 0 (some m.world))
        | (none, some f, s) => .next ((s.logFault f).dieReport 0 f.cause f.c f.d (some m.world))

def State.nack (s : State) (msg : Nat) (why : Nack) : State := { s with outbox := s.outbox ++ [.nack msg why] }
/-- An acknowledgement, or response bytes of a world, whose packets take nonces (R171). -/
def State.answer (s : State) (w msg : Nat) (b : List Byte) : State :=
  if b.isEmpty then { s with outbox := s.outbox ++ [.answer msg b] } else s.sendOut w (packets b.length) (.answer msg b)

/-- A message of an unbound JobID (R47). -/
def State.unbound (s : State) (msg job src : Nat) : State :=
  (s.dieReport 0 Cause.unbound 0 (landingD job src none) none).nack msg .invalidJob

/-- A message record replaced, or removed when every byte has arrived. -/
def State.putIn (s : State) (m : InMsg) : State :=
  let l := s.inbound.filter fun x => x.msg != m.msg
  { s with inbound := if m.len ≤ m.got then l else l ++ [m] }

/-- A message ends in error: its sender hears so once, and its world has the report. -/
def State.failMsg (s : State) (m : InMsg) (cause : Nat) (c d : W64) : State :=
  if m.failed || m.barrier then s else (s.dieReport 0 cause c d (some m.world)).nack m.msg .accessError

/-- The last byte has been written (R52): the descriptor counts, or the unmatched message is posted (R70). -/
def State.finishMsg (s : State) (m : InMsg) : State :=
  if m.got < m.len ∨ m.failed ∨ m.barrier then s
  else
    match m.overflow with
    | some va =>
      match (s.world m.world).rxovf with
      | some (_, _, cls, oqn) =>
        (s.post 0x01 m.world cls oqn
          [m.bits, w64 (m.job % 2 ^ 24 * 2 ^ 40 + m.src % 2 ^ 10 * 2 ^ 30 + m.len % 2 ^ 30), w64 va]).answer m.world m.msg []
      | none => s
    | none =>
      match m.desc with
      | some d => (s.count (ddCm d) (ddCidx d) m.len).answer m.world m.msg []
      | none => s.answer m.world m.msg []

/-- An unmatched message may be posted: its last packet waits for the quota otherwise (R71). -/
def State.mayPost (s : State) (m : InMsg) (n : Nat) : Bool :=
  m.overflow.isNone || m.got + n < m.len ||
    (match (s.world m.world).rxovf with | some (_, _, cls, _) => s.eventRoom m.world cls | none => true)

/-- Bytes of a message at an offset of its landing region. -/
def State.landPacket (s : State) (m : InMsg) (off : Nat) (l : List Byte) : State :=
  let n := l.length
  let m' := { m with got := m.got + n }
  if m.failed then s.putIn m'
  else if !s.mayPost m n then s.nack m.msg .retry
  else
    match m.overflow, m.desc with
    | some va, _ =>
      match landVa s m.world (va + off) (.write l) true with
      | .ok _ hit s =>
        let s := if hit then s.failMsg m Cause.barrierWord (w64 (va + off)) 0 else s
        let m' := { m' with barrier := m.barrier || hit }
        (s.putIn m').finishMsg m'
      | .retry => s.nack m.msg .retry
      | .bad f s => ((s.logFault f).failMsg m f.cause f.c f.d).putIn { m' with failed := true }
    | none, some d =>
      if ddLen d < off + n then
        (s.failMsg m Cause.landingError 0 (landingD m.job m.src m.ddi)).putIn { m' with failed := true }
      else
        match landAt s d off (.write l) with
        | .ok _ hit s =>
          let s := if hit then s.failMsg m Cause.barrierWord (w64 (bits (wd d 1) 0 56 + off)) 0 else s
          let m' := { m' with barrier := m.barrier || hit }
          (s.putIn m').finishMsg m'
        | .retry => (s.nack m.msg .retry).putIn m
        | .bad f s => ((s.logFault f).failMsg m f.cause f.c f.d).putIn { m' with failed := true }
    | none, none => s.putIn { m' with failed := true }

/-- Messages in flight inbound (R46): those in error have completed. -/
def State.inFlight (s : State) : Nat := s.inbound.countP fun m => !m.failed

/-- A packet's payload has 64 to 4,096 bytes; the last of a message may have fewer (R45, log 43). -/
def payloadOk (n : Nat) (last : Bool) : Bool := decide (n ≤ 4096) && (last || decide (64 ≤ n))

/-- A packet of n bytes received, `last` where its message ends with them: its world, with its packet delivery context open; or what
becomes of a packet that is not taken (R45 to R47, R53). -/
def State.receive (s : State) (h : Transport) (n : Nat) (last : Bool) : Except State (Nat × State) :=
  if h.unsupported || !payloadOk n last then .error (s.nack h.msg .unsupported)
  else if !h.crcOk then .error s
  else
    match s.jobWorld h.job with
    | none => .error (s.unbound h.msg h.job h.src)
    | some w =>
      match s.pdcs.get none h.pdc with
      | some _ => .ok (w, s)
      | none =>
        if 65536 ≤ s.pdcs.length then .error (s.nack h.msg .resource)
        else .ok (w, { s with pdcs := s.pdcs.set none h.pdc (some 0) })

/-- The context ends with its last packet. -/
def State.closePdc (s : State) (h : Transport) : State := if h.closes then { s with pdcs := s.pdcs.set none h.pdc none } else s

/-- A packet received and taken. -/
def State.arrival (s : State) (h : Transport) (n : Nat) (last : Bool) (take : Nat → State → State) : State :=
  match s.receive h n last with
  | .error s => s
  | .ok (w, s) => (take w s).closePdc h

/-- A message's record as it begins. -/
def InMsg.start (h : Transport) (w len : Nat) : InMsg :=
  { msg := h.msg, job := h.job, src := h.src, ddi := none, desc := none, world := w, len, got := 0, failed := false, barrier := false,
    overflow := none, bits := 0 }

/-- The armed descriptor that a memory key names, of the world and with the permission that an operation needs (R50). -/
def State.keyDesc (s : State) (w : Nat) (key : W64) (kind : RmaKind) : Option (List W64) :=
  match s.ddescOf (bits key 0 16) with
  | some d =>
    let allowed := match kind with
      | .write _ => ddRmaw d
      | .read _ => ddRmar d
      | .atomic _ _ _ _ => ddRmaa d
    if bits key 16 48 == ddKey d && ddWorld d == w && allowed then some d else none
  | none => none

/-- A data packet: of a message known, or the first to arrive of an RMA write. A later packet of a tagged send whose message is not known
is dropped, for its sender to send again (log 43). -/
def State.dataPacket (s : State) (p : DataPacket) (w : Nat) : State :=
  let off := (match p.key with | some (_, roff) => roff | none => 0) + p.off
  match s.inbound.find? fun m => m.msg == p.msg, p.key with
  | some m, _ => s.landPacket m off p.bytes
  | none, none => s
  | none, some (key, _) =>
    if 131072 ≤ s.inFlight then s.nack p.msg .retry
    else
      match s.keyDesc w key (.write p.bytes) with
      | some d => s.landPacket { InMsg.start p.toTransport w p.len with ddi := some (bits key 0 16), desc := some d } off p.bytes
      | none => s.nack p.msg .accessError

/-- UET_PACKET_ARRIVAL (R45, R47, R50, R51, R53): a packet of an RMA write, or a later one of a tagged send. -/
def execUetPacketArrival (p : DataPacket) (s : State) : Host.Outcome State Fault Refusal :=
  .next (s.arrival p.toTransport p.bytes.length (decide (p.len ≤ p.off + p.bytes.length)) fun w s => s.dataPacket p w)

/-! ## Tagged sends (R48, R62) -/

/-- An entry takes a message. -/
def Trigger.takes (t : Trigger) (w : Nat) (m : TaggedSend) : Bool :=
  !trigCounter t && (t.st == .armed || (t.st == .firing && trigPeriodic t)) && trigWorld t.words == w &&
    bits (wd t.words 1) 0 24 == m.job &&
    (w64 m.src ^^^ w64 (bits (wd t.words 1) 24 10)) &&& w64 (bits (wd t.words 1) 34 10) == 0 &&
    (m.bits ^^^ wd t.words 2) &&& wd t.words 3 == 0

/-- One hit counted (R62, R64). A firing's value, payload C of its event, is the hits that fired it (DESIGN CHOICE, log 46). -/
def State.hit (s : State) (i : Nat) : State :=
  let t := s.trigger i
  let h := t.hits + 1
  if h < bits (wd t.words 4) 0 20 then s.setTrigger i { t with hits := h }
  else if t.st = .firing then s.setTrigger i { t with hits := 0, missed := addMissed t.missed 1 }
  else (s.setTrigger i { t with hits := if trigPeriodic t then 0 else h }).fire i h

/-- Free bytes of a world's receive overflow region start here; it is empty again when no message in it is still to be
taken up (log 28). -/
def State.overflowFill (s : State) (w : Nat) : Nat :=
  if (s.inbound.any fun m => m.world == w && m.overflow.isSome) ||
      (s.events.any fun e => e.world == w && bits (wd e.words 0) 0 8 == 1) then (s.world w).rxFill else 0

/-- A message that no entry takes (R62); none where it is NACKed with retry. -/
def State.unmatched (s : State) (w : Nat) (m : TaggedSend) : Option State :=
  match (s.world w).rxovf with
  | none => none
  | some (va, len, cls, _) =>
    let fill := s.overflowFill w
    if len < fill + m.len ∨ !s.eventRoom w cls then none
    else
      some ((s.setWorld w { s.world w with rxFill := fill + m.len }).landPacket
        { InMsg.start m.toTransport w m.len with overflow := some (va + fill), bits := m.bits } m.off m.bytes)

/-- A tagged send matched by the first of its packets to arrive; none where it is NACKed with retry. A refused one is followed by its
later packets (R48). -/
def State.matchTagged (s : State) (w : Nat) (m : TaggedSend) : Option State :=
  if 131072 ≤ s.inFlight then none
  else
    match s.triggers.find? fun (_, t) => t.takes w m with
    | none => s.unmatched w m
    | some (i, t) =>
      let ddi := bits (wd t.words 7) 0 16
      let new := { InMsg.start m.toTransport w m.len with ddi := some ddi, bits := m.bits }
      let refused : State :=
        ((s.dieReport 0 Cause.landingError 0 (landingD m.job m.src (some ddi)) (some w)).nack m.msg .accessError).putIn
          { new with got := m.bytes.length, failed := true }
      match s.ddescOf ddi with
      | some d => some (if ddWorld d = w ∧ ddTsd d then (s.hit i).landPacket { new with desc := some d } m.off m.bytes else refused)
      | none => some refused

/-- A packet of a tagged send that carries its match bits: of a message known, or the first to arrive. Under ROD the messages of a
context are matched in their sending order; one that comes early is NACKed with retry (log 43). -/
def State.taggedPacket (s : State) (m : TaggedSend) (w : Nat) : State :=
  let next := (s.pdcs.get none m.pdc).getD 0
  match s.inbound.find? fun x => x.msg == m.msg with
  | some x => s.landPacket x m.off m.bytes
  | none =>
    if m.mode = .rod ∧ m.seq < next then s
    else if m.mode = .rod ∧ next < m.seq then s.nack m.msg .retry
    else
      match s.matchTagged w m with
      | none => s.nack m.msg .retry
      | some s => if m.mode = .rod then { s with pdcs := s.pdcs.set none m.pdc (some (next + 1)) } else s

/-- TAGGED_SEND_MATCH (R45, R47, R48, R62). -/
def execTaggedSendMatch (m : TaggedSend) (s : State) : Host.Outcome State Fault Refusal :=
  .next (s.arrival m.toTransport m.bytes.length (decide (m.len ≤ m.off + m.bytes.length)) fun w s => s.taggedPacket m w)

/-! ## RMA and domain-window accesses (R50, R54, R112) -/

/-- An RMA operation on an armed descriptor. -/
def State.rma (s : State) (w : Nat) (d : List W64) (q : RmaRequest) : State :=
  let n := rmaSize q.kind
  let ddi := bits q.key 0 16
  let fail (s : State) (cause : Nat) (c dd : W64) : State := (s.dieReport 0 cause c dd (some w)).nack q.msg .accessError
  if ddLen d < q.off + n then fail s Cause.landingError 0 (landingD q.job q.src (some ddi))
  else
    match landAt s d q.off q.kind with
    | .retry => s.nack q.msg .retry
    | .bad f s => fail (s.logFault f) f.cause f.c f.d
    | .ok b hit s =>
      if hit then fail s Cause.barrierWord (w64 (bits (wd d 1) 0 56 + q.off)) 0
      else
        match q.kind with
        | .read _ => s.answer w q.msg b
        | _ => (s.count (ddCm d) (ddCidx d) n).answer w q.msg b

/-- An RMA operation arrives (R45 to R47, R50): it takes an inbound slot until it is answered. -/
def State.rmaArrival (s : State) (q : RmaRequest) (extra : List W64 → Bool) : State :=
  s.arrival q.toTransport (match q.kind with | .write l => l.length | _ => 0) true fun w s =>
    if 131072 ≤ s.inFlight then s.nack q.msg .retry
    else
      match s.keyDesc w q.key q.kind with
      | some d => if extra d then s.rma w d q else s.nack q.msg .accessError
      | none => s.nack q.msg .accessError

/-- RMA_ACCESS: a write of one packet, or a read. -/
def execRmaAccess (q : RmaRequest) (s : State) : Host.Outcome State Fault Refusal :=
  match q.kind with
  | .atomic _ _ _ _ => .next s
  | _ => .next (s.rmaArrival q fun _ => true)

/-- RMA_ATOMIC (R54): on 8 aligned bytes. -/
def execRmaAtomic (q : RmaRequest) (s : State) : Host.Outcome State Fault Refusal :=
  match q.kind with
  | .atomic _ 64 _ _ =>
    .next (s.rmaArrival q fun d => (bits (wd d 1) 0 (if ddDk d = 1 then 23 else 56) + q.off) % 8 == 0)
  | .atomic _ _ _ _ => .next (s.nack q.msg .unsupported)
  | _ => .next s

/-- DOMAIN_REMOTE_ACCESS (R112): a peer's access under the translation of the world its JobID is bound to. -/
def execDomainRemoteAccess (q : DomainRequest) (s : State) : Host.Outcome State Fault Refusal :=
  match s.jobWorld q.job with
  | none => .next (s.unbound q.msg q.job q.src)
  | some w =>
    let aligned := match q.kind with
      | .atomic _ width _ _ => decide (q.va % (width / 8) = 0) && (width == 32 || width == 64)
      | _ => true
    if !aligned then .next (s.nack q.msg .accessError)
    else
      match landVa s w (q.va % 2 ^ 54) q.kind false with
      | .ok b _ s => .next (s.answer w q.msg b)
      | .retry => .next (s.nack q.msg .retry)
      | .bad f s => .next ((s.logFault f).nack q.msg .accessError)

end Sys2Proof.Machine
end

