-- ==== Sys2Proof/Machine/Image.lean ====
section
/-! DEFINITION. The context image: its layout (R391 to R394), what is written into one and read back out of one, and the
checks on it (R390). Images in a shadow slot are bytes of the device-register window (R391). -/

namespace Sys2Proof.Machine

/-! ## Places of images (R102, R391) -/

/-- The key under which threads stand beside cores in image places and RELCTX targets (R389). -/
def unitOfPlace : Place → Nat
  | .core c => c
  | .thread t => 128 + t
/-- The place of a unit number. -/
def placeOf (u : Nat) : Place := if u < 128 then .core u else .thread (u - 128)

/-- The physical address of a place of the save area of a unit and world (R391): place 1 of a slot at half its size; every other place
further on in the world's context area (log 18). -/
def State.placePa (s : State) (u world plc : Nat) : Nat :=
  match plc, (s.core u).shadow.find? fun (w, _) => w == world with
  | 0, _ => s.areaPa u world
  | 1, some (_, _, size) => if u < 128 ∧ size ≠ 0 then s.areaPa u world + size / 2 else Config.contextArea u world + 2 ^ 24
  | n, _ => Config.contextArea u world + n * 2 ^ 24

/-- Something saved for a unit and world stands at a place. -/
def State.placeTaken (s : State) (u world plc : Nat) (p : Saved → Bool) : Bool :=
  s.saved.any fun v => v.core == u && v.world == world && v.plc == plc && p v

/-- The first place beyond 0 and 1 that is free. -/
def State.furtherPlace (s : State) (u world : Nat) : Nat :=
  ((List.range (s.saved.length + 1)).find? fun n => !s.placeTaken u world (n + 2) fun _ => true).getD 0 + 2

/-- The place a context is saved to: 0 or 1 as R391 gives, or where another context stands there the first further one that is
free. -/
def State.freePlace (s : State) (u world plc : Nat) : Nat :=
  if s.placeTaken u world plc Saved.recorded then s.furtherPlace u world else plc

/-- The place of a loaded image: place 0 where nothing stands there, orphan copies included, else a further one (DESIGN CHOICE,
log 17). -/
def State.loadPlace (s : State) (u world : Nat) : Nat :=
  if s.placeTaken u world 0 fun _ => true then s.furtherPlace u world else 0

/-! ## Writing -/

/-- A piece of an image: its offset and bytes. -/
abbrev Piece := Nat × List Byte

def pieceW (off : Nat) (v : W64) : Piece := (off, leBytes 8 v.toNat)
def pieceT (off n : Nat) (t : Tbl W64) : List Piece := (List.range n).map fun i => pieceW (off + 8 * i) (t.get 0 i)

/-- Key check value (R393). -/
def keyCheck (world epoch : Nat) : W64 :=
  w64 (ofLe ((aesEnc ((leNats 64 (Config.memoryKey world epoch).toNat).take 32) (List.replicate 16 0)).take 8))
def State.mkcv (s : State) (world : Nat) : W64 := keyCheck world (s.world world).keyNow

def Exit.code : Exit → Nat
  | .running => 0
  | .ended => 1
  | .suspended => 2

/-- A stream state word (R393). -/
def Stream.stateWord (st : Stream) : W64 :=
  w64 (pcField st.pc + st.rpt % 2 ^ 12 * 2 ^ 17 +
    ((List.range 7).map fun i => if st.pred (i + 1) then 2 ^ (29 + i) else 0).sum +
    st.exit.code * 2 ^ 36 + (if st.bar.isSome then 2 ^ 38 else 0) + (if st.out.isEmpty then 0 else 2 ^ 39))

/-- The pieces of a stream: registers, state word, control registers and BAR record. -/
def Stream.pieces (st : Stream) (regs state fp bar : Nat) : List Piece :=
  ((List.range 64).map fun i => pieceW (regs + 8 * i) (st.reg i)) ++
    [pieceW state st.stateWord, pieceW fp st.fpctl, pieceW (fp + 8) st.fpstat, pieceW (fp + 16) (st.lfsr.setWidth 64),
      pieceW (fp + 24) (st.lfsr.extractLsb' 64 64)] ++
    (match st.bar with
    | some r => [pieceW bar r.va, pieceW (bar + 8) (r.phase.setWidth 64)]
    | none => [])

/-- A fault record's pieces. -/
def FaultRec.pieces (off : Nat) : Option FaultRec → List Piece
  | some r => [pieceW off r.b, pieceW (off + 8) r.c, pieceW (off + 16) r.d, pieceW (off + 24) r.e, pieceW (off + 32) r.f]
  | none => []

/-- Where a queue's slot stands and the stride of its entries (R392). -/
def queueBase (q : Nat) : Nat :=
  if q < 8 then 0x20000 + q * 0x2000 else if q < 12 then 0x30000 + (q - 8) * 0x2000
  else if q = 12 then 0x14200 else if q = 13 then 0x14300 else if q = 14 then 0x16000 else 0x18000
def queueStride (q : Nat) : Nat := if q < 12 then 512 else if q < 14 then 8 else if q = 14 then 32 else 64

/-- A queue's state word, row lengths and rows. -/
def Queue.pieces (q : Nat) (x : Queue) : List Piece :=
  let d := queueDepth q
  pieceW (0xB00 + 8 * q) (w64 (x.head + x.rows.length * 2 ^ 8)) ::
    x.rows.zipIdx.flatMap fun (r, j) =>
      let slot := (x.head + j) % d
      (queueBase q + queueStride q * slot, r.bytes) ::
        (if q < 12 then [(0xB80 + 2 * (16 * q + slot), leBytes 2 r.bytes.length)] else [])

/-- A VE entry (R394). -/
def VePend.pieces (off : Nat) (p : VePend) : List Piece :=
  [pieceW off (p.word.setWidth 64), pieceW (off + 8) (w64 (p.next % 2 ^ 12 + pcField p.pc * 2 ^ 12 + 2 ^ 63)),
    pieceW (off + 16) p.vshape, pieceW (off + 24) p.vksc, pieceW (off + 32) p.fpctl] ++ pieceT (off + 40) 16 p.vw

/-- A CE entry (R394). -/
def Copy.pieces (off : Nat) (orphan : Bool) (p : Copy) : List Piece :=
  let slots := p.slots.map fun r => (r.core % 4, r.slot)
  [pieceW off (w64 (1 + (if orphan then 2 else 0) + p.tag.getD 0 % 64 * 2 ^ 8 + p.buf.getD 0 % 256 * 2 ^ 14 + p.sc % 16 * 2 ^ 22 +
      p.uw.toNat * 2 ^ 26)),
    pieceW (off + 8) (w64 p.chunks), pieceW (off + 16) (w64 (p.padrows % 2 ^ 20 + p.crc.toNat * 2 ^ 32)),
    pieceW (off + 24) (w64 ((slots.map fun (j, k) => 2 ^ j + k % 256 * 2 ^ (8 + 8 * j)).sum)),
    pieceW (off + 32) (w64 (p.pushed % 2 ^ 16))] ++
    (List.range 8).map fun i => pieceW (off + 64 + 8 * i) (wd p.desc i)

/-- Orphan copies from an index on, in issue order. -/
def orphanPieces (l : List Copy) (first : Nat) : List Piece :=
  ((l.filter fun p => p.task.isNone).take (64 - first)).zipIdx.flatMap fun (p, i) => p.pieces (0x2000 + 128 * (64 + first + i)) true

/-- Every CE entry: a task's copies by tag, orphans in issue order. -/
def copyPieces (l : List Copy) : List Piece :=
  (l.flatMap fun p => match p.task, p.tag with
    | some _, some t => p.pieces (0x2000 + 128 * t) false
    | _, _ => []) ++ orphanPieces l 0

/-- The state word of a stationary; bit 28 on the shadow alone. -/
def Stationary.stateWord (t : Stationary) (abandoned : Bool) : W64 :=
  w64 ((match t.fmt with
      | some f =>
        f.toNat + 2 ^ 4 + (if t.sparse then 2 ^ 5 else 0) + (if t.isSealed then 2 ^ 6 else 0) +
          (if t.plane.isEmpty then 0 else 2 ^ 27) + (if matIsMx f.toNat then 2 ^ 29 else 0)
      | none => 0) +
    (match t.source with
      | some (r, first, n) => r * 2 ^ 7 + first % 256 * 2 ^ 10 + n % 512 * 2 ^ 18
      | none => 0) + (if abandoned then 2 ^ 28 else 0))

def Stationary.pieces (t : Stationary) (word plane scales : Nat) (abandoned : Bool) : List Piece :=
  pieceW word (t.stateWord abandoned) :: (scales, t.scales) ::
    t.plane.map fun (h, v) => (plane + 64 * h, leBytes 64 v.toNat)

/-- An abandoned MLOADW (R333): it has started, and has not loaded. -/
def MCmd.abandoned (m : MCmd) : Bool := m.fn == 0 && m.started && !m.finished

/-- An mcq entry; WS counts as taken for a command that has started and for an MSWAP that has completed (DEDUCED, log 32). -/
def MCmd.pieces (off xq : Nat) (m : MCmd) : List Piece :=
  [pieceW off (m.word.setWidth 64),
    pieceW (off + 8) (w64 (pcField m.pc + m.slabs % 128 * 2 ^ 17 + (if (if m.fn = 1 then m.finished else m.wsTaken || m.started) then 2 ^ 24 else 0) +
      m.installed % 512 * 2 ^ 25 + (match m.ring with | some _ => 2 ^ 34 + m.slot0 % 256 * 2 ^ 35 | none => 0))),
    pieceW (off + 16) (w64 (xq % 512))]

/-- ME progress. -/
def Ctx.mePieces (x : Ctx) : List Piece :=
  x.statAct.pieces 0x6000 0x8000 0x1A000 false ++ x.statShad.pieces 0x6008 0xC000 0x1B000 (x.mcq.any MCmd.abandoned) ++
    ((List.range 8).map fun n =>
      let r := x.rgd.get 0 n
      (0x6010 + n, [BitVec.ofNat 8 ((rgdHead r + x.readPos.get 0 n) % rgdSlots r)])) ++
    [pieceW 0x6018 (w64 (x.xqDist x.mcq.length % 512 + x.mcq.length % 32 * 2 ^ 16))] ++
    x.mcq.zipIdx.flatMap fun (m, i) => m.pieces (0x6400 + 32 * i) (x.xqDist i)

/-- Filled bits of a ring as 32 bytes. -/
def Ctx.filledPiece (x : Ctx) (n : Nat) : Piece :=
  (0x6C0 + 32 * n, leBytes 32 (x.filled.foldl (fun a (k, b) => if b && k / 256 == n then a + 2 ^ (k % 256) else a) 0))

/-- Header and control state but for IMGH and MKCV. -/
def Ctx.headPieces (x : Ctx) : List Piece :=
  [pieceW 0x008 (w64 x.recva), pieceW 0x010 x.argp, pieceW 0x018 x.partw, pieceW 0x020 x.hdr, pieceW 0x028 (w64 x.wdcnt)] ++
    FaultRec.pieces 0x040 x.primary ++ FaultRec.pieces 0x068 x.pending ++
    x.a.pieces 0x100 0x500 0x510 0xD00 ++ x.e.pieces 0x300 0x508 0x530 0xD10 ++
    [pieceW 0x550 x.mxstat, pieceW 0x558 x.vshape, pieceW 0x560 x.vksc] ++ pieceT 0x568 4 x.swait ++
    pieceT 0x600 16 x.vw ++ pieceT 0x680 8 x.rgd ++ (List.range 8).map x.filledPiece ++
    ((List.range 32).map fun i => (0x7C0 + 2 * i, leBytes 2 (x.msem.get 0 i))) ++
    [pieceW 0x800 x.ctb] ++ pieceT 0x808 8 x.ttd ++ pieceT 0x900 64 x.ctStatus ++
    (List.range 16).flatMap fun q => (x.queue q).pieces q

/-- The tag tables. -/
def Ctx.tagPieces (x : Ctx) : List Piece :=
  x.tt.map fun (k, e) =>
    pieceW (0x10000 + 8 * k) (w64 ((if e.valid then 1 else 0) + (if e.pending then 2 else 0) + e.rank % 8 * 2 ^ 2 + e.block % 2 ^ 47 * 2 ^ 5))

/-- Bytes of a run of pool units that are not 0, at an offset of an image (R25). -/
def unitPieces (pool : Tbl Byte) (base n off : Nat) : List Piece :=
  pool.filterMap fun (a, b) => if base * 65536 ≤ a ∧ a < (base + n) * 65536 then some (off + (a - base * 65536), [b]) else none

/-- The banks of a placement's scratchpad. -/
def scratchBanks (partw : W64) : List Nat := bankRange (bits partw 25 7 * 65536) (bits partw 32 8 * 65536)

/-- A context image: its pieces, the granules of its bank area with what they are encrypted under (R168), and its length. -/
structure Image where
  pieces : List Piece
  area : List (Nat × EncTag × Tbl Byte)
  len : Nat

/-- The bytes of a bank granule by granule, from a table in rising order. -/
def granuleRuns (bank : Nat) (pool : Tbl Byte) : List (Nat × Tbl Byte) :=
  let mine := pool.filter fun (a, _) => a / 2 ^ 17 == bank
  go mine 2048 0
where
  /-- The granules from g on. -/
  go (l : Tbl Byte) : Nat → Nat → List (Nat × Tbl Byte)
    | 0, _ => []
    | n + 1, g =>
      let (here, rest) := List.span (fun (a, _) => decide (a % 2 ^ 17 < (g + 1) * 64)) l
      (g, here.map fun (a, b) => (a % 64, b)) :: go rest n (g + 1)

/-- An image of a context, or of orphan copies alone; with BANKS its scratchpad banks too. -/
def State.imageOf (s : State) (u world : Nat) (x : Option Ctx) (copies : List Copy) (halted banks : Bool) : Image :=
  let partw := match x with | some x => x.partw | none => 0
  let regn := bits partw 7 5
  let accn := bits partw 19 6
  let k := if u < 128 then s.core u else Core.empty
  let list := if banks && u < 128 then scratchBanks partw else []
  let imgh := w64 (1 + world * 2 ^ 16 + (if u < 128 then u * 2 ^ 22 else 0) + moduleNo * 2 ^ 29 +
    (match x with | some x => if x.primary.isSome then 2 ^ 39 else 0 | none => 0) + (if halted then 2 ^ 40 else 0) +
    (if banks then 2 ^ 41 else 0))
  let head := match x with
    | some x =>
      x.headPieces ++ x.ve.zipIdx.flatMap (fun (p, i) => p.pieces (0x1000 + 256 * i)) ++ x.mePieces ++ x.tagPieces
    | none => []
  let owners := if u < 128 then (List.range 64).map fun b =>
      pieceW (0x14000 + 8 * b) (w64 (k.owner.get 0 b + (if list.contains b then 2 ^ 7 else 0))) else []
  let regs := unitPieces k.sram (bits partw 0 7) regn 0x40000 ++ unitPieces k.sram (bits partw 12 7) accn (0x40000 + regn * 65536)
  let off := 0x40000 + (regn + accn) * 65536
  { pieces := [pieceW 0 imgh, pieceW 0x030 (s.mkcv world)] ++ head ++ copyPieces copies ++ owners ++ regs
    area := list.zipIdx.flatMap fun (b, i) =>
      (granuleRuns b k.sram).map fun (g, l) => (off + i * 2 ^ 17 + 64 * g, s.bankTag u world b g, l)
    len := off + list.length * 2 ^ 17 }

/-- Pieces laid at a physical address. -/
def State.layPieces (s : State) (pa : Nat) (l : List Piece) : State := l.foldl (fun s (off, l) => s.writePa (pa + off) l) s

/-- Pieces written at a physical address into an image that stands there. -/
def State.writePieces (s : State) (pa : Nat) (l : List Piece) : State := l.foldl (fun s (off, l) => s.putPhys (pa + off) l) s

/-- An image written at a physical address, whole granules, every byte 0 but for its pieces and its bank area. -/
def State.writeImage (s : State) (pa : Nat) (img : Image) : State :=
  let s := (List.range (img.len / 64)).foldl (fun s i => s.putGranule (pa / 64 + i) none []) s
  let s := s.layPieces pa img.pieces
  (img.area.foldl (fun s (off, v, l) => s.putGranule ((pa + off) / 64) (some v) l) s).hotRequests pa img.len

/-- A granule copied as it stands, bytes of an evicted bank under the key that they were written with. -/
def State.copyGranule (s : State) (src dst : Nat) : State :=
  match s.enc.get none ((s.sequenced (src * 64)).1 / 64) with
  | some (.bank w e k) => s.putGranule dst (some (.bank w e k)) (s.granuleTbl src (some (.bank w e k)))
  | _ => s.putGranule dst none (s.granuleTbl src none)

/-- n granules copied from one physical address to another, where they are written. -/
def State.copyGranules (s : State) (src dst n : Nat) : State :=
  ((List.range n).foldl (fun s i => s.copyGranule (src / 64 + i) (dst / 64 + i)) s).hotRequests dst (64 * n)

/-! ## Reading -/

/-- The bytes of an image by offset. -/
abbrev ImageBytes := Nat → Byte

def State.imageAt (s : State) (pa : Nat) : ImageBytes := fun o => s.readByte (pa + o) none
def rdBytes (m : ImageBytes) (o n : Nat) : List Byte := (List.range n).map fun i => m (o + i)
def rdWord (m : ImageBytes) (o : Nat) : W64 := w64 (ofBytes (rdBytes m o 8))
def rdTable (m : ImageBytes) (o n : Nat) : Tbl W64 :=
  (List.range n).foldl (fun t i => t.set 0 i (rdWord m (o + 8 * i))) []
def zeroBytes (m : ImageBytes) (o n : Nat) : Bool := (List.range n).all fun i => m (o + i) == 0

def imgWorld (m : ImageBytes) : Nat := bits (rdWord m 0) 16 6
def imgCore (m : ImageBytes) : Nat := bits (rdWord m 0) 22 7
def imgBanks (m : ImageBytes) : Bool := (rdWord m 0).getLsbD 41

/-- A PC field back as a PC: the PC it was written from where that has this field. -/
def readPc (old : Int) (f : Nat) : Int := if pcField old = f then old else f

/-- The barrier word of a BAR record (R349): as recorded, or where the world's translation finds an edited one, of those that it may
reach (R106); 2^52, where no word stands, when it finds none. -/
def State.barPa (s : State) (world : Nat) (old : Option BarRec) (va : W64) : Nat :=
  match old with
  | some r => if r.va = va then r.pa else found
  | none => found
where
  /-- A walk of the world's tables. -/
  found : Nat :=
    if 0xFF ≤ va.toNat >>> 48 then 2 ^ 52
    else
      match walk s world va.toNat with
      | .ok f => s.barrierKey (leafPA f.leaf (levelLo f.level) + va.toNat % 2 ^ levelLo f.level) * 8
      | .error _ => 2 ^ 52

/-- A stream read back (R393). One with a BAR record executes its BAR again, which finds the record and names the destination
register (R349). -/
def State.readStreamImage (s : State) (m : ImageBytes) (world : Nat) (old : Stream) (regs state fp bar : Nat) : Stream :=
  let w := rdWord m state
  { old with
    regs := (List.range 63).foldl (fun t i => t.set 0 (i + 1) (rdWord m (regs + 8 * (i + 1)))) []
    preds := (List.range 7).foldl (fun t i => t.set false (i + 1) (w.getLsbD (29 + i))) []
    pc := readPc old.pc (bits w 0 17), rpt := bits w 17 12
    exit := match bits w 36 2 with | 0 => .running | 1 => .ended | _ => .suspended
    fpctl := rdWord m fp &&& fpctlMask, fpstat := rdWord m (fp + 8) &&& fpstatMask
    lfsr := rdWord m (fp + 24) ++ rdWord m (fp + 16)
    wait := none, yield := 0, out := [], ir := none
    bar := if w.getLsbD 38 then
        some { va := rdWord m bar, pa := s.barPa world old.bar (rdWord m bar), phase := (rdWord m (bar + 8)).setWidth 16,
               d := 0 }
      else none }

/-- A fault record read back; none when all of it is 0. -/
def readFault (m : ImageBytes) (o : Nat) : Option FaultRec :=
  let r : FaultRec := { b := rdWord m o, c := rdWord m (o + 8), d := rdWord m (o + 16), e := rdWord m (o + 24), f := rdWord m (o + 32) }
  if r.b = 0 ∧ r.c = 0 ∧ r.d = 0 ∧ r.e = 0 ∧ r.f = 0 then none else some r

/-- A queue read back. -/
def readQueue (m : ImageBytes) (q : Nat) : Queue :=
  let w := rdWord m (0xB00 + 8 * q)
  let d := queueDepth q
  { head := bits w 0 8 % d
    rows := (List.range (bits w 8 9)).map fun j =>
      let slot := (bits w 0 8 + j) % d
      let n := if q < 12 then ofBytes (rdBytes m (0xB80 + 2 * (16 * q + slot)) 2) else queueStride q
      { bytes := rdBytes m (queueBase q + queueStride q * slot) n, arrived := true } }

/-- The VE entries read back. An entry ends where the next one goes on with its word; the last one, where the E stream stands inside
its word, has been issued up to the repeat state; any other ends with its word. -/
def readVe (m : ImageBytes) (e : Stream) : List VePend :=
  let off (i : Nat) : Nat := 0x1000 + 256 * i
  let valid := (List.range 16).filter fun i => (rdWord m (off i + 8)).getLsbD 63
  valid.zipIdx.map fun (i, j) =>
    let o := off i
    let w := rdWord m (o + 8)
    let word : Insn := (rdWord m o).setWidth 48
    let whole := (unpackV word).rep.toNat + 1
    let upto := match valid[j + 1]? with
      | some n =>
        let w' := rdWord m (off n + 8)
        if (rdWord m (off n)).setWidth 48 = word ∧ bits w' 12 17 = bits w 12 17 ∧ bits w' 0 12 ≠ 0 then bits w' 0 12 else whole
      | none => if e.rpt ≠ 0 ∧ pcField e.pc = bits w 12 17 then e.rpt else whole
    { word, pc := readPc e.pc (bits w 12 17), next := bits w 0 12, upto, more := false, vshape := rdWord m (o + 16) &&& vshapeMask,
      vksc := rdWord m (o + 24) &&& vkscMask, fpctl := rdWord m (o + 32) &&& fpctlMask,
      vw := (List.range 16).foldl (fun t k => t.set 0 k (rdWord m (o + 40 + 8 * k) &&& vwMask)) [] }

/-- A stationary's progress read back (R333). -/
def readStationary (m : ImageBytes) (word plane scales : Nat) : Stationary :=
  let w := rdWord m word
  if !w.getLsbD 4 then Stationary.empty
  else
    let f : BitVec 4 := BitVec.ofNat 4 (bits w 0 4)
    { fmt := some f, sparse := w.getLsbD 5, isSealed := w.getLsbD 6, vals := []
      scales := if w.getLsbD 29 then rdBytes m scales (statXq f * 32) else []
      plane := if w.getLsbD 27 then
          (List.range (fmtK f / 2)).foldl (fun t h => t.set 0 h (BitVec.ofNat 512 (ofBytes (rdBytes m (plane + 64 * h) 64)))) []
        else []
      source := if bits w 18 9 = 0 then none else some (bits w 7 3, bits w 10 8, bits w 18 9) }

/-- The slots and xq entries a command word asks for (R316). -/
def cmdSlots (rgd : Tbl W64) (word : Insn) (f : FmtM) : Nat × Nat :=
  match bits (word.setWidth 64) 38 4 with
  | 0 => (loadSlots f (rgd.get 0 f.rb.toNat), statXq f.fmtb)
  | 2 | 3 => (slabCount f, actXq f.fmta (fmtK f.fmtb) (slabCount f))
  | _ => (0, 0)

/-- The mcq read back. -/
def readMcq (m : ImageBytes) (rgd : Tbl W64) (act shad : Stationary) (pc : Int) : List MCmd :=
  (List.range (bits (rdWord m 0x6018) 16 5)).map fun i =>
    let o := 0x6400 + 32 * i
    let word : Insn := (rdWord m o).setWidth 48
    let w := rdWord m (o + 8)
    let f := unpackM word
    let (nslots, nxq) := cmdSlots rgd word f
    let slabs := bits w 17 7
    let slot0 := bits w 35 8
    let fn := bits (word.setWidth 64) 38 4
    let own := some (f.rb.toNat, slot0, nslots)
    let abandoned := (rdWord m 0x6008).getLsbD 28
    let finished := match fn with
      | 0 => w.getLsbD 24 && (act.source == own || (shad.source == own && !abandoned))
      | 1 => w.getLsbD 24
      | _ => decide (slabCount f ≤ slabs)
    { word, pc := readPc pc (bits w 0 17), started := w.getLsbD 24 || slabs != 0 || finished,
      wsTaken := w.getLsbD 24 && f.ws != 0, slabs, installed := bits w 25 9, slot0, nslots, nxq, finished, refused := none }

/-- A slot of a ring is held by a stationary. -/
def Stationary.holdsSlot (t : Stationary) (ring size slot : Nat) : Bool :=
  match t.source with
  | some (r, first, n) => r == ring && decide ((slot + size - first % size) % size < n)
  | none => false

/-- Slots from HEAD to the first one assigned to a command of mcq, or to the read position, for a ring. Where that one stands at HEAD,
whole rings lie between them if a stationary holds HEAD, unless it is the command's own load that does. -/
def Ctx.ringStart (x : Ctx) (m : ImageBytes) (ring : Nat) : Nat :=
  let r := x.rgd.get 0 ring
  let size := rgdSlots r
  let cmd := x.mcq.find? fun c => c.ring == some ring
  let first := match cmd with
    | some c => c.slot0
    | none => (m (0x6010 + ring)).toNat
  let d := (first + size - rgdHead r) % size
  let held := x.statAct.holdsSlot ring size (rgdHead r) || x.statShad.holdsSlot ring size (rgdHead r)
  if d = 0 && held && !cmd.any (fun c => c.fn == 0 && c.finished) then size else d

/-- Read positions, released slots and issue images, which follow from the rest (R318, R320). -/
def Ctx.derive (x : Ctx) (m : ImageBytes) : Ctx :=
  let rings := List.range 8
  let released : Tbl Bool := rings.foldl (fun t n =>
    let r := x.rgd.get 0 n
    (List.range (x.ringStart m n)).foldl (fun t j =>
      let slot := (rgdHead r + j) % rgdSlots r
      if x.statAct.holdsSlot n (rgdSlots r) slot || x.statShad.holdsSlot n (rgdSlots r) slot then t
      else t.set false (slotKey n slot) true) t) []
  let readPos : Tbl Nat := rings.foldl (fun t n =>
    t.set 0 n (x.ringStart m n + ((x.mcq.filter fun c => c.ring == some n).map MCmd.nslots).sum)) []
  let img (t : Stationary) : StatImage := { fmt := t.fmt, sparse := t.sparse, isSealed := t.isSealed }
  let (a, b) := x.mcq.foldl (fun (a, b) c => if c.finished then (a, b) else imageAfter c a b) (img x.statAct, img x.statShad)
  { x with released, readPos, imgAct := a, imgShad := b }

/-- VW0 to VW15 (R179). -/
def vwTable (m : ImageBytes) : Tbl W64 :=
  (List.range 16).foldl (fun t i => t.set 0 i (rdWord m (0x600 + 8 * i) &&& vwMask)) []

/-- A context read back over what the image does not hold. -/
def State.readContext (s : State) (m : ImageBytes) (old : Ctx) : Ctx :=
  let w := imgWorld m
  let a := s.readStreamImage m w old.a 0x100 0x500 0x510 0xD00
  let e := s.readStreamImage m w old.e 0x300 0x508 0x530 0xD10
  let rgd := rdTable m 0x680 8
  let act := readStationary m 0x6000 0x8000 0x1A000
  let shad := readStationary m 0x6008 0xC000 0x1B000
  let x : Ctx :=
    { old with
      recva := (rdWord m 0x008).toNat, argp := rdWord m 0x010, partw := rdWord m 0x018, hdr := rdWord m 0x020
      wdcnt := (rdWord m 0x028).toNat, world := w, a, e
      mxstat := rdWord m 0x550 &&& mxstatMask, vshape := rdWord m 0x558 &&& vshapeMask, vksc := rdWord m 0x560 &&& vkscMask
      swait := rdTable m 0x568 4, vw := vwTable m, rgd
      filled := (List.range 2048).foldl (fun t i =>
        t.set false i ((m (0x6C0 + i / 8)).getLsbD (i % 8))) []
      msem := (List.range 32).foldl (fun t i => t.set 0 i (ofBytes (rdBytes m (0x7C0 + 2 * i) 2))) []
      ctb := rdWord m 0x800, ttd := rdTable m 0x808 8, ctStatus := rdTable m 0x900 64
      queues := (List.range 16).foldl (fun t q => t.set .empty q (readQueue m q)) []
      ve := readVe m e, statAct := act, statShad := shad, mcq := readMcq m rgd act shad e.pc
      tt := (List.range 2048).foldl (fun t i =>
        let v := rdWord m (0x10000 + 8 * i)
        t.set .empty i { valid := v.getLsbD 0, pending := v.getLsbD 1, block := bits v 5 47, rank := bits v 2 3 }) []
      primary := readFault m 0x040, pending := readFault m 0x068 }
  x.derive m

/-- The ring slots that a CE entry names on the cores of its quad: those that it was saved with, and others by the descriptor of the ring
as the core's task has it. -/
def State.readSlots (s : State) (core : Nat) (x : Option Ctx) (p : Copy) (pos : W64) : List SlotRef :=
  (List.range 4).filterMap fun j =>
    if !pos.getLsbD j then none
    else
      let c := core / 4 * 4 + j
      let slot := bits pos (8 + 8 * j) 8
      match p.slots.find? fun r => r.core == c && r.slot == slot with
      | some r => some r
      | none =>
        (if c = core then x else (s.core c).ctx).map fun y =>
          let r := y.rgd.get 0 p.ring
          { core := c, disp := y.disp, ring := p.ring, slot, base := bits y.partw 25 7 * 65536 + rgdBase r + slot * rgdSlotBytes r }

/-- A number that an image holds for a copy, none where it is 0 and the copy was saved without one. -/
def readNumber (known : Option Copy) (old : Copy → Option Nat) (n : Nat) : Option Nat :=
  if n = 0 ∧ known.any (fun p => (old p).isNone) then none else some n

/-- The copies read back into a core beside a context, if there is one: over what the image does not hold, those that were saved
with it. -/
def State.readCopies (s : State) (m : ImageBytes) (core : Nat) (x : Option Ctx) (firstId : Nat) (old : List Copy) : List Copy :=
  let orphans := old.filter fun p => p.task.isNone
  (List.range 128).filterMap fun i =>
    let o := 0x2000 + 128 * i
    let w := rdWord m o
    if !w.getLsbD 0 then none
    else
      let known := if i < 64 then old.find? fun p => p.task.isSome && p.tag == some i else orphans[i - 64]?
      let p : Copy :=
        { known.getD { Copy.fresh (firstId + i) (imgWorld m) [] with partw := (x.map Ctx.partw).getD 0 } with
          task := if w.getLsbD 1 then none else x.map Ctx.disp
          tag := readNumber known Copy.tag (bits w 8 6), buf := readNumber known Copy.buf (bits w 14 8)
          sc := bits w 22 4, uw := BitVec.ofNat 16 (bits w 26 16)
          chunks := (rdWord m (o + 8)).toNat % 2 ^ 32, padrows := bits (rdWord m (o + 16)) 0 20
          crc := BitVec.ofNat 32 (bits (rdWord m (o + 16)) 32 32)
          pushed := bits (rdWord m (o + 32)) 0 16, desc := (List.range 8).map fun j => rdWord m (o + 64 + 8 * j) }
      let slots := s.readSlots core x p (rdWord m (o + 24))
      some { p with slots, allocated := !slots.isEmpty }

/-- The fills of pending tag-table entries, issued whole (R395); one that was saved with the image keeps its number. -/
def Ctx.refills (x : Ctx) (firstId : Nat) (old : List Copy) : List Copy :=
  (x.tt.filter fun (_, e) => e.valid && e.pending).zipIdx.map fun ((k, e), i) =>
    let d := x.ttd.get 0 (k / 256)
    let known := old.find? fun p => p.task.isSome && p.fill == some (k / 256, k % 256)
    fillCopy ((known.map Copy.id).getD (firstId + i)) x (k / 256) (k % 256) d (e.block * ttdLine d)

/-! ## The checks of R390 -/

/-- Bits [lo, 64) of a word are 0. -/
def clearFrom (m : ImageBytes) (o lo : Nat) : Bool := bits (rdWord m o) lo (64 - lo) == 0
/-- A word has no bit outside a mask. -/
def within (m : ImageBytes) (o : Nat) (mask : W64) : Bool := rdWord m o &&& ~~~mask == 0

/-- RES0 fields of the header and control state (R21, R26, R179 to R183, R217, R266, R382, R393). -/
def headReserved (m : ImageBytes) : Bool :=
  clearFrom m 0 42 && bits (rdWord m 0) 8 8 == 0 && bits (rdWord m 0x020) 28 12 == 0 && clearFrom m 0x500 40 && clearFrom m 0x508 40 &&
    rdWord m 0x100 == 0 && rdWord m 0x300 == 0 && clearFrom m 0x068 27 && clearFrom m 0x080 34 && clearFrom m 0x088 29 &&
    within m 0x510 fpctlMask && within m 0x518 fpstatMask && within m 0x530 fpctlMask && within m 0x538 fpstatMask &&
    within m 0x550 mxstatMask && within m 0x558 vshapeMask && within m 0x560 vkscMask &&
    ((List.range 4).all fun i => let v := rdWord m (0x568 + 8 * i); swaitWord v == v) &&
    ((List.range 16).all fun i => within m (0x600 + 8 * i) vwMask) && ((List.range 8).all fun n => clearFrom m (0x680 + 8 * n) 48) &&
    ((List.range 8).all fun n => clearFrom m (0x808 + 8 * n) 47 && bits (rdWord m (0x808 + 8 * n)) 15 14 == 0) &&
    ((List.range 16).all fun q => clearFrom m (0xB00 + 8 * q) 17) && clearFrom m 0xD08 16 && clearFrom m 0xD18 16

/-- RES0 fields of the progress records (R394). -/
def progressReserved (m : ImageBytes) : Bool :=
  ((List.range 16).all fun i =>
    let o := 0x1000 + 256 * i
    clearFrom m o 48 && bits (rdWord m (o + 8)) 29 34 == 0 && within m (o + 16) vshapeMask && within m (o + 24) vkscMask &&
      within m (o + 32) fpctlMask && ((List.range 16).all fun k => within m (o + 40 + 8 * k) vwMask) && zeroBytes m (o + 168) 88) &&
    ((List.range 128).all fun i =>
      let o := 0x2000 + 128 * i
      clearFrom m o 42 && bits (rdWord m o) 2 6 == 0 && clearFrom m (o + 8) 32 && bits (rdWord m (o + 16)) 20 12 == 0 &&
        clearFrom m (o + 24) 40 && bits (rdWord m (o + 24)) 4 4 == 0 && clearFrom m (o + 32) 16 && zeroBytes m (o + 40) 24) &&
    clearFrom m 0x6000 30 && clearFrom m 0x6008 30 && clearFrom m 0x6018 21 && bits (rdWord m 0x6018) 9 7 == 0 &&
    ((List.range 16).all fun e =>
      let o := 0x6400 + 32 * e
      clearFrom m o 48 && clearFrom m (o + 8) 43 && clearFrom m (o + 16) 9 && zeroBytes m (o + 24) 8) &&
    ((List.range 2048).all fun i => clearFrom m (0x10000 + 8 * i) 52) && ((List.range 64).all fun n => clearFrom m (0x14000 + 8 * n) 8)

/-- Reserved fields and areas are 0. -/
def reservedZero (m : ImageBytes) : Bool :=
  headReserved m && progressReserved m &&
    zeroBytes m 0x038 8 && zeroBytes m 0x090 0x70 && zeroBytes m 0x588 0x78 && zeroBytes m 0x848 0xB8 &&
    zeroBytes m 0xD20 0x2E0 && zeroBytes m 0x6020 0x3E0 && zeroBytes m 0x6600 0x1A00 && zeroBytes m 0x14400 0x1C00 &&
    zeroBytes m 0x19000 0x1000 && zeroBytes m 0x1C000 0x4000 && zeroBytes m 0x38000 0x8000

/-- The PCs of the VE entries and of the mcq entries in use. -/
def enginePcs (m : ImageBytes) : List Nat :=
  ((List.range 16).filterMap fun i =>
    let w := rdWord m (0x1008 + 256 * i)
    if w.getLsbD 63 then some (bits w 12 17) else none) ++
    (List.range (bits (rdWord m 0x6018) 16 5)).map fun e => bits (rdWord m (0x6408 + 32 * e)) 0 17

/-- Levels and row lengths of a queue. -/
def queueImageOk (m : ImageBytes) (q : Nat) : Bool :=
  let w := rdWord m (0xB00 + 8 * q)
  let d := queueDepth q
  decide (bits w 8 9 ≤ d) &&
    (12 ≤ q || (List.range (bits w 8 9)).all fun j =>
      let n := ofBytes (rdBytes m (0xB80 + 2 * (16 * q + (bits w 0 8 + j) % d)) 2)
      decide (1 ≤ n) && decide (n ≤ 512))

/-- LOAD and DRESUME accept an image for a unit (R390). -/
def State.imageOk (s : State) (m : ImageBytes) (u : Nat) : Bool :=
  let w := imgWorld m
  bits (rdWord m 0) 0 8 == 1 && reservedZero m &&
    (if u < 128 then s.holdsCore w u else s.hasPart w) &&
    (if u < 128 then partwOk (rdWord m 0x018) && bits (rdWord m 0x018) 40 24 == 0 else rdWord m 0x018 == 0) &&
    rdWord m 0x030 == s.mkcv w &&
    decide (bits (rdWord m 0x500) 0 17 ≤ 87380) && decide (bits (rdWord m 0x508) 0 17 ≤ 87380) &&
    (enginePcs m).all (fun pc => decide (pc ≤ 87380)) && decide (bits (rdWord m 0x6018) 16 5 ≤ 16) &&
    ((List.range 16).all (queueImageOk m)) && (readFault m 0x040).isNone &&
    !(rdWord m 0x500).getLsbD 39 && !(rdWord m 0x508).getLsbD 39

/-! ## Late responses in a written image (R386) -/

/-- The state-word and register offsets of a stream in an image. -/
def streamOff (e : Bool) : Nat × Nat := if e then (0x508, 0x300) else (0x500, 0x100)

end Sys2Proof.Machine
end

