-- ==== Sys2Proof/Machine/Contexts.lean ====
section
/-! DEFINITION. Contexts as they enter and leave banks, threads and save places: stops (R383, R385, R290, R333), claims
(R167 to R169, R397), bank swaps (R96, R97), saving (R391, R396) and restoring (R395). -/

namespace Sys2Proof.Machine

/-! ## Stopping (R383) -/

/-- A stream that stands still: a waiting word is abandoned and stands at its PC, YIELD too (R385). -/
def Stream.halt (st : Stream) : Stream :=
  { st with pc := if st.yield = 0 then st.pc else st.pc - 1, yield := 0, wait := none, ir := none }

/-- Issued repetitions that do not wait on a queue run to completion (R290). -/
def drainVe : Nat → Tbl Byte → Ctx → Tbl Byte × Ctx
  | 0, t, x => (t, x)
  | n + 1, t, x =>
    match veRun x t with
    | some (t, x) => drainVe n t x
    | none => (t, x)

/-- No word stays open for further repetitions. -/
def closeVe (l : List VePend) : List VePend := (l.map fun p => { p with more := false }).filter fun p => p.next < p.upto

/-- What a stopped task keeps of a stationary: never its values, nor a plane from sealed blocks (R333). -/
def Stationary.kept (t : Stationary) : Stationary := { t with vals := [], plane := if t.isSealed then [] else t.plane }

/-- The stop of a core's active task. -/
def Core.stop (k : Core) : Core :=
  match k.ctx with
  | none => k
  | some x =>
    let (sram, x) := drainVe (16 * 4097) k.sram x
    let (k, x) := finishInstall { k with sram } x
    let x := { x with
      a := x.a.halt, e := x.e.halt, ve := closeVe x.ve, mcq := x.mcq.map fun m => { m with refused := none },
      statAct := k.act.kept, statShad := k.shad.kept }
    { k with act := .empty, shad := .empty }.setCtx (some x)

/-- The agents of a place. -/
def Place.agents : Place → List Agent
  | .core c => [.a c, .e c]
  | .thread t => [.np t]

/-- The held writes of a place's streams become visible (R128, R383). -/
def State.flushPlace (s : State) (p : Place) : State := (Place.agents p).foldl (fun s ag => s.dupFlush ag none) s

/-- The stop of the task of a place. -/
def State.stop (s : State) (p : Place) : State :=
  let s := s.flushPlace p
  match p with
  | .core c => s.setCore c (s.core c).stop
  | .thread t => s.setCtx (.thread t) ((s.ctx (.thread t)).map fun x => { x with e := x.e.halt })

/-- A task has left: its copies go on as orphans (R383, R389). -/
def Core.orphan (k : Core) (disp : Nat) : Core :=
  { k with copies := k.copies.map fun p => if p.task = some disp then { p with task := none } else p }

/-! ## Swaps (R96, R97) -/

/-- A stationary reloaded from the slots it holds (R334), or the position of a refused block. -/
def Ctx.reload (x : Ctx) (keys : List (Nat × Nat)) (pool : Tbl Byte) (t : Stationary) : Except Nat Stationary :=
  match t.fmt, t.source with
  | some f, some (r, first, n) =>
    match readStream keys f t.isSealed t.sparse (x.slotBytes pool r first n) with
    | .ok (vals, plane) => .ok { t with vals, plane := if t.isSealed then plane else t.plane }
    | .error b => .error b
  | _, _ => .ok t

/-- A context as it begins to run: a pending fault of one without a primary one is raised at once (R395). -/
def Ctx.resumed (x : Ctx) : Ctx :=
  let x := if x.primary.isNone then { x with primary := x.pending, pending := none } else x
  { x with phase := if x.primary.isSome then .stopping else .running }

/-- What stands against the reload of a stationary (R332, R334): the cause and payload D. -/
def Ctx.reloadRefused (x : Ctx) (keys : List (Nat × Nat)) (bad : Nat → Nat → Bool) (pool : Tbl Byte) (t : Stationary) : Option (Nat × Nat) :=
  match t.fmt, t.source with
  | some f, some (r, first, _) =>
    if x.slotsBad bad r first (streamLen f t.isSealed t.sparse) then some meError
    else match x.reload keys pool t with
      | .ok _ => none
      | .error b => some (Cause.integrity, b)
  | _, _ => none

/-- A stationary as reloaded, or as it was kept where the reload is refused. -/
def Ctx.reloaded (x : Ctx) (keys : List (Nat × Nat)) (pool : Tbl Byte) (t : Stationary) : Stationary :=
  match x.reload keys pool t with
  | .ok t => t
  | .error _ => t

/-- The context in the active bank begins to run: its stationaries are reloaded, the delay of its claims begins, and a
fault that waits for it is raised at once (R395, R36). A reload that is refused faults the task, with payload C all ones (R334; for
MEM_ERROR DEDUCED, log 51). -/
def State.activate (s : State) (c : Nat) : State :=
  let k := s.core c
  match k.ctx with
  | none => s
  | some x =>
    let keys := (s.world x.world).wkGens
    let refused := (x.reloadRefused keys (s.sramBad c) k.sram x.statAct).orElse fun _ =>
      x.reloadRefused keys (s.sramBad c) k.sram x.statShad
    let x' := { x.resumed with statAct := .empty, statShad := .empty, claimNs := 0 }
    let from_ := k.startAt.getD s.now
    let k := { k with
      deadlock := 0, startAt := if x.claimNs = 0 then k.startAt else some (from_ + x.claimNs)
      act := x.reloaded keys k.sram x.statAct, shad := x.reloaded keys k.sram x.statShad }
    let s := s.setCore c (k.setCtx (some x'))
    match refused with
    | some (cause, d) =>
      s.raise (.core c) 3 { cause, c := BitVec.allOnes 64, d := w64 d, defer := false, log := none } 0
    | none => s

/-- The pool record of a context that was pre-written (R35). -/
def State.poolOf (s : State) (x : Ctx) : Option PoolRec :=
  s.pool.find? fun r => r.recva == x.recva && r.readWorld == x.readWorld

/-- It leaves the pool, and its references pass to the task (R89, R90). -/
def State.takeRecord (s : State) (x : Ctx) : Ctx × State :=
  match s.poolOf x with
  | some r => ({ x with tagRefs := r.refs }, { s with pool := s.pool.erase r })
  | none => (x, s)

/-- The core's next task: a standby one becomes active; with the other bank empty the core idles in it. -/
def State.nextTask (s : State) (c : Nat) : State :=
  let k := s.core c
  match k.other with
  | some x =>
    if x.phase = .standby then
      let (x, s) := s.takeRecord x
      let k := { (s.core c).setOther (some x) with active := !k.active, act := .empty, shad := .empty }
      (s.setCore c k).activate c
    else s
  | none => if k.ctx.isSome then s.setCore c { k with active := !k.active, deadlock := 0 } else s

/-- The core's active bank holds no task that runs, stops or is halted. -/
def Core.idle (k : Core) : Bool :=
  match k.ctx with
  | some x => match x.phase with | .held _ => true | _ => false
  | none => true

/-- An idle core takes its standby task. -/
def State.settle (s : State) (c : Nat) : State := if (s.core c).idle then s.nextTask c else s

/-! ## Saving (R391, R396) -/

/-- Numbers that the copies of a read image may take: 128 entries and 2,048 fills. -/
def imageIds : Nat := 2176

/-- Orphan copies saved to place 0 of their world: beside those that its image holds already, or in an image of their own (R396,
R397). -/
def State.saveOrphans (s : State) (u world : Nat) (copies : List Copy) : State :=
  if copies.isEmpty then s
  else
    match s.saved.find? fun v => v.core == u && v.world == world && v.plc == 0 with
    | some v =>
      let n := v.copies.countP fun p => p.task.isNone
      let s := s.writePieces v.pa (orphanPieces copies n)
      { s with saved := s.saved.map fun y => if y = v then { v with copies := v.copies ++ copies } else y }
    | none =>
      let pa := s.placePa u world 0
      { s.writeImage pa (s.imageOf u world none copies false false) with
        saved := s.saved ++ [{ core := u, world, plc := 0, pa, ctx := none, copies, late := [] }] }

/-- A context with its copies saved to a place; orphans that stand there alone join it as their image has them. A context that enters
debug halt stays in its bank with its copies, its image beside it (R402). -/
def State.save (s : State) (u world plc : Nat) (x : Ctx) (copies : List Copy) (halted : Bool) : State :=
  let plc := s.freePlace u world plc
  let pa := s.placePa u world plc
  let old := s.saved.find? fun v => v.core == u && v.world == world && v.plc == plc
  let copies := copies ++ (match old with
    | some v => s.readCopies (s.imageAt v.pa) u none s.nextId v.copies
    | none => [])
  let late := x.a.out.map (false, ·) ++ x.e.out.map (true, ·)
  let s := s.writeImage pa (s.imageOf u world (some x) copies halted false)
  let x := { x with a := { x.a with out := [] }, e := { x.e with out := [] } }
  { s with
    nextId := s.nextId + imageIds
    saved := (match old with | some v => s.saved.erase v | none => s.saved) ++
      [{ core := u, world, plc, pa, ctx := if halted then none else some x, copies := if halted then [] else copies, late }] }

/-- The bank or thread of a place is freed. -/
def State.free (s : State) (p : Place) : State :=
  match p with
  | .core c => let k := s.core c; s.setCore c ({ k with act := .empty, shad := .empty }.setCtx none)
  | .thread _ => s.setCtx p none

/-- A stopped task's context, with its copies, saved to place 0 as PREEMPTED (R35, R383). -/
def State.preempt (s : State) (p : Place) (mark : Ctx → Ctx) : State :=
  let s := s.stop p
  match s.ctx p with
  | none => s
  | some x =>
    let x := mark { x with phase := .preempted }
    let k := s.core (unitOfPlace p)
    let (mine, rest) := if unitOfPlace p < 128 then k.copies.partition fun c => c.task == some x.disp else ([], k.copies)
    let s := s.save (unitOfPlace p) x.world 0 x mine false
    let s := s.free p
    match p with
    | .core c => s.setCore c { s.core c with copies := rest }
    | .thread _ => s

/-- The standby bank emptied: a pre-written record is READY again; a restored or resumed context is saved (R35, R100). -/
def State.dropStandby (s : State) (c : Nat) : State :=
  let k := s.core c
  match k.other with
  | some x =>
    if x.phase = .standby then
      let s' := s.setCore c (k.setOther none)
      if (s.poolOf x).isSome then s'
      else
        let (mine, rest) := k.copies.partition fun c => c.task == some x.disp
        let s := s'.save c x.world 0 { x with phase := .preempted } mine false
        s.setCore c { s.core c with copies := rest }
    else s
  | none => s

/-! ## Claims (R168, R169, R397) -/

/-- The units of a placement share one with another's (R38). -/
def partwMeet (a b : W64) : Bool := (partRegions a).any fun r => (partRegions b).any (shareUnit r)

/-- The banks of a placement (R167). -/
def partwBanks (p : W64) : List Nat :=
  ((partRegions p).flatMap fun (u, n) => bankRange (u * 65536) (n * 65536)).eraseDups

/-- Before a bank is claimed for another world, every copy with bytes in it stops (R397): an orphan of the bank's core is
saved with its world, any other waits until the bank is resident again. -/
def State.stopCopies (s : State) (c bank : Nat) : State :=
  let hold (i : Nat) (p : Copy) : Copy := if p.touches i c bank then { p with paused := true } else p
  let each (x : Nat × Core) : Nat × Core := (x.1, { x.2 with copies := x.2.copies.map (hold x.1) })
  let s := { s with cores := s.cores.map each }
  let (away, rest) := (s.core c).copies.partition fun p => p.task.isNone && p.touches c c bank
  let s := s.setCore c { s.core c with copies := rest }
  away.foldl (fun s p => s.saveOrphans c p.world [p]) s

/-- A bank of another world written to its save area and emptied (R168); a word with an uncorrectable error stays one there (R173). -/
def State.evict (s : State) (c bank world : Nat) : State :=
  let s := s.stopCopies c bank
  let k := s.core c
  let s := (granuleRuns bank k.sram).foldl (fun s (g, l) =>
    let gr := s.bankGranule c world bank g
    let bad := (List.range 8).filter fun i => s.sramBad c (bank * 2 ^ 17 + g * 64 + 8 * i) 8
    ((s.putGranule gr (some (s.bankTag c world bank g)) l).spoil (gr * 64) bad).hotRequests (gr * 64) 64) s
  let sram := k.sram.filter fun (a, _) => a / 2 ^ 17 != bank
  { (s.setCore c { k with sram, owner := k.owner.set 0 bank 0 }).sramRewritten c (bank * 2 ^ 17) (2 ^ 17) with
    evicted := s.evicted.set false (evictKey c world bank) true }

/-- A bank claimed for a world. -/
def State.claimBank (s : State) (c world bank : Nat) : State :=
  let t := (s.core c).owner.get 0 bank
  if t = 64 + world then s
  else ((if t = 0 then s else s.evict c bank (t - 64)).fillBank c world bank)

/-- Every bank of a list claimed. -/
def State.claimBanks (s : State) (c world : Nat) (banks : List Nat) : State := banks.foldl (fun s b => s.claimBank c world b) s

/-- Every bank of a task's placement claimed, with the delay of the task's first fetch where FTCTL.SEAL = 1: 256 ns for each bank not
yet claimed for a task in the frame. -/
def State.claim (s : State) (c world : Nat) (banks : List Nat) : State × Nat :=
  let s := s.claimBanks c world banks
  let k := s.core c
  let n := banks.countP fun b => !k.claimed.get false b
  (s.setCore c { k with claimed := banks.foldl (fun t b => t.set false b true) k.claimed },
    if k.ftctl.getLsbD 5 then 256 * n else 0)

/-- No bank of the list holds the placement of another world's context on the core. -/
def Core.claimable (k : Core) (world : Nat) (banks : List Nat) : Bool :=
  ([k.bank0, k.bank1].filterMap id).all fun x => x.world == world || !(partwBanks x.partw).any banks.contains

/-- The banks of a list may be claimed for a world now: no placement holds one for another world, and no copy of another world with
bytes in one is writing a chunk (R168, R397). -/
def State.claimable (s : State) (c world : Nat) (banks : List Nat) : Bool :=
  (s.core c).claimable world banks &&
    !s.cores.any fun (i, k) => k.copies.any fun p => p.writing && p.world != world && banks.any (p.touches i c)

/-! ## Frames (R98 to R100) -/

def ftEn (ctl : W64) : Bool := ctl.getLsbD 6
def ftSeal (ctl : W64) : Bool := ctl.getLsbD 5
def ftNft (ctl : W64) : Nat := bits ctl 0 5
def ftV (e : W64) : Bool := e.getLsbD 23
def ftWorld (e : W64) : Nat := bits e 17 6
def ftLen (e : W64) : Nat := bits e 0 17 * 10000

/-- The world that owns the current frame. -/
def Core.frameWorld (k : Core) : Option Nat :=
  let e := k.ft.get 0 k.cur
  if ftEn k.ftctl && ftV e then some (ftWorld e) else none

/-- Frames let a task of the world run on the core. -/
def Core.allows (k : Core) (w : Nat) : Bool := !ftEn k.ftctl || !ftSeal k.ftctl || k.frameWorld == some w

/-- A world owns an entry in use. -/
def Core.ownsFrame (k : Core) (w : Nat) : Bool :=
  (List.range (ftNft k.ftctl)).any fun i => ftV (k.ft.get 0 i) && ftWorld (k.ft.get 0 i) == w

/-- A saved context of the world may come back now: in its own frame, or where it owns none (log 24). -/
def Core.mayRestore (k : Core) (w : Nat) : Bool :=
  !ftEn k.ftctl || k.frameWorld == some w || (!ftSeal k.ftctl && !k.ownsFrame w)

/-- The partition of a world stands FAILED (R389). -/
def State.failed (s : State) (w : Nat) : Bool :=
  match (s.world w).part with
  | some p => p.failed
  | none => false

/-! ## Restoring (R395) -/

/-- Bytes of whole granules of an image that are not 0, as pool bytes from a base on. -/
def State.imagePool (s : State) (pa n base : Nat) : Tbl Byte :=
  (List.range (n / 64)).flatMap fun g => (s.granuleTbl (pa / 64 + g) none).map fun (i, b) => (base + 64 * g + i, b)

/-- Pool bytes [base, base + n) replaced. -/
def State.setPool (s : State) (c base n : Nat) (l : Tbl Byte) : State :=
  let k := s.core c
  let rest : Tbl Byte := k.sram.filter fun (a, _) => !(decide (base ≤ a) && decide (a < base + n))
  (s.setCore c { k with sram := l.foldl (fun (t : Tbl Byte) (a, b) => t.set 0 a b) rest }).sramRewritten c base n

/-- The bytes of an image put back into the pool: with BANKS its banks, register space and the accumulator store. -/
def State.restorePool (s : State) (pa : Nat) (m : ImageBytes) (c world : Nat) (partw : W64) : State :=
  let regn := bits partw 7 5
  let accn := bits partw 19 6
  let area := pa + 0x40000 + (regn + accn) * 65536
  let s := if !imgBanks m then s else
    (scratchBanks partw).zipIdx.foldl (fun s (b, i) =>
      if (m (0x14000 + 8 * b)).getLsbD 7 then
        s.setPool c (b * 2 ^ 17) (2 ^ 17) ((List.range 2048).flatMap fun g =>
          (s.bankBytes ((area + i * 2 ^ 17) / 64 + g) (s.bankTag (imgCore m) world b g)).map fun (j, v) => (b * 2 ^ 17 + g * 64 + j, v))
          |>.fillGranules c b ((area + i * 2 ^ 17) / 64)
      else s) s
  let put (s : State) (unit n off : Nat) : State := s.setPool c (unit * 65536) (n * 65536) (s.imagePool (pa + off) (n * 65536) (unit * 65536))
  put (put s (bits partw 0 7) regn 0x40000) (bits partw 12 7) accn (0x40000 + regn * 65536)

/-- Banks that orphan copies touch, claimed for their world where nothing stands in the way; no task's fetch waits for them, and a task
that claims one later in the frame is delayed for it (DEDUCED, log 18). -/
def State.claimOrphans (s : State) (c : Nat) (l : List Copy) : State :=
  l.foldl (fun s p =>
    let banks := (p.poolRuns c).flatMap fun (c', lo, n) => if c' = c then bankRange lo n else []
    if s.claimable c p.world banks then s.claimBanks c p.world banks else s) s

/-- A context put into the core: into the active bank to run at once, or into the standby bank. -/
def State.putBank (s : State) (c : Nat) (x : Ctx) : State :=
  let k := s.core c
  if k.ctx.isNone then (s.setCore c (k.setCtx (some x))).activate c
  else (s.setCore c (k.setOther (some { x with phase := .standby }))).settle c

/-- The bytes of an image before its bank area. -/
def imageHead (m : ImageBytes) : Nat := 0x40000 + (bits (rdWord m 0x018) 7 5 + bits (rdWord m 0x018) 19 6) * 65536

/-- What the reads of an image do at the controllers, and a context as it is after them: one whose image cannot be read has the fault of
the access, as a task, from then on (R136, R156, R159; DESIGN CHOICE, log 51). -/
def State.readImage (s : State) (pa : Nat) (x : Ctx) : Ctx × State :=
  let n := imageHead (s.imageAt pa)
  match s.physFault pa n true with
  | some f =>
    (x.recordFault { b := reportB f.cause (some x.place) (match x.place with | .core _ => 6 | .thread _ => 5) false, c := f.c, d := f.d,
                     e := pcsWord x, f := 0 } false, s.logFault f)
  | none => (x, s.touched pa n)

/-- A saved context restored to its core or thread, whose bank or thread is free. A held one comes back as it was, and a halted one
to its bank, its image staying where it stands and the delay of its claims waiting for its first fetch (R169, R396, R402). -/
def State.restore (s : State) (v : Saved) : State :=
  let m := s.imageAt v.pa
  let core (l : List Copy) (s : State) : State :=
    s.setCore v.core { s.core v.core with copies := (s.core v.core).copies ++ l }
  match v.ctx with
  | none =>
    let copies := s.readCopies m v.core none s.nextId v.copies
    let s := s.touched v.pa 0x40000
    let s := { s with saved := s.saved.erase v, nextId := s.nextId + imageIds }
    core (copies.map fun p => { p with paused := true }) (s.claimOrphans v.core copies)
  | some old =>
    if old.phase = .halted then
      let s := { s with saved := s.saved.map fun y => if y = v then { v with ctx := none, copies := [] } else y }
      let (s, ns) := s.claim v.core v.world (partwBanks old.partw)
      core v.copies (s.setCore v.core ((s.core v.core).setCtx (some { old with claimNs := ns })))
    else
      let (x, s) := s.readImage v.pa { s.readContext m old with place := placeOf v.core }
      let copies := s.readCopies m v.core (some x) s.nextId v.copies ++ x.refills (s.nextId + 128) v.copies
      let s := { s with saved := s.saved.erase v, nextId := s.nextId + imageIds }
      if v.core < 128 then
        let (s, ns) := s.claim v.core x.world (partwBanks x.partw)
        let s := core copies ((s.restorePool v.pa m v.core x.world x.partw).claimOrphans v.core (copies.filter fun p => p.task.isNone))
        let x := { x with claimNs := ns }
        match x.phase with
        | .held _ =>
          let k := s.core v.core
          s.setCore v.core (if k.other.isNone then k.setOther (some x) else k.setCtx (some x))
        | _ => s.putBank v.core x
      else s.setCtx (placeOf v.core) (some x.resumed)

/-- Running control tasks of a world. -/
def State.running (s : State) (w : Nat) : Nat :=
  s.threads.countP fun (_, o) => match o with
    | some x => x.world == w && (match x.phase with | .held _ => false | _ => true)
    | none => false

/-- The world's NP thread quota has room (R15, R92). -/
def State.threadRoom (s : State) (w : Nat) : Bool :=
  match (s.world w).part with
  | some p => decide (s.running w < p.threads)
  | none => false

/-- There is room for a saved context to come back. Its placement must keep clear of the active task's, as a dispatch must; a held context
beside it is not asked, nor is RESUME of one (R38; DESIGN CHOICE, log 18). -/
def State.roomFor (s : State) (v : Saved) : Bool :=
  match placeOf v.core with
  | .thread _ => (s.ctx (placeOf v.core)).isNone && s.threadRoom v.world
  | .core c =>
    let k := s.core c
    match v.ctx with
    | none => true
    | some x =>
      let free := match x.phase with
        | .halted => k.ctx.isNone
        | .held _ => k.ctx.isNone || k.other.isNone
        | _ => k.ctx.isNone || (k.other.isNone && !(k.ctx.any fun y => hdrSucc y.hdr))
      free && s.claimable c v.world (partwBanks x.partw) &&
        !(k.ctx.any fun y => partwMeet x.partw y.partw && !(hdrOvlp x.hdr && hdrOvlp y.hdr))

/-- A saved context may come back now. -/
def State.mayReturn (s : State) (v : Saved) : Bool :=
  (v.ctx.isSome || v.plc == 0) && v.late.isEmpty && s.hasPart v.world && !s.failed v.world &&
    (128 ≤ v.core || (s.holdsCore v.world v.core && (s.core v.core).mayRestore v.world)) && s.roomFor v

/-- The saved context of a unit that may come back now, the earliest first. -/
def State.restorable (s : State) (u : Nat) : Option Saved := s.saved.find? fun v => v.core == u && s.mayReturn v

/-- CONTEXT_RESTORE (R395): a saved context is restored once its LATE bits are clear. Numbers from 128 name threads. -/
def execContextRestore (core : Nat) (s : State) : Host.Outcome State Fault Refusal :=
  match s.restorable core with
  | some v => .next (s.restore v)
  | none => .next s

end Sys2Proof.Machine
end

