-- ==== Sys2Proof/Machine/Control.lean ====
section
/-! DEFINITION. Predicates and control flow: majors 0x05, 0x06 and 0x07 (R241 to R245). -/

namespace Sys2Proof.Machine

/-- The conditions 0 to 7 of R241 on w-bit operands. -/
def condHolds (code w : Nat) (x y : W64) : Bool :=
  match code with
  | 0 => uintW w x == uintW w y
  | 1 => uintW w x != uintW w y
  | 2 => decide (sintW w x < sintW w y)
  | 3 => decide (sintW w y ≤ sintW w x)
  | 4 => decide (uintW w x < uintW w y)
  | 5 => decide (uintW w y ≤ uintW w x)
  | 6 => (uintW w x &&& uintW w y) != 0
  | _ => (uintW w x &&& uintW w y) == 0

/-- The predicate number in a field. -/
def predOf (n : BitVec 6) : Nat := (n.extractLsb' 0 3).toNat

/-- PSET (R242). -/
def execPset (f : FmtS) (s : State) : Host.Outcome State Fault Refusal :=
  wordIf .any f.pg (do
    let st ← curStream
    writePreg (predOf f.d) (condHolds f.c.toNat (widthOf f.sz) (st.reg f.a.toNat) (st.reg f.b.toNat))) s

/-- A predicate operation on two predicates (R242). -/
def predWord (g : Bool → Bool → Bool) (f : FmtS) (s : State) : Host.Outcome State Fault Refusal :=
  wordIf .any f.pg (do
    let st ← curStream
    writePreg (predOf f.d) (g (st.pred (predOf f.a)) (st.pred (predOf f.b)))) s

def execPand (f : FmtS) (s : State) : Host.Outcome State Fault Refusal := predWord (· && ·) f s
def execPor (f : FmtS) (s : State) : Host.Outcome State Fault Refusal := predWord (· || ·) f s
def execPxor (f : FmtS) (s : State) : Host.Outcome State Fault Refusal := predWord (· != ·) f s
def execPnot (f : FmtS) (s : State) : Host.Outcome State Fault Refusal := predWord (fun x _ => !x) f s

/-- The condition of a branch (R241). -/
def Stream.branchCond (st : Stream) (f : FmtB) : Bool :=
  match f.cnd.toNat with
  | 8 => st.pred (predOf f.a)
  | 9 => !st.pred (predOf f.a)
  | c => condHolds c 64 (st.reg f.a.toNat) (st.reg f.b.toNat)

/-- BR (R243). -/
def execBr (f : FmtB) (s : State) : Host.Outcome State Fault Refusal :=
  word .any (do
    let st ← curStream
    if st.branchCond f then setPc ((← curPc) + f.off.toInt) else pure ()) s

/-- JMP (R244). -/
def execJmp (f : FmtI) (s : State) : Host.Outcome State Fault Refusal :=
  wordIf .any f.pg (do setPc ((← curPc) + f.imm.toInt)) s

/-- JMPR (R244). -/
def execJmpr (f : FmtI) (s : State) : Host.Outcome State Fault Refusal :=
  wordIf .any f.pg (do setPc (((← sreg f.a).toNat : Int) + f.imm.toInt)) s

/-- CALL (R244). -/
def execCall (f : FmtI) (s : State) : Host.Outcome State Fault Refusal :=
  wordIf .any f.pg (do
    let pc ← curPc
    writeSreg f.d (BitVec.ofInt 64 (pc + 1))
    setPc (pc + f.imm.toInt)) s

/-- RET (R244). -/
def execRet (f : FmtI) (s : State) : Host.Outcome State Fault Refusal :=
  wordIf .any f.pg (do setPc ((← sreg f.a).toNat : Int)) s

/-- LOOP (R244). -/
def execLoop (f : FmtI) (s : State) : Host.Outcome State Fault Refusal :=
  wordIf .any f.pg (do
    let pc ← curPc
    let t := (← sreg f.d) - 1
    writeSreg f.d t
    if t ≠ 0 then setPc (pc + f.imm.toInt) else pure ()) s

end Sys2Proof.Machine
end

