-- ==== Sys2Proof/Machine/Fetch.lean ====
section
/-! DEFINITION. Fetching an instruction word (R23, R191, R198 step 1). -/

namespace Sys2Proof.Machine

/-- The code base of a stream (R23); a control task's words are E-stream words (R40). -/
def codeBase (ag : Agent) (code : W64) : Nat :=
  bits code 0 36 * 2 ^ 20 + (match ag with | .a _ => 0 | _ => 0x80000)

/-- The address of the word at a PC. -/
def wordVa (ag : Agent) (code : W64) (pc : Int) : Nat := codeBase ag code + 6 * pc.toNat

/-- A PC that a stream may fetch at (R39). -/
def pcOk (pc : Int) : Bool := decide (0 ≤ pc) && decide (pc ≤ 87380)

/-- A PC outside the binary as its report gives it (R245): the low 32 bits, as two's complement. -/
def pcReport (pc : Int) : W64 := (BitVec.ofInt 32 pc).signExtend 64

/-- The word at the PC of the current stream: FETCH_RANGE, then the faults of the fetch. Where R41 allows the
old word or the new one after a store to code, the fetch reads the new one (DESIGN CHOICE, log 35). -/
def fetchInsn : M Insn := do
  let ag ← curAgent
  let x ← curCtx
  let pc := (x.stream ag).pc
  M.check (pcOk pc) Cause.fetchRange (pcReport pc)
  let acc ← streamAccess .exec 0 false
  let t ← resolve acc 1 (w64 (wordVa ag x.code pc)) 6
  return insnOfBytes (← readNow acc 6 t)

end Sys2Proof.Machine
end

