-- ==== Sys2Proof/Machine/Lifecycle.lean ====
section
/-! DEFINITION. The life of a task on its core or thread: DISPATCH (R92 to R96), TASK_RETIREMENT (R404, R406), TASK_SUSPENSION
(R37), faults and their stops (R97, R383, R384), watchdog (R103, R105), QUEUE_DEADLOCK (R187), responses (R112, R386), gang
failure (R400) and debug halts (R256, R402). -/

namespace Sys2Proof.Machine

/-! ## Dispatch (R92 to R96) -/

/-- Strict affinity, where set, names the core or its quad; for a thread, its NP core. -/
def PoolRec.strictOk (r : PoolRec) (p : Place) : Bool :=
  let h := wd r.words 0
  !hdrAffs h ||
    (match p, hdrAffk h with
    | .core c, 1 => c == hdrAffn h
    | .core c, _ => c / 4 == hdrAffn h
    | .thread t, _ => t / 16 == hdrAffn h)

/-- The record stands in a bank already. -/
def State.isStandby (s : State) (r : PoolRec) : Bool :=
  s.cores.any fun (_, k) => [k.bank0, k.bank1].any fun o => o.any fun x => x.recva == r.recva && x.readWorld == r.readWorld

/-- A pre-empted context of the world waits to come back to a core, before any READY record of the world (R389). -/
def State.awaits (s : State) (u w : Nat) : Bool :=
  s.saved.any fun v => v.core == u && v.world == w && v.ctx.any fun x => x.phase == .preempted

/-- A READY record is eligible for a core (R92). -/
def State.eligible (s : State) (c : Nat) (r : PoolRec) : Bool :=
  let k := s.core c
  let partw := wd r.words 3
  hdrKind (wd r.words 0) == 0 && r.ready.isSome && s.holdsCore r.world c && !s.failed r.world && k.allows r.world &&
    r.strictOk (.core c) && !s.isStandby r &&
    !(k.ctx.any fun x => partwMeet partw x.partw && !(hdrOvlp x.hdr && hdrOvlp (wd r.words 0)))

/-- The dispatcher may take an eligible record now: no context of its world may come back to the core before it (R389), and its banks can
be claimed; one whose banks another placement holds is passed over (R168; DESIGN CHOICE, log 24). -/
def State.dispatchable (s : State) (c : Nat) (r : PoolRec) : Bool :=
  s.eligible c r && s.claimable c r.world (partwBanks (wd r.words 3)) &&
    !s.saved.any fun v => v.core == c && v.world == r.world && v.ctx.isSome && s.mayReturn v

/-- A READY control task is eligible for a thread (R92). -/
def State.eligibleNp (s : State) (t : Nat) (r : PoolRec) : Bool :=
  hdrKind (wd r.words 0) == 1 && r.ready.isSome && !s.failed r.world && r.strictOk (.thread t) && s.threadRoom r.world

/-- It may be taken now: no context of its world may come back to a thread before it (R389). -/
def State.dispatchableNp (s : State) (t : Nat) (r : PoolRec) : Bool :=
  s.eligibleNp t r && !s.saved.any fun v => v.world == r.world && decide (128 ≤ v.core) && s.mayReturn v

/-- The affinity rank of a record on a place: a core match 0, a quad match 1, neither 2 (R93, R95). -/
def State.affRank (s : State) (p : Place) (r : PoolRec) : Nat :=
  let h := wd r.words 0
  let w := s.now - r.ready.getD 0
  if !hdrAffs h ∧ 4000000 ≤ w then 0
  else match p, hdrAffk h with
    | .core c, 1 => if c = hdrAffn h then 0 else 2
    | .core c, 2 => if c / 4 = hdrAffn h then 1 else 2
    | .core c, _ => match r.lastCore with | some q => if q / 4 = c / 4 then 1 else 2 | none => 2
    | .thread t, 1 => if t / 16 = hdrAffn h then 0 else 2
    | .thread _, _ => 2

/-- A record's place in the dispatcher's order (R94). -/
def State.rank (s : State) (p : Place) (r : PoolRec) : List Nat :=
  [match p with | .core c => if (s.core c).frameWorld = some r.world then 0 else 1 | .thread _ => 0,
    hdrPrio (wd r.words 0) - (s.now - r.ready.getD 0) / 1000000, s.affRank p r, r.ready.getD 0, r.admitted]

/-- Lexicographic order. -/
def lexLt : List Nat → List Nat → Bool
  | a :: l, b :: m => decide (a < b) || (a == b && lexLt l m)
  | _, _ => false

/-- The first record in order; equal ones as they were admitted. -/
def State.best (s : State) (p : Place) (l : List PoolRec) : Option PoolRec :=
  l.foldl (fun b r => match b with
    | none => some r
    | some q => if lexLt (s.rank p r) (s.rank p q) then some r else b) none

/-- The launch state of a task (R36, R189): the argument block is read now, and its fault waits for the first
instruction. -/
def State.launch (s : State) (p : Place) (r : PoolRec) : Ctx × State :=
  let h := wd r.words 0
  let code := wd r.words 1
  let argp := wd r.words 2
  let (args, fault, s) :=
    if argp = 0 then ([], none, s)
    else match s.readVa 7 r.world argp.toNat 64 with
      | .ok (l, s) => (wordsOf 8 l, none, s)
      | .error f =>
        let agent := match p with | .core _ => 6 | .thread _ => 5
        ([], some { b := reportB f.cause (some p) agent false, c := f.c, d := f.d, e := 0, f := 0 : FaultRec }, s.logFault f)
  let stream (pc : Nat) : Stream :=
    (List.range 8).foldl (fun st i => st.setReg (i + 1) (wd args i)) { Stream.launch with pc := pc }
  ({ recva := r.recva, readWorld := r.readWorld, hdr := h, code, argp, partw := wd r.words 3, ext := r.ext, world := r.world,
     place := p, disp := s.nextDisp, a := stream (8 * codeAent code), e := stream (8 * codeEent code),
     mxstat := 0, vshape := 0x7F, vksc := 0x3F800000, vw := [], swait := [], slotw := [], extBit := false,
     rgd := [], filled := [], released := [], readPos := [], imgAct := .empty, imgShad := .empty, queues := [], mcq := [],
     ve := [], msem := [], ctb := 0, ctStatus := [], ttd := [], tt := [], tagRefs := [], wdcnt := 0, claimNs := 0,
     primary := fault, pending := none, statAct := .empty, statShad := .empty, phase := .standby },
    { s with nextDisp := s.nextDisp + 1 })

/-- A record pre-written into the standby bank, its banks claimed (R168). -/
def State.prewrite (s : State) (c : Nat) (r : PoolRec) : State :=
  let (s, ns) := s.claim c r.world (partwBanks (wd r.words 3))
  let (x, s) := s.launch (.core c) r
  s.setCore c ((s.core c).setOther (some { x with claimNs := ns }))

/-- The dispatcher may fill the core's standby bank (R94): it is empty, and not reserved for a chain successor (R29). -/
def Core.takesTask (k : Core) : Bool := k.other.isNone && !(k.ctx.any fun x => hdrSucc x.hdr)

/-- DISPATCH (R94). A control task runs at once on its thread. -/
def execDispatch (r : Place) (s : State) : Host.Outcome State Fault Refusal :=
  match r with
  | .core c =>
    if 128 ≤ c ∨ !(s.core c).takesTask then .next s
    else match s.best r (s.pool.filter (s.dispatchable c)) with
      | none => .next s
      | some p => .next ((s.prewrite c p).settle c)
  | .thread t =>
    if 192 ≤ t ∨ (s.ctx r).isSome then .next s
    else match s.best r (s.pool.filter (s.dispatchableNp t)) with
      | none => .next s
      | some p =>
        let (x, s) := s.launch r p
        .next ({ s with pool := s.pool.erase p }.setCtx r (some
          { x with tagRefs := p.refs, phase := if x.primary.isSome then .stopping else .running }))

/-! ## Retirement (R404, R406) -/

/-- Both streams of a task, or the one of a control task, have left in a way. -/
def Ctx.left (x : Ctx) (how : Exit) : Bool := x.e.exit == how && (x.control || x.a.exit == how)

/-- The core's work has begun (R101). -/
def State.started (s : State) : Place → Bool
  | .core c => (s.core c).startAt.isNone
  | .thread _ => true

/-- A running task has left in a way, and every access and engine word of it has been performed (R254, R404): its held writes become
visible as it goes. -/
def State.gone (s : State) (p : Place) (x : Ctx) (how : Exit) : Bool :=
  s.started p && x.phase == .running && x.left how && x.ve.isEmpty && x.mcq.isEmpty && x.a.out.isEmpty && x.e.out.isEmpty

/-- The task leaves its place: bank or thread freed, references dropped, copies orphaned, a thread's events DONE. -/
def State.leave (s : State) (p : Place) (x : Ctx) : State :=
  let s := ((s.flushPlace p).free p).dropRefs x.tagRefs
  match p with
  | .core c => s.setCore c (((s.core c).orphan x.disp))
  | .thread t => s.dropEvents t

/-- The OQN of a place: core number, or 128 + t. -/
def State.notice (s : State) (p : Place) (x : Ctx) : State :=
  if s.quota x.world 23 = 0 then s
  else s.postOrHold 0x03 x.world 7 (unitOfPlace p) [w64 x.recva, w64 (bits x.hdr 48 16 * 2 ^ 48 + unitOfPlace p)] (some p)

/-- The chain successor of a task that has ended (R29): examined as any submission; one that is ready for launch stands in the standby
bank without passing through the overflow queue, its place counted, and any other enters the pool. A control task named so enters the
pool, as no case of R31 refuses it, and so does one that is ready while the other bank holds a faulted context, which no task may be
written over (R97; DESIGN CHOICE, log 60). -/
def State.followChain (s : State) (c : Nat) (x : Ctx) : State :=
  if !hdrSucc x.hdr then s
  else
    let q : Submission := { recva := linkSucc x.ext, readWorld := x.world, expect := some x.world }
    match s.examine q with
    | (.error _, s) => s
    | (.ok r, s') =>
      if r.ready.isSome ∧ hdrKind (wd r.words 0) = 0 ∧ (s.core c).other.isNone ∧ !s.refsFull r then (s'.enterPool r).prewrite c r
      else
        match s'.enter r s.submits with
        | (.full, _) => { s with submits := s.submits ++ [q] }
        | (_, s) => s

/-- A completion notice of the place still waits to be posted (R71). -/
def State.noticeHeld (s : State) (p : Place) : Bool := s.held.any fun h => h.kind == 0x03 && h.from_ == some p

/-- The task of a place may retire: it is gone by END, and no notice of the place is held. -/
def State.mayRetire (s : State) (p : Place) (x : Ctx) : Bool := s.gone p x .ended && !s.noticeHeld p

/-- A task retires: notice, chain and swap. -/
def State.retire (s : State) (p : Place) (x : Ctx) : State :=
  let s := (s.leave p x).notice p x
  match p with
  | .core c => (s.followChain c x).nextTask c
  | .thread _ => s

/-- TASK_RETIREMENT (R404, R406). -/
def execTaskRetirement (r : Place) (s : State) : Host.Outcome State Fault Refusal :=
  match s.ctx r with
  | none => .next s
  | some x => .next (if s.mayRetire r x then s.retire r x else s)

/-- The tasks of a world that may retire do so, before what shares their clk (R406). -/
def State.retireReady (s : State) (w : Nat) : State :=
  ((s.cores.keys.map Place.core) ++ s.threads.keys.map Place.thread).foldl (fun s p =>
    match s.ctx p with
    | some x => if x.world = w ∧ s.mayRetire p x then s.retire p x else s
    | none => s) s

/-! ## Suspension (R37) -/

/-- The record's words as the write-back leaves them. -/
def Ctx.rewritten (x : Ctx) (l : List W64) : List W64 :=
  let h := wd l 0
  let h := (h &&& ~~~ w64 ((2 ^ 16 - 1) * 2 ^ 48 + 2 ^ 24)) ||| w64 ((bits h 48 16 + 1) % 2 ^ 16 * 2 ^ 48 + (if x.extBit then 2 ^ 24 else 0))
  let aent := if x.control then 0 else x.a.resume.toNat
  let c := (wd l 1 &&& w64 (2 ^ 36 - 1)) ||| w64 (aent * 2 ^ 36 + x.e.resume.toNat * 2 ^ 50)
  [h, c, wd l 2, wd l 3] ++ (List.range 4).map fun i => x.slotw.get 0 i

/-- The write-back, and the resubmission that follows it. -/
def State.writeBack (s : State) (x : Ctx) : State :=
  let acc := polethAccess .write 7 x.world
  let m : M Unit := do
    let t ← resolve acc 1 (w64 x.recva) 64
    match ← rmwTarget acc 64 (fun l => some ((x.rewritten (wordsOf 8 l)).flatMap fun v => leBytes 8 v.toNat)) t with
    | .ok _ => pure ()
    | .error f => throw (.fault f)
  match M.try m s with
  | .ok (_, s) =>
    { s with submits := s.submits ++
        [{ recva := x.recva, readWorld := x.world, expect := if x.world = 0 then none else some x.world }] }
  | .error f => (s.logFault f).dieReport (w64 x.recva) f.cause f.c f.d (some x.world)

/-- A task suspends: the core goes on to its next task while the record is written back. -/
def State.suspend (s : State) (p : Place) (x : Ctx) : State :=
  let s := s.leave p x
  (match p with | .core c => s.nextTask c | .thread _ => s).writeBack x

/-- TASK_SUSPENSION (R37). -/
def execTaskSuspension (r : Place) (s : State) : Host.Outcome State Fault Refusal :=
  match s.ctx r with
  | none => .next s
  | some x => .next (if s.gone r x .suspended then s.suspend r x else s)

/-! ## Faults (R97, R105, R187) -/

/-- The report of a fault stop (R382), a watchdog expiry event for WATCHDOG (R398), whose core field is 0 for a thread (DESIGN CHOICE,
log 46). -/
def State.stopReport (s : State) (p : Place) (x : Ctx) (r : FaultRec) : State :=
  if bits r.b 0 8 = Cause.watchdog then
    s.postOrHold 0x08 0 0 1001 [w64 x.recva, w64 ((match p with | .core c => c * 2 ^ 8 | .thread _ => 0) + x.world)] (some p)
  else s.postOrHold 0x04 0 0 (reportOqn (some p)) [w64 x.recva, r.b, r.c, r.d, r.e, r.f] (some p)

/-- A drain completes, the context is held with the PCs at the stop in payload E of its faults, the banks switch and the report is posted
(R383, R97, R393). -/
def State.holdFaulted (s : State) (p : Place) : State :=
  match s.ctx p with
  | none => s
  | some x =>
    if x.phase ≠ .stopping then s
    else
      let s := s.stop p
      match s.ctx p with
      | none => s
      | some x =>
        let stopped (r : FaultRec) : FaultRec := { r with e := pcsWord x }
        let r := stopped (x.primary.getD { b := 0, c := 0, d := 0, e := 0, f := 0 })
        let s := s.setCtx p (some { x with primary := some r, pending := x.pending.map stopped, phase := .held s.nextId, tagRefs := [] })
        let s := ({ s with nextId := s.nextId + 1 }.dropRefs x.tagRefs).stopReport p x r
        match p with
        | .core c => s.nextTask c
        | .thread t => s.dropEvents t

/-- A waiting word of a thread that completes before a stop (R385): PKSEND, or a supervisor operation. -/
def Ctx.finishing (x : Ctx) : Bool :=
  x.control && (x.e.wait == some .outbound || x.e.wait == some .late)

/-- A copy of the task of a place is writing a chunk, whose writes to another module are out; the chunk is completed before the task
stops (R383). -/
def State.chunkOut (s : State) : Place → Bool
  | .core c => (s.core c).copies.any fun p => p.writing && p.task.isSome && p.task == (s.core c).ctx.map Ctx.disp
  | .thread _ => false

/-- Some other thread of the world has such a word, or a core's task of the world such a copy. -/
def State.finishing (s : State) (w : Nat) (self : Option Nat) : Bool :=
  (s.threads.any fun (t, o) => some t != self && o.any fun x => x.world == w && x.phase == .running && x.finishing) ||
    s.cores.any fun (c, k) => (k.ctx.any fun x => x.world == w && x.phase == .running) && s.chunkOut (.core c)

/-- AGENT of a fault of the task as a whole (R382). -/
def Place.taskAgent : Place → Nat
  | .core _ => 6
  | .thread _ => 5

/-- A task's budget in clk or ns (R22, R103). -/
def State.budget (s : State) (x : Ctx) : Nat :=
  let m := bits (s.world x.world).wdog 0 5
  2 ^ (16 + if hdrWdc x.hdr ≤ m then hdrWdc x.hdr else m)

/-- WATCHDOG_EXPIRY (R105). -/
def execWatchdogExpiry (r : Place) (s : State) : Host.Outcome State Fault Refusal :=
  match s.ctx r with
  | none => .next s
  | some x =>
    if x.phase ≠ .running ∨ x.left .ended ∨ x.left .suspended ∨ !(s.world x.world).wdog.getLsbD 5 ∨ x.wdcnt < s.budget x then .next s
    else .next (s.raise r (Place.taskAgent r) { cause := Cause.watchdog, c := 0, d := 0, defer := false, log := none } 0)

/-- QUEUE_DEADLOCK (R187): payload C is the E-stream PC, D the A-stream PC. -/
def execQueueDeadlock (core : Nat) (s : State) : Host.Outcome State Fault Refusal :=
  match (s.core core).ctx with
  | none => .next s
  | some x =>
    if x.phase ≠ .running ∨ (s.core core).deadlock < 2 ^ 20 then .next s
    else .next (s.raise (.core core) 6
      { cause := Cause.queueDeadlock, c := w64 (pcField x.e.pc), d := w64 (pcField x.a.pc), defer := false, log := none } 0)

/-! ## Responses (R112, R384, R386) -/

/-- The bytes of a response land (R112): in a register, or in the row that waits for them, which has arrived once no other
response is due for it. -/
def Ctx.land (x : Ctx) (ag : Agent) (o : Outstanding) (l : List Byte) : Ctx :=
  let st := x.stream ag
  let st := { st with out := st.out.filter fun p => p.id != o.id }
  let x := x.setStream ag st
  match o.landing with
  | .reg d n sgn => x.setStream ag (st.setReg d (extendW (8 * n) sgn (ofBytes (l.take n))))
  | .row q off n =>
    let qu := x.queue q
    let i := qu.waiting
    let more := st.out.any fun p => match p.landing with | .row q' _ _ => q' == q | _ => false
    let put (r : Row) : Row :=
      { bytes := r.bytes.take off ++ fitBytes n l ++ r.bytes.drop (off + n), arrived := !more }
    x.setQueue q { qu with rows := qu.rows.zipIdx.map fun (r, j) => if j = i then put r else r }
  | .none => x

/-- The stream that awaits a response, in a bank or on a thread: its place, whether in the other bank, its agent and the
record. -/
def State.awaiting (s : State) (id : Nat) : Option (Place × Bool × Agent × Outstanding) :=
  let inCtx (p : Place) (other : Bool) (x : Option Ctx) : Option (Place × Bool × Agent × Outstanding) :=
    match x with
    | none => none
    | some x => (Place.agents p).findSome? fun ag =>
        ((x.stream ag).out.find? fun o => o.id == id).map fun o => (p, other, ag, o)
  match s.cores.findSome? fun (c, k) => (inCtx (.core c) false k.ctx).orElse fun _ => inCtx (.core c) true k.other with
  | some r => some r
  | none => s.threads.findSome? fun (t, x) => inCtx (.thread t) false x

/-- The context there changed. -/
def State.modPlace (s : State) (p : Place) (other : Bool) (f : Ctx → Ctx) : State :=
  match p, other with
  | .core c, true => let k := s.core c; s.setCore c (k.setOther (k.other.map f))
  | _, _ => s.setCtx p ((s.ctx p).map f)

/-- A fault that comes with a response (R384). No walk of this module stands behind it: the level of payload D is 0, and for BARRIER_WORD,
no memory fault, all of it (R382; DEDUCED, log 30). -/
def State.deferFault (s : State) (p : Place) (other : Bool) (ag : Agent) (o : Outstanding) (cause : Nat) : State :=
  s.modPlace p other fun x =>
    (x.refuseLanding ag o).recordFault
      { b := reportB cause (some p) ag.code true, c := o.operand, d := if cause = Cause.barrierWord then 0 else w64 (o.kind <<< 4),
        e := pcsWord x, f := issueField o.pc o.rep } true

/-- A response handed to a copy that asked for it. -/
def State.copyResponse (s : State) (id : Nat) (rsp : Response) : State :=
  let answer (a : CopyAsk) : CopyAsk := if a.id = id then { a with rsp := some rsp } else a
  let copy (p : Copy) : Copy := { p with asks := p.asks.map answer }
  let core (x : Nat × Core) : Nat × Core := (x.1, { x.2 with copies := x.2.copies.map copy })
  { s with cores := s.cores.map core, saved := s.saved.map fun v => { v with copies := v.copies.map copy } }

/-- REMOTE_RESPONSE (R112, R384). -/
def execRemoteResponse (id : Nat) (rsp : Response) (s : State) : Host.Outcome State Fault Refusal :=
  match s.awaiting id with
  | some (p, other, ag, o) =>
    match rsp with
    | .data l => .next (s.modPlace p other fun x => x.land ag o l)
    | .refusal => .next (s.deferFault p other ag o Cause.remoteAccess)
  | none => .next (s.copyResponse id rsp)

/-- DEFERRED_FAULT (R384): REMOTE_ACCESS, MEM_ERROR or BARRIER_WORD arrives with a response. -/
def execDeferredFault (id : Nat) (cause : BitVec 8) (s : State) : Host.Outcome State Fault Refusal :=
  match s.awaiting id with
  | some (p, other, ag, o) =>
    if cause.toNat = Cause.remoteAccess ∨ cause.toNat = Cause.memError ∨ cause.toNat = Cause.barrierWord then
      .next (s.deferFault p other ag o cause.toNat)
    else .next s
  | none => .next s

/-- The context whose streams a written image's late responses belong to: the saved one, or the halted one of its world in the
bank. -/
def State.lateBase (s : State) (v : Saved) : Option Ctx := v.ctx.orElse fun _ => s.ctx (placeOf v.core)

/-- The bytes of a late response in an image (R386). -/
def latePieces (x : Ctx) (e : Bool) (o : Outstanding) (l : List Byte) : List Piece :=
  match o.landing with
  | .reg d n sgn => if d = 0 then [] else [pieceW ((streamOff e).2 + 8 * d) (extendW (8 * n) sgn (ofBytes (l.take n)))]
  | .row q off n =>
    let qu := x.queue q
    [(queueBase q + queueStride q * ((qu.head + qu.waiting) % queueDepth q) + off, fitBytes n l)]
  | .none => []

/-- What a late refusal writes: the pending fault where there is none, and the level of its queue. -/
def lateRefusal (m : ImageBytes) (x : Ctx) (p : Place) (e : Bool) (o : Outstanding) : List Piece :=
  let ag : Agent := match p with | .core c => if e then .e c else .a c | .thread t => .np t
  let r : FaultRec :=
    { b := reportB Cause.remoteAccess (some p) ag.code true, c := o.operand, d := w64 (o.kind <<< 4), e := pcsWord x,
      f := issueField o.pc o.rep }
  (if (readFault m 0x068).isSome then [] else FaultRec.pieces 0x068 (some r)) ++
    match o.landing with
    | .row q _ _ => let qu := x.queue q; [pieceW (0xB00 + 8 * q) (w64 (qu.head + qu.waiting * 2 ^ 8))]
    | _ => []

/-- LATE_RESPONSE (R386): a response lands in a written image, and the last one of a stream clears its LATE bit. -/
def execLateResponse (id : Nat) (rsp : Response) (s : State) : Host.Outcome State Fault Refusal :=
  match s.saved.findSome? fun v => (v.late.find? fun (_, o) => o.id == id).map fun (e, o) => (v, e, o) with
  | none => .next s
  | some (v, e, o) =>
    match s.lateBase v with
    | none => .next s
    | some x =>
      let m := s.imageAt v.pa
      let pieces := match rsp with
        | .data l => latePieces x e o l
        | .refusal => lateRefusal m x (placeOf v.core) e o
      let s := s.writePieces v.pa pieces
      let drop (p : Bool × Outstanding) : Bool × Outstanding :=
        match rsp, p.2.landing, o.landing with
        | .refusal, .row q _ _, .row q' _ _ => if q = q' then (p.1, { p.2 with landing := .none }) else p
        | _, _, _ => p
      let late := (v.late.filter fun (_, p) => p.id != id).map drop
      let off := (streamOff e).1
      let s := if late.any fun (e', _) => e' == e then s
        else (s.touched (v.pa + off) 8).putPhys (v.pa + off) (leBytes 8 (rdWord (s.imageAt v.pa) off &&& ~~~ w64 (2 ^ 39)).toNat)
      .next { s with saved := s.saved.map fun u => if u = v then { v with late } else u }

/-! ## World stops and gang failure (R389, R400) -/

/-- Every task of a world stopped and saved to place 0, its partition FAILED; `mark` writes into each context saved. -/
def State.stopWorld (s : State) (w : Nat) (mark : Place → Ctx → Ctx) : State :=
  let s := s.retireReady w
  let s := s.cores.keys.foldl (fun s c =>
    let s := match (s.core c).other with
      | some x => if x.world = w then s.dropStandby c else s
      | none => s
    match (s.core c).ctx with
    | some x => if x.world = w ∧ x.phase = .running then (s.preempt (.core c) (mark (.core c))).settle c else s
    | none => s) s
  let s := s.threads.keys.foldl (fun s t =>
    match s.ctx (.thread t) with
    | some x => if x.world = w ∧ x.phase = .running then s.preempt (.thread t) (mark (.thread t)) else s
    | none => s) s
  let x := s.world w
  s.setWorld w { x with part := x.part.map fun p => { p with failed := true } }

/-- GANG_STOP in the pending fault of a stopped context (R400). -/
def gangMark (p : Place) (x : Ctx) : Ctx :=
  let r : FaultRec :=
    { b := reportB Cause.gangStop (some p) (Place.taskAgent p) false, c := 0, d := 0, e := pcsWord x, f := 0 }
  { x with pending := some r }

/-- A report for each context that a gang failure has stopped. -/
def State.gangReports (s : State) (before : List Saved) : State :=
  (s.saved.filter fun v => !before.contains v).foldl (fun s v =>
    match v.ctx.bind Ctx.pending, v.ctx with
    | some r, some x =>
      if bits r.b 0 8 = Cause.gangStop then
        s.postOrHold 0x04 0 0 (reportOqn (some (placeOf v.core))) [w64 x.recva, r.b, r.c, r.d, r.e, r.f] none
      else s
    | _, _ => s) s

/-- POISON (R400): the task of the core stops with POISONED. -/
def execPoison (core : Nat) (s : State) : Host.Outcome State Fault Refusal :=
  match (s.core core).ctx with
  | none => .next s
  | some x =>
    let s := s.retireReady x.world
    .next (if (s.core core).ctx.any fun y => y.disp == x.disp && y.phase == .running then
        s.raise (.core core) 6 { cause := Cause.poisoned, c := 0, d := 0, defer := false, log := none } 0
      else s)

/-- A fault stop; with POISONED its world is then stopped on the module (R400). -/
def State.faultStop (s : State) (p : Place) : State :=
  match s.ctx p with
  | none => s
  | some x =>
    let t := s.holdFaulted p
    if x.phase = .stopping ∧ x.primary.any fun r => bits r.b 0 8 == Cause.poisoned then
      (t.stopWorld x.world gangMark).gangReports t.saved
    else t

/-- The stop of a place waits for what completes first, a word or a chunk being written (R383, R385): its own, and for POISONED those of
its world. -/
def State.stopWaits (s : State) (p : Place) : Bool :=
  match s.ctx p with
  | none => false
  | some x =>
    x.finishing || s.chunkOut p || ((x.primary.any fun r => bits r.b 0 8 == Cause.poisoned) && s.finishing x.world none)

/-- FAULT_STOP (R383, R97, R400). -/
def execFaultStop (r : Place) (s : State) : Host.Outcome State Fault Refusal := .next (if s.stopWaits r then s else s.faultStop r)

/-! ## Debug halts (R256, R401, R402) -/

/-- The world has debug enabled. -/
def State.debugOn (s : State) (w : Nat) : Bool :=
  match (s.world w).part with
  | some p => p.debug
  | none => false

/-- A task of a place enters debug halt (R402): it stops, its image is written to place 1 with HALTED = 1, and its bank
keeps the context. -/
def State.debugHalt (s : State) (p : Place) : State :=
  let s := s.stop p
  match s.ctx p with
  | none => s
  | some x =>
    let u := unitOfPlace p
    let x := { x with phase := .halted }
    let copies := if u < 128 then (s.core u).copies.filter fun c => c.task == some x.disp else []
    (s.save u x.world 1 x copies true).setCtx p
      (some { x with a := { x.a with out := [] }, e := { x.e with out := [] } })

/-- The image of the halted context of a unit and world, while its bank holds it. -/
def State.haltedImage (s : State) (u world : Nat) : Option Saved :=
  s.saved.find? fun v => v.core == u && v.world == world && v.plc != 0 && v.ctx.isNone

/-- BKPT (R256): with debug disabled a NOP. -/
def execBkpt (f : FmtI) (s : State) : Host.Outcome State Fault Refusal :=
  wordIf .any f.pg (do
    let w ← curWorld
    let p := (← curAgent).place
    if (← get).debugOn w then
      M.await (!(← get).chunkOut p) .finish
      M.upd fun s => s.debugHalt p) s

/-- HALT (R256): with debug disabled the HALT fault. -/
def execHalt (f : FmtI) (s : State) : Host.Outcome State Fault Refusal :=
  wordIf .any f.pg (do
    let w ← curWorld
    let p := (← curAgent).place
    let pc ← curPc
    if (← get).debugOn w then
      M.await (!(← get).chunkOut p) .finish
      setPc pc
      M.upd fun s => s.debugHalt p
    else M.fault Cause.halt (w64 (pcField pc))) s

/-! ## Frame edges (R98 to R101) -/

/-- The period of a core's frames. -/
def Core.period (k : Core) : Nat := ((List.range (ftNft k.ftctl)).map fun i => ftLen (k.ft.get 0 i)).sum

/-- The entry that holds an offset into the period, and where it ends; `n` entries from `i` on, which begins at `at_`. -/
def Core.entryAt (k : Core) (off : Nat) : Nat → Nat → Nat → Nat × Nat
  | 0, i, at_ => (i, at_)
  | n + 1, i, at_ =>
    let end_ := at_ + ftLen (k.ft.get 0 i)
    if off < end_ ∨ n = 0 then (i, end_) else k.entryAt off n (i + 1) end_

/-- The entry of an instant, and when it ends (R99). -/
def Core.locate (k : Core) (t : Nat) : Nat × Nat :=
  let e := k.ftepoch.toNat
  if t < e then (0, e)
  else
    let p := k.period
    if p = 0 then (0, t + 1)
    else
      let (i, end_) := k.entryAt ((t - e) % p) (ftNft k.ftctl) 0 0
      (i, t - (t - e) % p + end_)

/-- A write to the frame registers that has been waiting takes effect. -/
def Core.takeWrite (k : Core) (key : Nat) : Core :=
  match k.ftNew.get none key with
  | none => k
  | some v =>
    let k := { k with ftNew := k.ftNew.set none key none }
    if key = 16 then { k with ftctl := v } else if key = 17 then { k with ftepoch := v } else { k with ft := k.ft.set 0 key v }

/-- Writes to entries at or above NFT take effect at once (R98). -/
def Core.takeIdle (k : Core) : Core :=
  (List.range 16).foldl (fun k i => if ftEn k.ftctl && i < ftNft k.ftctl then k else k.takeWrite i) k

/-- The frames of a core from an instant on: the entry that begins there and its writes. -/
def Core.enter (k : Core) (t : Nat) : Core :=
  if !ftEn k.ftctl then { k.takeIdle with cur := 0, nextEdge := 0, startAt := none }
  else
    let k := k.takeIdle
    let (i, _) := k.locate t
    let k := k.takeWrite i
    let (j, end_) := k.locate t
    { k with cur := j, nextEdge := end_ }

/-- At an edge into a frame of w its context comes back, or its first record in order is pre-written (R100). -/
def State.bringIn (s : State) (c w : Nat) : State :=
  match s.saved.find? fun v => v.core == c && v.world == w && s.mayReturn v with
  | some v => s.restore v
  | none =>
    if !(s.core c).takesTask then s
    else
      match s.best (.core c) (s.pool.filter fun r => r.world == w && s.dispatchable c r) with
      | some r => (s.prewrite c r).settle c
      | none => s

/-- An edge into a shared frame of w (R100). -/
def State.sharedEdge (s : State) (c w : Nat) : State :=
  let s := match (s.core c).other with
    | some x => if x.world ≠ w then s.dropStandby c else s
    | none => s
  let wanted := s.awaits c w || s.pool.any fun r => r.world == w && s.eligible c r
  match (s.core c).ctx with
  | some x =>
    if x.world ≠ w ∧ x.phase = .running ∧ wanted then ((s.preempt (.core c) id).settle c).bringIn c w
    else if (s.core c).idle then (s.settle c).bringIn c w
    else s
  | none => (s.settle c).bringIn c w

/-- A held or halted context of a bank goes to place 1 (R396); the image of a halted one stands there already. -/
def State.shelve (s : State) (c : Nat) (x : Ctx) : State :=
  let k := s.core c
  let (mine, rest) := k.copies.partition fun p => p.task == some x.disp
  let s := s.setCore c { k with copies := rest }
  if x.phase = .halted then
    match s.haltedImage c x.world with
    | some v => { s with saved := s.saved.map fun y => if y = v then { v with ctx := some x, copies := mine } else y }
    | none => s
  else s.save c x.world 1 x mine false

/-- A sealed edge (R100, R101, R396): everything but the SRAM banks and their tags leaves the core, and the incoming world's context
or record comes in. -/
def State.sealedEdge (s : State) (c t : Nat) (new : Option Nat) : State :=
  let s : State := (s.faultStop (.core c)).dropStandby c
  let s : State := match (s.core c).ctx with
    | some x => if x.phase = Phase.running then s.preempt (.core c) id else s
    | none => s
  let s : State := ([(s.core c).bank0, (s.core c).bank1].filterMap id).foldl (fun s x => s.shelve c x) s
  let s : State := (s.core c).copies.foldl (fun s p => s.saveOrphans c p.world [{ p with task := none }]) s
  let k := s.core c
  let ours (u : TlbUnit) : Bool := match u with
    | .scalar (.a x) | .scalar (.e x) | .stream x _ => x == c
    | _ => false
  let s : State :=
    { s.setCore c { k with bank0 := none, bank1 := none, copies := [], act := .empty, shad := .empty, deadlock := 0,
                           startAt := some (t + 5000), sealTill := t + 5000 } with
      tlb := s.tlb.filter fun e => !ours e.unit }
  match new with
  | some w => s.bringIn c w
  | none => s

/-- The edge actions of a core whose frame was of world `old`, none outside frames of a world, `first` when frames begin to
apply, or begin to be sealed; consecutive frames of one world take none (R99). The banks claimed are counted anew in each frame
(R169). -/
def State.edge (s : State) (c t : Nat) (old : Option Nat) (first : Bool) : State :=
  let k := s.core c
  let new := k.frameWorld
  let s := s.setCore c { k with claimed := [] }
  if !ftEn k.ftctl ∨ (!first ∧ old = new) then s
  else if ftSeal k.ftctl then s.sealedEdge c t new
  else
    match new with
    | some w => s.sharedEdge c w
    | none => s

/-- A frame of the core has come to its end (R99), and no copy of the core is still writing a chunk, which is completed before its task
stops (R383). -/
def State.edgeDue (s : State) (c : Nat) : Bool :=
  ftEn (s.core c).ftctl && decide ((s.core c).nextEdge ≤ s.now) && !(s.core c).copies.any Copy.writing

/-- What shares the clk of an edge and comes before it (R97, R406): the task that has left ends or suspends. -/
def State.beforeEdge (s : State) (c : Nat) : State :=
  match (s.core c).ctx with
  | some x =>
    if s.mayRetire (.core c) x then s.retire (.core c) x
    else if s.gone (.core c) x .suspended then s.suspend (.core c) x
    else s
  | none => s

/-- FRAME_EDGE (R98 to R100): the end of the current entry has come; waiting writes take effect, those of FTCTL and FTEPOCH at the end
of any entry (DESIGN CHOICE, log 25), then the edge's actions. -/
def execFrameEdge (core : Nat) (s : State) : Host.Outcome State Fault Refusal :=
  if !s.edgeDue core then .next s
  else
    let s := s.beforeEdge core
    let k := s.core core
    let k' := ((k.takeWrite 16).takeWrite 17).enter k.nextEdge
    .next ((s.setCore core k').edge core k.nextEdge k.frameWorld (!ftSeal k.ftctl && ftSeal k'.ftctl))

/-- SEALED_FRAME_START (R101, R169): the core's work starts. -/
def execSealedFrameStart (core : Nat) (s : State) : Host.Outcome State Fault Refusal :=
  let k := s.core core
  match k.startAt with
  | some t => .next (if t ≤ s.now then s.setCore core { k with startAt := none } else s)
  | none => .next s

/-! ## Time (R77) -/

/-- The earliest instant that a time step has passed: a timer's deadline, or the end of a core's frame. -/
def State.passed (s : State) : Option (Nat × Sum Nat Nat) :=
  let timers := s.timers.filterMap fun (k, t) => if t.armed && decide (t.deadline ≤ s.now) then some (t.deadline, Sum.inl k) else none
  let edges := s.cores.filterMap fun (c, k) => if s.edgeDue c then some (k.nextEdge, Sum.inr c) else none
  (timers ++ edges).foldl (fun (b : Option (Nat × Sum Nat Nat)) (x : Nat × Sum Nat Nat) => match b with
    | some y => if x.1 < y.1 then some x else b
    | none => some x) none

/-- What stands at that instant takes effect. -/
def State.pass (s : State) : Sum Nat Nat → State
  | .inl k =>
    match execTimerExpiry (k / 4096) (k % 4096) s with
    | .next s => s
    | _ => s
  | .inr c =>
    match execFrameEdge c s with
    | .next s => s
    | _ => s

/-- Every timer and frame edge passed takes effect in order of instant. -/
def State.passAll : Nat → State → State
  | 0, s => s
  | n + 1, s =>
    match s.passed with
    | some (_, x) => State.passAll n (s.pass x)
    | none => s

/-- How many instants a jump of some ns can pass: each timer and each core at most one in a ns, those that were due before it, and one
held event for each timer. -/
def State.instants (s : State) (ns : Nat) : Nat :=
  (s.timers.map fun (_, t) => s.now + ns + 2 - t.deadline).sum + (s.cores.map fun (_, k) => s.now + ns + 1 - k.nextEdge).sum

/-- TIME_STEP (R77): module time goes forward by more than 1 ms at once, and every timer and frame edge stepped over takes effect at
once, in order of instant. -/
def execTimeStep (ns : Nat) (s : State) : Host.Outcome State Fault Refusal :=
  if ns ≤ 1000000 then .next s else .next (State.passAll (s.instants ns) { s with now := s.now + ns })

end Sys2Proof.Machine
end

