-- ==== Sys2Proof/Machine/Partition.lean ====
section
/-! DEFINITION. PMCMD (R362, R364) but for RELCTX: partitions, partition reset (R399), quotas, counters, frames, shadow slots,
translation words, tracked ranges, queues, bindings and debug; and DLOGSWAP (R131, R366). -/

namespace Sys2Proof.Machine

/-! ## The operation (R362, R364) -/

/-- The 64 bytes of a request block, read under world 0's translation. -/
def requestBlock (va : W64) : M (List W64) := do
  let acc ← streamAccess .read 7 false
  let t ← resolve acc 1 va 64
  return wordsOf 8 (← readNow acc 64 t)

/-- A result written to word i of the block. -/
def blockResult (va : W64) (i : Nat) (v : W64) : M Unit := do
  let acc ← streamAccess .write 7 false
  let t ← resolve acc 1 (va + w64 (8 * i)) 8
  writeNow acc false (leBytes 8 v.toNat) t

/-- The status in d, while the thread's task still stands: an operation may have discarded or stopped it. -/
def State.setStatus (s : State) (d : BitVec 6) (st : Nat) : State :=
  match s.cur with
  | none => s
  | some ag =>
    match s.ctx ag.place with
    | some x => s.setCtx ag.place (some (x.setStream ag ((x.stream ag).setReg d.toNat (w64 st))))
    | none => s

/-- A supervisor operation on a request block: d holds OK while it acts and its status afterwards. -/
def pmWord (op : W64 → List W64 → M Nat) (f : FmtP) (s : State) : Host.Outcome State Fault Refusal :=
  word .supervisor (do
    let va ← sreg f.a
    releaseStores
    let l ← requestBlock va
    writeSreg f.d (w64 Status.ok)
    let st ← op va l
    M.upd fun s => s.setStatus f.d st) s

/-- An operation that only changes the state. -/
def pmState (op : State → List W64 → Nat × State) (f : FmtP) (s : State) : Host.Outcome State Fault Refusal :=
  pmWord (fun _ l => M.step fun s => op s l) f s

/-- A refusal. -/
def State.refuseWith (s : State) (st : Nat) : Nat × State := (st, s)
/-- Done. -/
def State.done (s : State) : Nat × State := (Status.ok, s)

/-- Word i as a number. -/
def arg (l : List W64) (i : Nat) : Nat := (wd l i).toNat

/-! ## Partitions (R15, R98) -/

/-- The core mask of words 1 and 2. -/
def coreMask (l : List W64) : BitVec 128 := wd l 2 ++ wd l 1

/-- FTCTL as it will stand once every accepted write has taken effect. -/
def Core.ctlNext (k : Core) : W64 := (k.ftNew.get none 16).getD k.ftctl
/-- An entry as it will stand. -/
def Core.ftNext (k : Core) (i : Nat) : W64 := (k.ftNew.get none i).getD (k.ft.get 0 i)

/-- Partitions that hold a core. -/
def State.holders (s : State) (c : Nat) : List Nat := (List.range 64).filter fun w => s.holdsCore w c

/-- The mask would give a core without frames to a second partition. -/
def State.secondHolder (s : State) (w : Nat) (cores : BitVec 128) : Bool :=
  (List.range 128).any fun c => cores.getLsbD c && !ftEn (s.core c).ctlNext && (s.holders c).any (· != w)

/-- A request for a partition is in range. -/
def partArgs (l : List W64) : Bool := decide (arg l 0 < 64) && decide (arg l 3 ≤ 192)

def State.pcreate (s : State) (l : List W64) : Nat × State :=
  let w := arg l 0
  if !partArgs l then s.refuseWith Status.badReq
  else if s.hasPart w ∨ s.secondHolder w (coreMask l) then s.refuseWith Status.state
  else
    (s.setWorld w { s.world w with part := some { cores := coreMask l, threads := arg l 3, failed := false, debug := false } }).done

/-- A core holds a task of the world in one of its banks. -/
def Core.holdsTask (k : Core) (w : Nat) : Bool := k.bank0.any (fun x => x.world == w) || k.bank1.any fun x => x.world == w

def State.pchange (s : State) (l : List W64) : Nat × State :=
  let w := arg l 0
  let mask := coreMask l
  if !partArgs l then s.refuseWith Status.badReq
  else
    match (s.world w).part with
    | none => s.refuseWith Status.state
    | some p =>
      if s.secondHolder w mask ∨
          (List.range 128).any fun c => p.cores.getLsbD c && !mask.getLsbD c && (s.core c).holdsTask w then s.refuseWith Status.state
      else (s.setWorld w { s.world w with part := some { p with cores := mask, threads := arg l 3 } }).done

def execPcreate (f : FmtP) (s : State) : Host.Outcome State Fault Refusal := pmState State.pcreate f s
def execPchange (f : FmtP) (s : State) : Host.Outcome State Fault Refusal := pmState State.pchange f s

/-! ## Partition reset (R399) -/

/-- Not of the world. -/
def keepCtx (w : Nat) (x : Option Ctx) : Option Ctx := x.filter fun x => x.world != w

/-- A core without the world's contexts, copies and banks. -/
def Core.reset (k : Core) (w : Nat) : Core :=
  let gone := k.ctx.any fun x => x.world == w
  { k with
    bank0 := keepCtx w k.bank0, bank1 := keepCtx w k.bank1,
    act := if gone then .empty else k.act, shad := if gone then .empty else k.shad,
    copies := k.copies.filter fun p => p.world != w,
    sram := k.sram.filter fun (a, _) => k.owner.get 0 (a / 2 ^ 17) != 64 + w,
    owner := k.owner.filter fun (_, t) => t != 64 + w }

/-- Step 2 and 3 of R399: tasks, banks, images, copies and outbound messages with what has stalled of them; inbound ones have failed
(R50). -/
def State.dropTasks (s : State) (w : Nat) : State :=
  { s with
    cores := s.cores.map fun (c, k) => (c, k.reset w),
    sramEcc := s.sramEcc.filter fun (i, _) => (s.core (i / 2 ^ 20)).owner.get 0 (i % 2 ^ 20 / 2 ^ 14) != 64 + w,
    stalled := s.stalled.filter fun x => x.1 != w,
    threads := s.threads.filter fun (_, x) => !x.any fun x => x.world == w,
    saved := s.saved.filter fun v => v.world != w,
    evicted := s.evicted.filter fun (k, _) => k / 64 % 64 != w,
    outbound := s.outbound.filter fun m => m.world != w,
    inbound := s.inbound.map fun m => if m.world = w then { m with failed := true } else m }

/-- Watching entries of freed counters become FREE and issue no action (R57). -/
def State.freeTriggers (s : State) (p : Trigger → Bool) : State :=
  s.triggers.keys.foldl (fun s i =>
    let t := s.trigger i
    if t.st ≠ .free ∧ p t then
      let s := if t.st = .disarmed then s else s.unwatch t
      { s.setTrigger i .empty with fired := s.fired.filter fun a => !(a.entry == i && a.arm == t.arm) }
    else s) s

/-- Step 4, which drops besides the world's submissions that still wait on the Poleth die, resubmissions of suspended records among them
(R35, R91; DESIGN CHOICE, log 22): the world's records, counters, triggers, descriptors, tags, events, timers, lanterns, barrier words and motion
records, its buffer counters and FAILED. -/
def State.resetObjects (s : State) (w : Nat) : State :=
  let s := s.freeTriggers fun t => trigWorld t.words == w
  let s : State := { s with
    fired := s.fired.filter fun a => trigWorld a.words != w,
    ddesc := s.ddesc.filter fun (_, d) => ddWorld d != w,
    pool := s.pool.filter fun r => r.world != w,
    spilled := s.spilled.filter fun r => r.world != w,
    submits := s.submits.filter fun q => q.expect != some w && q.readWorld != w,
    events := s.events.filter fun e => e.world != w,
    held := s.held.filter fun h => h.world != w,
    timers := s.timers.filter fun (k, _) => k / 4096 != w,
    lanterns := s.lanterns.filter fun (r, _) => nbWorld (s.nbind.get 0 r) != w,
    barriers := s.barriers.filter fun (_, b) => !b.any fun (b : Barrier) => b.world == w }
  let s := s.counters.keys.foldl (fun s i =>
    let c := s.counter i
    if c.alloc && c.owner == w then s.setCounter i { c with value := 0 } else s) s
  let s := s.tags.keys.foldl (fun s i => if (s.tag i).st ≠ .free ∧ (s.tag i).world = w then s.freeTag i else s) s
  let s := s.motions.keys.foldl (fun s i =>
    let m := s.motion i
    if m.world = w then
      match m.st with
      | .copying | .draining | .committing => s.abortMotion i Stat.reset (0, 0)
      | _ => s
    else s) s
  let x := s.world w
  s.setWorld w { x with
    ovHead := 0, ovCount := 0, rxFill := 0, bufBytes := [], bufStall := [],
    part := x.part.map fun p => { p with failed := false } }

/-- A partition reset: a task that has ended retires first (R406); afterwards no translation of the world is held, and cores that it left
idle take their standby task. -/
def State.partitionReset (s : State) (w : Nat) : State :=
  let s := s.retireReady w
  let idle := s.cores.keys.filter fun c => (s.core c).ctx.any fun x => x.world == w
  let s := ((s.dropTasks w).resetObjects w).invalidate w 0 0
  (idle.foldl State.settle s).releaseHeld

def State.preset (s : State) (l : List W64) : Nat × State :=
  if 64 ≤ arg l 0 then s.refuseWith Status.badReq
  else if !s.hasPart (arg l 0) then s.refuseWith Status.state
  else (s.partitionReset (arg l 0)).done

/-- The partition goes, and the words that it has: translation, watchdog, tracked ranges (log 29). -/
def State.pdestroy (s : State) (l : List W64) : Nat × State :=
  match s.preset l with
  | (0, s) =>
    (s.setWorld (arg l 0) { s.world (arg l 0) with part := none, ttw := 0, domw := 0, wdog := 0, track := [] }).done
  | r => r

def execPreset (f : FmtP) (s : State) : Host.Outcome State Fault Refusal := pmState State.preset f s
def execPdestroy (f : FmtP) (s : State) : Host.Outcome State Fault Refusal := pmState State.pdestroy f s

/-! ## Quotas (R66, R68, R78, R83, R90) -/

/-- The key of a quota and the bound of its sum. -/
def quotaKind (v : Nat) : Option (Nat × Nat) :=
  match v % 8 with
  | 0 => if v = 0 then some (0, 131072) else none
  | 1 => if v = 1 then some (1, 65536) else none
  | 2 => if v = 2 then some (2, 32768) else none
  | 3 => if v = 3 then some (3, 4096) else none
  | 4 => if v < 128 ∧ v / 8 % 2 = 0 then some (16 + v / 16, 4096) else none
  | _ => none

/-- The other worlds' quotas of a kind. -/
def State.otherQuotas (s : State) (w key : Nat) : Nat :=
  (s.worlds.map fun (v, x) => if v = w then 0 else x.quota.get 0 key).sum

def State.setQuota (s : State) (l : List W64) : Nat × State :=
  let w := arg l 0
  match quotaKind (arg l 1) with
  | none => s.refuseWith Status.badReq
  | some (key, bound) =>
    if 64 ≤ w ∨ (w = 0 ∧ key = 16 ∧ arg l 2 < 512) then s.refuseWith Status.badReq
    else if bound < s.otherQuotas w key + arg l 2 then s.refuseWith Status.full
    else
      let x := s.world w
      (s.setWorld w { x with quota := x.quota.set 0 key (arg l 2) }).releaseHeld.done

def execQuota (f : FmtP) (s : State) : Host.Outcome State Fault Refusal := pmState State.setQuota f s

/-! ## Counters (R57) -/

/-- The counters a request names. -/
def counterArgs (l : List W64) : Bool := decide (arg l 0 < 64) && decide (arg l 1 + arg l 2 ≤ 262144)
def counterRange (l : List W64) : List Nat := (List.range (arg l 2)).map (arg l 1 + ·)

def State.ctralloc (s : State) (l : List W64) : Nat × State :=
  if !counterArgs l then s.refuseWith Status.badReq
  else if (counterRange l).any fun i => (s.counter i).alloc then s.refuseWith Status.state
  else
    ((counterRange l).foldl (fun s i => s.setCounter i { value := 0, alloc := true, owner := arg l 0, nwatch := 0 }) s).done

/-- A freed counter stands as at reset, OWNER 0 with it (DESIGN CHOICE, log 4). -/
def State.ctrfree (s : State) (l : List W64) : Nat × State :=
  if !counterArgs l then s.refuseWith Status.badReq
  else if (counterRange l).any fun i => !s.ownsCounter (arg l 0) i then s.refuseWith Status.state
  else
    let s := s.freeTriggers fun t =>
      t.st != .disarmed && trigCounter t && decide (arg l 1 ≤ trigCidx t.words) && decide (trigCidx t.words < arg l 1 + arg l 2)
    ((counterRange l).foldl (fun s i => s.setCounter i .empty) s).done

def execCtralloc (f : FmtP) (s : State) : Host.Outcome State Fault Refusal := pmState State.ctralloc f s
def execCtrfree (f : FmtP) (s : State) : Host.Outcome State Fault Refusal := pmState State.ctrfree f s

/-! ## Frames and slots (R98, R102) -/

/-- Fields of FTn and FTCTL that exist. -/
def ftMask : W64 := 0xFFFFFF
def ftctlMask : W64 := 0x7F

/-- LEN is 10 to 100,000. -/
def ftLenOk (e : W64) : Bool := decide (10 ≤ bits e 0 17) && decide (bits e 0 17 ≤ 100000)

/-- A core has a slot for a world. -/
def Core.hasSlot (k : Core) (w : Nat) : Bool := (k.shadow.get (0, 0) w).2 != 0

/-- A frame register as it will stand after a write. -/
def Core.ctlAfter (k : Core) (reg : Nat) (v : W64) : W64 := if reg = 16 then v else k.ctlNext
def Core.ftAfter (k : Core) (reg : Nat) (v : W64) (i : Nat) : W64 := if reg = i then v else k.ftNext i

/-- The write would leave a value out of its range: NFT, or the LEN of an entry in use. -/
def frameBad (k : Core) (reg : Nat) (v : W64) : Bool :=
  let ctl := k.ctlAfter reg v
  decide (reg < 17) && ((ftEn ctl && (ftNft ctl == 0 || decide (16 < ftNft ctl))) ||
    (List.range 16).any fun i => decide (i < ftNft ctl) && !ftLenOk (k.ftAfter reg v i))

/-- The write would leave an entry whose world does not hold the core, or lacks a shadow slot in sealed mode (R102), or would
leave frames off while two partitions hold the core. -/
def State.frameRefused (s : State) (c reg : Nat) (v : W64) : Bool :=
  let k := s.core c
  let ctl := k.ctlAfter reg v
  decide (reg < 17) &&
    ((List.range 16).any (fun i =>
      let e := k.ftAfter reg v i
      ftV e && (!s.holdsCore (ftWorld e) c || (ftSeal ctl && !k.hasSlot (ftWorld e)))) ||
    (!ftEn ctl && decide (2 ≤ (s.holders c).length)))

/-- A write of a frame register that takes effect at once: EN passing from 0 to 1 is an edge. -/
def State.frameNow (s : State) (c reg : Nat) (v : W64) : State :=
  let k := s.core c
  let on := ftEn k.ftctl
  let k := if reg = 16 then { k with ftctl := v } else if reg = 17 then { k with ftepoch := v } else { k with ft := k.ft.set 0 reg v }
  if !on && ftEn k.ftctl then (s.setCore c (k.enter s.now)).edge c s.now none true else s.setCore c k

def State.frameWrite (s : State) (l : List W64) : Nat × State :=
  let c := arg l 0
  let reg := arg l 1
  let k := s.core c
  let v := if reg < 16 then wd l 2 &&& ftMask else if reg = 16 then wd l 2 &&& ftctlMask else wd l 2
  if 128 ≤ c ∨ 17 < reg ∨ frameBad k reg v then s.refuseWith Status.badReq
  else if s.frameRefused c reg v then s.refuseWith Status.state
  else if ftEn k.ftctl ∧ ¬(reg < 16 ∧ ftNft k.ftctl ≤ reg) then (s.setCore c { k with ftNew := k.ftNew.set none reg (some v) }).done
  else (s.frameNow c reg v).done

/-- FRAME. A write that begins the frames of a core waits for the chunks that its copies are writing, as any edge does (R383). -/
def execFrame (f : FmtP) (s : State) : Host.Outcome State Fault Refusal :=
  pmWord (fun _ l => do
    let k := (← get).core (arg l 0)
    M.await (ftEn k.ftctl || arg l 1 != 16 || !k.copies.any Copy.writing) .finish
    M.step fun s => s.frameWrite l) f s

/-- A C-die's shadow store has 128 MiB (R391). -/
def State.shslot (s : State) (l : List W64) : Nat × State :=
  let c := arg l 0
  if 128 ≤ c ∨ 64 ≤ arg l 1 ∨ arg l 2 % 4096 ≠ 0 ∨ 2 ^ 27 < arg l 2 + arg l 3 then s.refuseWith Status.badReq
  else
    let k := s.core c
    (s.setCore c { k with shadow := k.shadow.set (0, 0) (arg l 1) (if arg l 3 = 0 then (0, 0) else (arg l 2, arg l 3)) }).done

def execShslot (f : FmtP) (s : State) : Host.Outcome State Fault Refusal := pmState State.shslot f s

/-! ## Words of a partition (R104, R113, R129, R401) -/

/-- An operation on the world of word 0, which must have a partition. -/
def State.withPart (s : State) (l : List W64) (ok : Bool) (g : Partition → World → World) : Nat × State :=
  if 64 ≤ arg l 0 ∨ !ok then s.refuseWith Status.badReq
  else
    match (s.world (arg l 0)).part with
    | none => s.refuseWith Status.state
    | some p => (s.setWorld (arg l 0) (g p (s.world (arg l 0)))).done

def wdogMask : W64 := 0x3F
def ttwMask : W64 := 0xFFFFFFFFF8001
def domwMask : W64 := 0x1FFFFFF

def execWdog (f : FmtP) (s : State) : Host.Outcome State Fault Refusal :=
  pmState (fun s l => s.withPart l (decide (bits (wd l 1) 0 5 ≤ 24)) fun _ x => { x with wdog := wd l 1 &&& wdogMask }) f s

def execXlate (f : FmtP) (s : State) : Host.Outcome State Fault Refusal :=
  pmState (fun s l => s.withPart l true fun _ x => { x with ttw := wd l 1 &&& ttwMask, domw := wd l 2 &&& domwMask }) f s

def execDebug (f : FmtP) (s : State) : Host.Outcome State Fault Refusal :=
  pmState (fun s l => s.withPart l (decide (arg l 1 < 2)) fun p x => { x with part := some { p with debug := arg l 1 == 1 } }) f s

def track0Mask : W64 := 0xFFFFFFFFFF0001
def track1Mask : W64 := 0xFFFFFFFFFF
def track2Mask : W64 := 0xFFFFFFFFFFFC0

/-- TRACK: a slot that is enabled has 1 granule or more. -/
def execTrack (f : FmtP) (s : State) : Host.Outcome State Fault Refusal :=
  pmState (fun s l =>
    s.withPart l (decide (arg l 1 < 16) && (!(wd l 2).getLsbD 0 || bits (wd l 3) 0 40 != 0)) fun _ x =>
      let i := arg l 1 * 3
      { x with track :=
          ((x.track.set 0 i (wd l 2 &&& track0Mask)).set 0 (i + 1) (wd l 3 &&& track1Mask)).set 0 (i + 2) (wd l 4 &&& track2Mask) }) f s

/-- INVAL (R123, R124). -/
def execInval (f : FmtP) (s : State) : Host.Outcome State Fault Refusal :=
  pmState (fun s l => if 64 ≤ arg l 0 then s.refuseWith Status.badReq else (s.invalidate (arg l 0) (arg l 1) (arg l 2)).done) f s

/-! ## Queues and bindings -/

/-- OVQ (R90). -/
def execOvq (f : FmtP) (s : State) : Host.Outcome State Fault Refusal :=
  pmState (fun s l =>
    let w := arg l 0
    if 64 ≤ w ∨ arg l 1 % 256 ≠ 0 ∨ arg l 2 < 10 ∨ 24 < arg l 2 then s.refuseWith Status.badReq
    else (s.setWorld w { s.world w with ovq := some (arg l 1, arg l 2), ovHead := 0 }).done) f s

/-- RXOVF (R62, R70). -/
def execRxovf (f : FmtP) (s : State) : Host.Outcome State Fault Refusal :=
  pmState (fun s l =>
    let w := arg l 0
    if 64 ≤ w ∨ 2 ^ 13 ≤ arg l 3 then s.refuseWith Status.badReq
    else
      (s.setWorld w { s.world w with rxovf := some (arg l 1, arg l 2, bits (wd l 3) 10 3, bits (wd l 3) 0 10), rxFill := 0 }).done) f s

/-- A binding word written: with EN = 0 a value that its lantern holds is discarded (R74). -/
def State.bindNotify (s : State) (reg : Nat) (v : W64) : State :=
  { s with nbind := s.nbind.set 0 reg (v &&& 0x1FFFFF) }.lanternDiscard reg

/-- NBIND (R73). -/
def execNbind (f : FmtP) (s : State) : Host.Outcome State Fault Refusal :=
  pmState (fun s l =>
    if 4096 ≤ arg l 0 then s.refuseWith Status.badReq else (s.bindNotify (arg l 0) (wd l 1)).done) f s

/-- JBIND (R46, R47). -/
def execJbind (f : FmtP) (s : State) : Host.Outcome State Fault Refusal :=
  pmState (fun s l =>
    let job := arg l 0
    if 2 ^ 24 ≤ job ∨ 64 < arg l 1 then s.refuseWith Status.badReq
    else if arg l 1 = 64 then { s with jobs := s.jobs.set none job none }.done
    else if (s.jobs.get none job).isNone ∧ 4096 ≤ s.jobs.length then s.refuseWith Status.full
    else { s with jobs := s.jobs.set none job (some (arg l 1)) }.done) f s

/-! ## Operations with results -/

/-- BUFRD (R150): the pair of a buffer number, then cleared. -/
def execBufrd (f : FmtP) (s : State) : Host.Outcome State Fault Refusal :=
  pmWord (fun va l => do
    let w := arg l 0
    let b := arg l 1
    if 64 ≤ w ∨ 256 ≤ b then return Status.badReq
    let x := (← get).world w
    blockResult va 6 (w64 (x.bufBytes.get 0 b))
    blockResult va 7 (w64 (x.bufStall.get 0 b))
    M.upd fun s =>
      let x := s.world w
      s.setWorld w { x with bufBytes := x.bufBytes.set 0 b 0, bufStall := x.bufStall.set 0 b 0 }
    return Status.ok) f s

/-- OWNRD (R167). -/
def execOwnrd (f : FmtP) (s : State) : Host.Outcome State Fault Refusal :=
  pmWord (fun va l => do
    if 128 ≤ arg l 0 ∨ 64 ≤ arg l 1 then return Status.badReq
    blockResult va 6 (w64 (((← get).core (arg l 0)).owner.get 0 (arg l 1)))
    return Status.ok) f s

/-! ## DLOGSWAP (R131, R366) -/

/-- The old bitmap's PA in d; 0 where the slot is not enabled or the world has no partition. -/
def execDlogswap (f : FmtP) (s : State) : Host.Outcome State Fault Refusal :=
  word .supervisor (do
    let a ← sreg f.a
    let b ← sreg f.b
    M.check (bits b 0 6 == 0 && bits b 52 12 == 0) Cause.badOperand
    M.upd fun s => s.dupReleaseIf fun d => !d.held.isEmpty
    let w := bits a 0 6
    let i := bits a 6 4 * 3
    let s ← get
    let t := (s.world w).track
    if s.hasPart w && (t.get 0 i).getLsbD 0 then
      M.upd fun s =>
        let x := s.world w
        s.setWorld w { x with track := x.track.set 0 (i + 2) b }
      writeSreg f.d (t.get 0 (i + 2))
    else writeSreg f.d 0) s

end Sys2Proof.Machine
end

