-- ==== Sys2Proof/Machine/Keys.lean ====
section
/-! DEFINITION. The security engine: KEYCMD (R170 to R174, R365) and the events SECURITY_COMPLETION, TRNG_HEALTH_FAIL and
TRNG_RECOVERY. Keys are values of Config, new at every step. -/

namespace Sys2Proof.Machine

/-! ## Requests (R365) -/

/-- The fields of a request block; word 0's domain belongs to LINKGEN alone. -/
def keyRequest (op : Nat) (l : List W64) : KeyOp :=
  { op, world := bits (wd l 0) 0 6, domain := bits (wd l 0) 6 12, tag := w64 (bits (wd l 0) 32 32),
    cls := bits (wd l 1) 0 3, oqn := bits (wd l 1) 3 10, args := (l.drop 2).take 4 }

/-- Fields that an operation does not use are 0: words from `used` on, and bits that no field names. -/
def keyBlockOk (used : Nat) (l : List W64) : Bool :=
  bits (wd l 0) 18 14 == 0 && bits (wd l 1) 13 51 == 0 && (l.drop used).all (· == 0)
def noDomain (l : List W64) : Bool := bits (wd l 0) 6 12 == 0

/-- A KEYCMD: d[7:0] the status, d[15:8] what HEALTH adds. -/
def keyWord (op : State → List W64 → Nat × State) (f : FmtP) (s : State) : Host.Outcome State Fault Refusal :=
  word .supervisor (do
    let va ← sreg f.a
    releaseStores
    let l ← requestBlock va
    let st ← M.step fun s => op s l
    writeSreg f.d (w64 st)) s

/-- An operation accepted, to finish later. -/
def State.accept (s : State) (op : Nat) (l : List W64) : Nat × State :=
  { s with keyOps := s.keyOps ++ [keyRequest op l] }.done

/-- An operation that is accepted unless a refusal applies. -/
def acceptOr (op : Nat) (why : State → KeyOp → List W64 → Option Nat) (f : FmtP) (s : State) : Host.Outcome State Fault Refusal :=
  keyWord (fun s l =>
    match why s (keyRequest op l) l with
    | some st => s.refuseWith st
    | none => s.accept op l) f s

/-! ## Acceptance (R170 to R172) -/

/-- WCREATE: a world that has its key keeps it for life (R161). -/
def wcreateRefused (s : State) (q : KeyOp) (l : List W64) : Option Nat :=
  if !(keyBlockOk 2 l && noDomain l) || (s.world q.world).memKey.isSome then some Status.badReq
  else if s.trngFailed then some Status.entropy
  else none
def execWcreate (f : FmtP) (s : State) : Host.Outcome State Fault Refusal := acceptOr 0 wcreateRefused f s

/-- Every key of a world zeroised; what its link streams still hold is never sent. -/
def State.zeroise (s : State) (w : Nat) : State :=
  let x := s.world w
  { s.setWorld w { x with memKey := none, epochs := x.epochs + 1, wkGens := [], wkNonce := [], attested := 0 } with
    stalled := s.stalled.filter fun m => m.1 != w,
    linkKeys := s.linkKeys.filter fun (_, k) => !k.any fun (k : LinkKey) => k.world == w }

/-- WDESTROY completes at once. -/
def execWdestroy (f : FmtP) (s : State) : Host.Outcome State Fault Refusal :=
  keyWord (fun s l =>
    if keyBlockOk 2 l && noDomain l then (s.zeroise (keyRequest 1 l).world).done else s.refuseWith Status.badReq) f s

/-- The next generation of a key: its current one plus 1. -/
def nextGen (gens : List (Nat × Nat)) : Nat := if gens.isEmpty then 0 else currentGen gens + 1

/-- The secure domain's key; another world's is no domain of w. -/
def State.domainKey (s : State) (w d : Nat) : Option LinkKey :=
  match s.linkKeys.get none d with
  | none => some { world := w, gens := [], nonce := [] }
  | some k => if k.world = w then some k else none

def linkgenRefused (s : State) (q : KeyOp) (l : List W64) : Option Nat :=
  match s.domainKey q.world q.domain with
  | none => some Status.badReq
  | some k =>
    if !keyBlockOk 2 l || (s.world q.world).memKey.isNone || decide (0xFFFF < nextGen k.gens) then some Status.badReq
    else if s.trngFailed then some Status.entropy
    else none
def execLinkgen (f : FmtP) (s : State) : Host.Outcome State Fault Refusal := acceptOr 2 linkgenRefused f s

/-- WKIMPORT: the generation named is greater than the current one; a wrapped 256-bit key has 40 bytes. -/
def importOk (s : State) (q : KeyOp) : Bool :=
  let x := s.world q.world
  let g := arg q.args 2
  x.memKey.isSome && (x.wkGens.isEmpty || decide (currentGen x.wkGens < g)) && decide (g ≤ 0xFFFF) && arg q.args 1 == 40
def wkimportRefused (s : State) (q : KeyOp) (l : List W64) : Option Nat :=
  if keyBlockOk 5 l && noDomain l && importOk s q then none else some Status.badReq
def execWkimport (f : FmtP) (s : State) : Host.Outcome State Fault Refusal := acceptOr 3 wkimportRefused f s

def wkgenRefused (s : State) (q : KeyOp) (l : List W64) : Option Nat :=
  let x := s.world q.world
  if !(keyBlockOk 2 l && noDomain l) || x.memKey.isNone || decide (0xFFFF < nextGen x.wkGens) then some Status.badReq
  else if s.trngFailed then some Status.entropy
  else none
def execWkgen (f : FmtP) (s : State) : Host.Outcome State Fault Refusal := acceptOr 4 wkgenRefused f s

/-- The blocks of a payload: an operand has at most 2,048 (R164). -/
def sealBlocks (len : Nat) : Nat := (len + 479) / 480
def sealRefused (s : State) (q : KeyOp) (l : List W64) : Option Nat :=
  if keyBlockOk 5 l && noDomain l && !(s.world q.world).wkGens.isEmpty && decide (sealBlocks (arg q.args 1) ≤ 2048) &&
      arg q.args 2 % 512 == 0 then none else some Status.badReq
def execSeal (f : FmtP) (s : State) : Host.Outcome State Fault Refusal := acceptOr 5 sealRefused f s

def attestRefused (s : State) (_ : KeyOp) (l : List W64) : Option Nat :=
  if !(keyBlockOk 5 l && noDomain l) then some Status.badReq
  else if 2 ^ 30 ≤ s.lms then some Status.sigExhausted
  else if s.trngFailed then some Status.entropy
  else none
def execAttest (f : FmtP) (s : State) : Host.Outcome State Fault Refusal := acceptOr 6 attestRefused f s

/-- HEALTH completes at once: d[15:8] is 1 while the TRNG is FAILED. -/
def execHealth (f : FmtP) (s : State) : Host.Outcome State Fault Refusal :=
  keyWord (fun s l =>
    if keyBlockOk 2 l && noDomain l then (Status.ok + (if s.trngFailed then 256 else 0), s) else s.refuseWith Status.badReq) f s

/-! ## Completion -/

/-- Generation g installed with its key: it and g − 1 alone remain, with their nonce counters (R171). -/
def installGen (gens : List (Nat × Nat)) (g key : Nat) : List (Nat × Nat) := (g, key) :: gens.filter fun (h, _) => h + 1 == g
def keepNonces (t : Tbl Nonce) (g : Nat) : Tbl Nonce := t.filter fun (h, _) => h + 1 == g

def State.installWeight (s : State) (w g key : Nat) : State :=
  let x := s.world w
  s.setWorld w { x with wkGens := installGen x.wkGens g key, wkNonce := keepNonces x.wkNonce g }

/-- A new generation of a domain's key, under which its stream resumes (R171). -/
def State.installLink (s : State) (d : Nat) (k : LinkKey) (g : Nat) : State :=
  let k := { k with gens := installGen k.gens g s.seq, nonce := keepNonces k.nonce g }
  { s with linkKeys := s.linkKeys.set none d (some k) }.unstall k.world

/-- One sealed block (R164, R165): its payload, header and tag. -/
def sealBlock (key : List Nat) (gen nctr bidx : Nat) (fmt : BitVec 5) (payload : List Byte) : List Byte :=
  let w61 := bidx % 2 ^ 11 * 2 ^ 37 + fmt.toNat * 2 ^ 32 + gen % 2 ^ 16 * 2 ^ 16 + nctr / 2 ^ 64 % 2 ^ 16
  let head := leNats 8 nctr ++ leNats 8 w61
  let iv := gen % 2 ^ 16 * 2 ^ 80 + nctr % 2 ^ 80
  let ct := gcmText key iv (toNats (fitBytes 480 payload))
  ofNats (ct ++ head ++ gcmTag key iv head ct)

/-- The blocks of a payload from a nonce on. -/
def sealAll (key : List Nat) (gen nctr : Nat) (fmt : BitVec 5) (payload : List Byte) : List Byte :=
  (List.range (sealBlocks payload.length)).flatMap fun i => sealBlock key gen (nctr + i) i fmt (payload.drop (480 * i))

/-- SEAL carried out on a payload that has been read: its status, or none where the stream has no nonces left and stalls. -/
def State.sealWrite (s : State) (q : KeyOp) (key : Nat) (l : List Byte) : Option Nat × State :=
  let x := s.world q.world
  let g := currentGen x.wkGens
  let (r, c, s) := s.takeNonces (x.wkNonce.get Nonce.fresh g) (sealBlocks l.length) (w64 (q.world + g * 2 ^ 32 + 2 ^ 63))
  let y := s.world q.world
  let s := s.setWorld q.world { y with wkNonce := y.wkNonce.set Nonce.fresh g c }
  match r with
  | none => (none, s)
  | some from_ =>
    match s.writeVa 7 q.world (arg q.args 2) (sealAll (leNats 32 key) g from_ (Config.sealFormat s.seq) l) with
    | .ok s => (some Status.ok, s)
    | .error f => (some Status.badReq, s.logFault f)

/-- SEAL carried out: its status, or none where it stalls. -/
def State.sealNow (s : State) (q : KeyOp) : Option Nat × State :=
  let x := s.world q.world
  match x.wkGens.lookup (currentGen x.wkGens) with
  | none => (some Status.badReq, s)
  | some key =>
    if arg q.args 1 = 0 then (some Status.ok, s)
    else
      match s.readVa 7 q.world (arg q.args 0) (arg q.args 1) with
      | .error f => (some Status.badReq, s.logFault f)
      | .ok (l, s) => s.sealWrite q key l

/-- WKIMPORT carried out. -/
def State.importNow (s : State) (q : KeyOp) : Nat × State :=
  if !importOk s q then s.refuseWith Status.badReq
  else
    match s.readVa 7 q.world (arg q.args 0) 40 with
    | .error f => (Status.badReq, s.logFault f)
    | .ok (l, s) =>
      match unwrapKey (Config.importKey q.world (s.world q.world).attested s.seq) (toNats l) with
      | none => s.refuseWith Status.badReq
      | some k => (s.installWeight q.world (arg q.args 2) k.toNat).done

/-- The partition and frame configuration of a world, as its report gives it (R15, R98, R174). -/
def State.worldConfig (s : State) (w : Nat) : List W64 :=
  (match (s.world w).part with
    | some p => [1, p.cores.setWidth 64, p.cores.extractLsb' 64 64, w64 p.threads, if p.debug then 1 else 0]
    | none => [0]) ++
    s.cores.flatMap fun (c, k) =>
      let mine := (List.range 16).filter fun i => ftV (k.ft.get 0 i) && ftWorld (k.ft.get 0 i) == w
      if mine.isEmpty then [] else [w64 c, k.ftctl, k.ftepoch] ++ mine.flatMap fun i => [w64 i, k.ft.get 0 i]

/-- The boot ROM accepts an image: both signatures verify and its version is not below the rollback counter (R411). -/
def imageAccepted (flash : Tbl Byte) : Bool := Config.imageSigned flash && decide (Config.rollback ≤ Config.imageVersion flash)

/-- The firmware that runs: slot A's where the boot ROM accepts it, else slot B's (R411). -/
def State.firmware (s : State) : Tbl Byte := if imageAccepted s.flashA then s.flashA else s.flashB

/-- ATTEST carried out: the LMS state advances before the report is written, and its ephemeral key is the world's from then on (R174). -/
def State.attestNow (s : State) (q : KeyOp) : Nat × State :=
  if 2 ^ 30 ≤ s.lms then s.refuseWith Status.sigExhausted
  else if s.trngFailed then s.refuseWith Status.entropy
  else
    match s.readVa 7 q.world (arg q.args 0) 32 with
    | .error f => (Status.badReq, s.logFault f)
    | .ok (nonce, s) =>
      let key := s.seq + 1
      let report := Config.attestation s.lms key (Config.measurement s.firmware) (s.worldConfig q.world) nonce
      if arg q.args 2 < report.length then s.refuseWith Status.badReq
      else
        let s := { s.setWorld q.world { s.world q.world with attested := key } with lms := s.lms + 1 }
        if report.isEmpty then s.done
        else
          match s.writeVa 7 q.world (arg q.args 1) report with
          | .ok s => s.done
          | .error f => (Status.badReq, s.logFault f)

/-- An accepted operation carried out: its final status; none where it stalls. -/
def State.keyOpNow (s : State) (q : KeyOp) : Option Nat × State :=
  let x := s.world q.world
  match q.op with
  | 0 =>
    if x.memKey.isSome then (some Status.badReq, s)
    else if s.trngFailed then (some Status.entropy, s)
    else
      (some Status.ok, s.setWorld q.world
        { x with memKey := some (x.epochs + 1), epochs := x.epochs + 1, wkGens := [(0, (Config.weightKey s.seq).toNat)], wkNonce := [] })
  | 2 =>
    match s.domainKey q.world q.domain with
    | none => (some Status.badReq, s)
    | some k =>
      if x.memKey.isNone ∨ 0xFFFF < nextGen k.gens then (some Status.badReq, s)
      else if s.trngFailed then (some Status.entropy, s)
      else (some Status.ok, s.installLink q.domain k (nextGen k.gens))
  | 3 => let (st, s) := s.importNow q; (some st, s)
  | 4 =>
    if x.memKey.isNone ∨ 0xFFFF < nextGen x.wkGens then (some Status.badReq, s)
    else if s.trngFailed then (some Status.entropy, s)
    else (some Status.ok, s.installWeight q.world (nextGen x.wkGens) (Config.weightKey s.seq).toNat)
  | 5 => s.sealNow q
  | _ => let (st, s) := s.attestNow q; (some st, s)

/-- SECURITY_COMPLETION (R70, R170): an accepted operation finishes, in any order, and posts its event to world 0. -/
def execSecurityCompletion (entry : Nat) (s : State) : Host.Outcome State Fault Refusal :=
  match s.keyOps[entry]? with
  | none => .next s
  | some q =>
    match s.keyOpNow q with
    | (none, s) => .next s
    | (some st, s) =>
      .next ({ s with keyOps := s.keyOps.eraseIdx entry }.postOrHold 0x09 0 q.cls q.oqn [q.tag, w64 st] none)

/-- TRNG_HEALTH_FAIL (R172). -/
def execTrngHealthFail (s : State) : Host.Outcome State Fault Refusal := .next { s with trngFailed := true }
/-- TRNG_RECOVERY (R172). -/
def execTrngRecovery (s : State) : Host.Outcome State Fault Refusal := .next { s with trngFailed := false }

end Sys2Proof.Machine
end

