-- ==== Sys2Proof/Machine/Platform.lean ====
section
/-! DEFINITION. The platform: resets and boot (R410, R411), operating points, thermal events, MSI-X, the firmware mailbox and
REGISTER_WRITE (R6, R407 to R413). -/

namespace Sys2Proof.Machine

/-! ## Boot (R411) -/

/-- BAR0 as the device-register window has it (R437). -/
def bar0Pa : Nat := 0xFFC0000000000
def bar0Size : Nat := 2 ^ 26

/-- A placement of the whole pool: 24 units of register space, 32 of accumulators and 72 of scratchpad. -/
def wholePool : W64 := w64 (24 * 2 ^ 7 + 24 * 2 ^ 12 + 32 * 2 ^ 19 + 56 * 2 ^ 25 + 72 * 2 ^ 32)

/-- A task of world 0 as launched, with the code image at 1 MiB and both streams at PC 0. -/
def placedTask (p : Place) (disp : Nat) : Ctx :=
  let control := match p with | .thread _ => true | _ => false
  { recva := 0x200000, readWorld := 0, hdr := if control then 1 else 0, code := 1, argp := 0,
    partw := if control then 0 else wholePool, ext := [], world := 0, place := p, disp, a := .launch, e := .launch,
    mxstat := 0, vshape := 0x7F, vksc := 0x3F800000, vw := [], swait := [], slotw := [], extBit := false, rgd := [],
    filled := [], released := [], readPos := [], imgAct := .empty, imgShad := .empty, queues := [], mcq := [], ve := [],
    msem := [], ctb := 0, ctStatus := [], ttd := [], tt := [], tagRefs := [], wdcnt := 0, claimNs := 0,
    primary := none, pending := none, statAct := .empty, statShad := .empty, phase := .running }

/-- The task that firmware begins as: a control task of world 0 on NP thread 0, at the entry that its image gives. -/
def firmwareTask (img : Tbl Byte) (disp : Nat) : Ctx :=
  let code := Config.bootCode img
  { placedTask (.thread 0) disp with recva := 0, code, e := { Stream.launch with pc := 8 * codeEent code } }

/-- An accepted image runs as world 0 (R411): its bytes stand in T0, world 0 translates, and its task runs. Where the bytes stand, the
translation word and the entry are the image's own, and values that the spec does not give (DESIGN CHOICE, log 5). -/
def State.runFirmware (s : State) : State :=
  let img := s.firmware
  let s := (Config.bootLoad img).foldl (fun s (a, b) => s.writePa (a % 2 ^ 39) [b]) s
  let s := s.setWorld 0 { s.world 0 with ttw := Config.bootTtw img &&& ttwMask }
  { s with nextDisp := s.nextDisp + 1, threads := s.threads.set none 0 (some (firmwareTask img s.nextDisp)) }

/-- Boot: slot A, then slot B, else recovery; the status stands in the first 8 bytes of the mailbox (R437). -/
def State.bootNow (s : State) : State :=
  let ok := imageAccepted s.flashA || imageAccepted s.flashB
  let s := { s with boot := if ok then .running else .recovery }.poke64 bar0Pa (Config.bootStatus ok)
  if ok then s.runFirmware else s

/-! ## Resets (R7, R410) -/

/-- Every world after a reset: its keys zeroised, and the number of keys made so far. -/
def resetWorlds (t : Tbl World) : Tbl World :=
  (List.range 64).foldl (fun u w =>
    let e := (t.get .empty w).epochs + 1
    u.set .empty w { (if w = 0 then World.reset0 else World.empty) with epochs := e }) []

/-- Power-on: every state at its reset value; fuses, the LMS state, the flash and the host's memory stay, and what the model
counts for itself goes on (log 2). -/
def State.coldState (s : State) : State :=
  { State.reset with
    agenda := s.agenda, rr := s.rr, seq := s.seq, nextDisp := s.nextDisp, nextId := s.nextId, outbox := s.outbox,
    worlds := resetWorlds s.worlds, lms := s.lms, keyEpoch := s.keyEpoch + 1, flashA := s.flashA, flashB := s.flashB,
    mem := s.mem.filter fun (a, _) => windowOf a == some .host }

/-- A byte of T0, T1 or T2, or of the host. -/
def survives (a : Nat) : Bool :=
  match windowOf a with
  | some .t0 | some .t1 | some (.t2 _) | some .host => true
  | _ => false

/-- A byte of the error ring. -/
def State.inRing (s : State) (a : Nat) : Bool :=
  match s.errRing with
  | some (pa, lg) => decide (pa ≤ a) && decide (a < pa + 64 + 32 * 2 ^ lg)
  | none => false

/-- What the tiers hold as a reset leaves them, under the keys of before: bytes held under no other key were written by physical address,
under world 0's key at their own address; the error log stays readable, its header as firmware has written it too (DEDUCED, log 6). -/
def State.sealedTiers (s : State) : Tbl (Option EncTag) :=
  s.mem.foldl (fun t (a, _) =>
    if tiered a && !s.inRing a && (t.get none (a / 64)).isNone then t.set none (a / 64) (some (.key 0 (s.world 0).keyNow (a / 64))) else t)
    (s.enc.filter fun (g, _) => !(s.inRing (g * 64) || s.inRing (g * 64 + 63)))

/-- As a cold reset, but PTP time, the error log and the tiers are kept, these as ciphertext under keys that are zeroised; every block is
live, and one that was not reads 0. -/
def State.warmState (s : State) : State :=
  let s' := s.dead.keys.foldl (fun s b => s.revive (b * 2 ^ 21)) s
  { s.coldState with
    now := s.now, errRing := s.errRing, mem := s'.mem.filter fun (a, _) => survives a, enc := s'.sealedTiers, ecc := s'.ecc }

/-- A byte of T0 or T1. -/
def onModule (a : Nat) : Bool := windowOf a == some .t0 || windowOf a == some .t1

/-- As a warm reset, then repair: T0 and T1 are lost, and a row replaced by a spare has no standing error. Rows are named by
the granule that the error log gives (R158). -/
def State.maintState (s : State) (rows : List Nat) : State :=
  let s := s.warmState
  { s with
    mem := s.mem.filter fun (a, _) => !onModule a, enc := s.enc.filter fun (g, _) => !onModule (g * 64),
    ecc := s.ecc.filter fun (g, _) => !(onModule (g * 64) && rows.contains g && Config.spareRow g) }

def execColdReset (s : State) : Host.Outcome State Fault Refusal := .next s.coldState.bootNow
def execWarmReset (s : State) : Host.Outcome State Fault Refusal := .next s.warmState.bootNow
def execMaintReset (rows : List Nat) (s : State) : Host.Outcome State Fault Refusal := .next (s.maintState rows).bootNow

/-! ## Clocks and temperature (R412, R413) -/

/-- OP_POINT_CHANGE: one of the three points; a change stops fetch on the C-dies for 20 us at most and alters no result. -/
def execOpPointChange (point : BitVec 2) (s : State) : Host.Outcome State Fault Refusal :=
  .next (if point = 3 then s else { s with point, fetchAt := s.now + Config.pointNs s.seq % 20001 })

/-- THERMAL_ALARM: a die is at a temperature; one report is posted each time it rises through 105 °C. -/
def execThermalAlarm (die : BitVec 3) (celsius : BitVec 8) (s : State) : Host.Outcome State Fault Refusal :=
  let d := die.toNat
  if 4 < d then .next s
  else
    let above := decide (105 ≤ celsius.toNat)
    let rises := above && !s.hot.get false d
    let s := { s with hot := s.hot.set false d above }
    .next (if rises then s.dieReport 0 Cause.thermal 0 (w64 (d + celsius.toNat * 2 ^ 8)) none else s)

/-- THERMAL_SHUTDOWN: at 115 °C the module performs a warm reset. -/
def execThermalShutdown (die : BitVec 3) (s : State) : Host.Outcome State Fault Refusal :=
  if 4 < die.toNat then .next s else execWarmReset s

/-! ## Host link (R407, R408) -/

/-- MSIX_DOORBELL: a store of v to the doorbell word. -/
def execMsixDoorbell (v : W64) (s : State) : Host.Outcome State Fault Refusal := .next (s.ring v)

/-- FIRMWARE_MAILBOX_WRITE: bytes at an offset of BAR0; in recovery they go into slot A, which boot tries again. -/
def execFirmwareMailboxWrite (off : Nat) (bytes : List Byte) (s : State) : Host.Outcome State Fault Refusal :=
  if bar0Size < off + bytes.length then .next s
  else if s.boot = .recovery then
    .next { s with flashA := bytes.zipIdx.foldl (fun t (b, i) => t.set 0 (off + i) b) s.flashA }.bootNow
  else .next (s.poke (bar0Pa + off) bytes)

/-! ## REGISTER_WRITE (R6) -/

/-- A stream of the task that runs at an agent changed. -/
def State.modAgent (s : State) (ag : Agent) (g : Stream → Stream) : State :=
  match s.ctx ag.place with
  | some x => s.setCtx ag.place (some (x.setStream ag (g (x.stream ag))))
  | none => s
/-- The task that runs at a place changed. -/
def State.modTask (s : State) (p : Place) (g : Ctx → Ctx) : State :=
  match s.ctx p with
  | some x => s.setCtx p (some (g x))
  | none => s

/-- A register with no behaviour of its own takes the RW fields of a value; RES0 fields stay 0. -/
def State.writePlain (s : State) (r : PlainReg) (v : W64) : State :=
  match r with
  | .fpctl ag => if fpctlOk v then s.modAgent ag fun st => { st with fpctl := v &&& fpctlMask } else s
  | .fpstat ag => s.modAgent ag fun st => { st with fpstat := v &&& fpstatMask }
  | .srseedl ag => s.modAgent ag fun st => { st with lfsr := st.lfsr.extractLsb' 64 64 ++ v }
  | .srseedh ag => s.modAgent ag fun st => { st with lfsr := v ++ st.lfsr.setWidth 64 }
  | .mxstat c => s.modTask (.core c) fun x => { x with mxstat := v &&& mxstatMask }
  | .vw c n => if n < 16 then s.modTask (.core c) fun x => { x with vw := x.vw.set 0 n (v &&& vwMask) } else s
  | .vshape c => s.modTask (.core c) fun x => { x with vshape := v &&& vshapeMask }
  | .vksc c => s.modTask (.core c) fun x => { x with vksc := v &&& vkscMask }
  | .swait ag n => if n < 4 then s.modTask ag.place fun x => { x with swait := x.swait.set 0 n (swaitWord v) } else s
  | .wdog w => if 64 ≤ w then s else s.setWorld w { s.world w with wdog := v &&& wdogMask }
  | .ttw w => if 64 ≤ w then s else s.setWorld w { s.world w with ttw := v &&& ttwMask }
  | .domw w => if 64 ≤ w then s else s.setWorld w { s.world w with domw := v &&& domwMask }
  | .nbind n => if 4096 ≤ n then s else s.bindNotify n v

def execRegisterWrite (r : PlainReg) (v : W64) (s : State) : Host.Outcome State Fault Refusal := .next (s.writePlain r v)

end Sys2Proof.Machine
end

