-- ==== Sys2Proof/Machine/Relctx.lean ====
section
/-! DEFINITION. RELCTX, PMCMD operation 0x14 (R388 to R390, R402, R403). The step chooses the row by the action in word 1 of the
request block (log 16); DISCARD's meaning also answers the operation and action codes that no row has. -/

namespace Sys2Proof.Machine

/-- The unit that word 0 names. -/
def targetOk (l : List W64) : Bool := decide (arg l 0 < 320)

/-- The context of a unit's bank: the other one where `other`. -/
def State.ctxAt (s : State) (u : Nat) (other : Bool) : Option Ctx := if other then (s.core u).other else s.ctx (placeOf u)
def State.setCtxAt (s : State) (u : Nat) (other : Bool) (x : Option Ctx) : State :=
  if other then s.setCore u ((s.core u).setOther x) else s.setCtx (placeOf u) x

/-- When a held context faulted. -/
def Ctx.heldSince (x : Ctx) : Option Nat :=
  match x.phase with
  | .held n => some n
  | _ => none

/-- The held context of a unit that faulted first, and whether it stands in the other bank. -/
def State.heldAt (s : State) (u : Nat) : Option (Bool × Ctx) :=
  let here (o : Bool) : Option (Nat × Bool × Ctx) :=
    (s.ctxAt u o).bind fun x => x.heldSince.map fun n => (n, o, x)
  match here false, if u < 128 then here true else none with
  | some (n, a), some (m, b) => some (if m < n then b else a)
  | some (_, a), none => some a
  | none, some (_, b) => some b
  | none, none => none

/-- The debug-halted context of a unit. -/
def State.haltedAt (s : State) (u : Nat) : Option (Bool × Ctx) :=
  let here (o : Bool) : Option (Bool × Ctx) := (s.ctxAt u o).bind fun x => if x.phase = .halted then some (o, x) else none
  (here false).orElse fun _ => if u < 128 then here true else none

/-- Responses of a unit's contexts are still to come (R386). -/
def State.lateAt (s : State) (u : Nat) : Bool :=
  let due (x : Ctx) : Bool := (x.heldSince.isSome || x.phase == .halted) && !(x.a.out.isEmpty && x.e.out.isEmpty)
  (s.ctxAt u false).any due || (decide (u < 128) && (s.ctxAt u true).any due) ||
    s.saved.any fun v => v.core == u && !v.late.isEmpty

/-- The report of a fault of the unit waits to be posted (R71). -/
def State.reportHeld (s : State) (u : Nat) : Bool :=
  s.held.any fun h => h.kind != 0x03 && h.from_ == some (placeOf u)

/-- An action on a target: it waits for the responses due there. -/
def relWord (act : State → List W64 → Nat × State) (f : FmtP) (s : State) : Host.Outcome State Fault Refusal :=
  pmWord (fun _ l => do
    if !targetOk l then return Status.badReq
    M.await (!(← get).lateAt (arg l 0)) .late
    M.step fun s => act s l) f s

/-- A held context of the target, or the refusal. -/
def State.onHeld (s : State) (l : List W64) (g : Bool → Ctx → Nat × State) : Nat × State :=
  match s.heldAt (arg l 0) with
  | none => s.refuseWith Status.state
  | some (o, x) => if s.reportHeld (arg l 0) then s.refuseWith Status.busy else g o x

/-- A context leaves its bank or thread; an idle core goes on. -/
def State.vacate (s : State) (u : Nat) (other : Bool) : State :=
  if other then s.setCtxAt u true none
  else
    let s := s.free (placeOf u)
    if u < 128 then s.settle u else s

/-- DISCARD: its copies go on as orphans. -/
def State.discardHeld (s : State) (l : List W64) : Nat × State :=
  s.onHeld l fun o x =>
    let u := arg l 0
    let s := if u < 128 then s.setCore u ((s.core u).orphan x.disp) else s
    (s.vacate u o).done

def execDiscard (f : FmtP) (s : State) : Host.Outcome State Fault Refusal :=
  if (f.imm.extractLsb' 0 8).toNat = 0x14 then
    pmWord (fun _ l => do
      if !targetOk l || arg l 1 != 0 then return Status.badReq
      M.await (!(← get).lateAt (arg l 0)) .late
      M.step fun s => s.discardHeld l) f s
  else pmState (fun s _ => s.refuseWith Status.badReq) f s

/-- RESUME: the bank becomes standby, whatever units its placement shares with the active task's, and a held thread runs at once, beyond
its world's thread quota too, where that is full (R15, R38, R389; DESIGN CHOICE, log 18). -/
def State.resumeHeld (s : State) (l : List W64) : Nat × State :=
  s.onHeld l fun o x =>
    let u := arg l 0
    if x.pending.isSome ∨ x.primary.any fun r => r.b.getLsbD 26 then s.refuseWith Status.state
    else
      let x := { x with primary := none }
      if 128 ≤ u then (s.setCtxAt u false (some { x with phase := .running })).done
      else
        let s := s.setCtxAt u o (some { x with phase := .standby })
        (if o then s.settle u else s.activate u).done

def execResume (f : FmtP) (s : State) : Host.Outcome State Fault Refusal := relWord State.resumeHeld f s

/-- The image of a halted context where SAVE writes it: as its debugger has left it, with the banks beside it (R389, R403). -/
def State.saveHalted (s : State) (v : Saved) (pa : Nat) (img : Image) : State :=
  let n := img.len - 2 ^ 17 * (img.area.length / 2048)
  let s := (s.touched v.pa n).copyGranules v.pa pa (n / 64)
  s.writePieces pa (img.pieces.filter fun (o, _) => o == 0 || (decide (0x14000 ≤ o) && decide (o < 0x14200)))

/-- SAVE of a context that stands in a bank or thread of its unit: its image with BANKS = 1, and it leaves. -/
def State.saveAt (s : State) (u pa : Nat) (other : Bool) (x : Ctx) (img : Image) : State :=
  let s := s.writeImage pa img
  let s := match (if x.phase = .halted then s.haltedImage u x.world else none) with
    | some v => { s.saveHalted v pa img with saved := s.saved.erase v }
    | none => s
  let s := s.dropRefs x.tagRefs
  let s := if u < 128 then s.setCore u { s.core u with copies := (s.core u).copies.filter fun p => p.task != some x.disp } else s
  s.vacate u other

/-- SAVE: the image's length in word 6. Its accesses by physical address fault as any other (R136, R156, R159). -/
def execSave (f : FmtP) (s : State) : Host.Outcome State Fault Refusal :=
  pmWord (fun va l => do
    let u := arg l 0
    let pa := arg l 2
    if !targetOk l then return Status.badReq
    M.await (!(← get).lateAt u) .late
    let s ← get
    match (s.heldAt u).orElse fun _ => s.haltedAt u with
    | none => return Status.state
    | some (o, x) =>
      let mine := if u < 128 then (s.core u).copies.filter fun p => p.task == some x.disp else []
      let img := s.imageOf u x.world (some x) mine (x.phase == .halted) true
      if s.reportHeld u then return Status.busy
      else if pa % 4096 ≠ 0 ∨ !installed pa img.len then return Status.badReq
      else
        physOk pa img.len false
        match (if x.phase = .halted then s.haltedImage u x.world else none) with
        | some v => physOk v.pa (img.len - 2 ^ 17 * (img.area.length / 2048)) true
        | none => pure ()
        blockResult va 6 (w64 img.len)
        M.upd fun s => s.saveAt u pa o x img
        return Status.ok) f s

/-! ## LOAD (R389, R390) -/

/-- The unit has a free bank, or is a free thread. -/
def State.bankFree (s : State) (u : Nat) : Bool :=
  (s.ctxAt u false).isNone || (decide (u < 128) && (s.ctxAt u true).isNone)

/-- The resume entry that the SUSPEND word before a PC names (R255). -/
def State.resumeEntry (s : State) (ag : Agent) (world : Nat) (code : W64) (pc : Nat) : BitVec 14 :=
  match s.readVa 0 world (wordVa ag code (pc - 1 : Nat)) 6 with
  | .ok (l, _) => (insnOfBytes l).extractLsb' 0 14
  | .error _ => 0

/-- The record of a loaded context: its code word, read mask and extension words; where it cannot be read, a code word that the spec
does not give (DESIGN CHOICE, log 17). -/
def State.loadedRecord (s : State) (world recva : Nat) : W64 × List W64 :=
  match s.readRecord world recva with
  | .ok (words, ext, _) => (wd words 1, ext)
  | .error _ => (Config.loadedCode s.seq, [])

/-- A context of a loaded image but for what the image itself holds: the code word and extension words come from its record (log 17). -/
def State.loadedBase (s : State) (u : Nat) (m : ImageBytes) : Ctx :=
  let world := imgWorld m
  let recva := (rdWord m 0x008).toNat
  let (code, ext) := s.loadedRecord world recva
  let left (e : Bool) : BitVec 14 :=
    let w := rdWord m (streamOff e).1
    let ag : Agent := if 128 ≤ u then .np (u - 128) else if e then .e u else .a u
    if bits w 36 2 = 2 then s.resumeEntry ag world code (bits w 0 17) else 0
  { recva, readWorld := world, hdr := rdWord m 0x020, code, argp := rdWord m 0x010, partw := rdWord m 0x018, ext, world,
    place := placeOf u, disp := s.nextDisp, a := { Stream.launch with resume := left false },
    e := { Stream.launch with resume := left true },
    mxstat := 0, vshape := 0, vksc := 0, vw := [], swait := [], slotw := rdTable m 0x568 4, extBit := hdrExt (rdWord m 0x020),
    rgd := [], filled := [], released := [], readPos := [], imgAct := .empty, imgShad := .empty, queues := [], mcq := [],
    ve := [], msem := [], ctb := 0, ctStatus := [], ttd := [], tt := [], tagRefs := [], wdcnt := 0, claimNs := 0,
    primary := none, pending := none, statAct := .empty, statShad := .empty, phase := .preempted }

/-- The length of an image. -/
def imageLen (m : ImageBytes) : Nat :=
  let partw := rdWord m 0x018
  0x40000 + (bits partw 7 5 + bits partw 19 6) * 65536 + (if imgBanks m then (scratchBanks partw).length * 2 ^ 17 else 0)

/-- An image of orphan copies alone, with RECVA = 0 (R396). -/
def orphanImage (u : Nat) (m : ImageBytes) : Bool := decide (u < 128) && rdWord m 0x008 == 0

/-- An image of a context installed as a pre-empted context of its world, at a save place of its own (DESIGN CHOICE, log 17), which comes
back at once where it may. -/
def State.installContext (s : State) (u pa : Nat) (m : ImageBytes) : State :=
  let w := imgWorld m
  let plc := s.loadPlace u w
  let dst := s.placePa u w plc
  let v : Saved := { core := u, world := w, plc, pa := dst, ctx := some (s.loadedBase u m), copies := [], late := [] }
  let s := s.copyGranules pa dst (imageLen m / 64)
  let s := { s with nextDisp := s.nextDisp + 1, saved := s.saved ++ [v] }
  if s.mayReturn v then s.restore v else s

/-- The orphan copies of a loaded image join those of their world that wait for its next frame on the core (R396), and go on at once
where they may. -/
def State.installOrphans (s : State) (u : Nat) (m : ImageBytes) : State :=
  let w := imgWorld m
  let copies := s.readCopies m u none s.nextId []
  let s := { s with nextId := s.nextId + imageIds }.saveOrphans u w copies
  match s.saved.find? fun v => v.core == u && v.world == w && v.plc == 0 && v.ctx.isNone with
  | some v => if s.mayReturn v then s.restore v else s
  | none => s

/-- An image installed (R389). -/
def State.installImage (s : State) (u pa : Nat) (m : ImageBytes) : State :=
  if orphanImage u m then s.installOrphans u m else s.installContext u pa m

/-- LOAD. Its accesses by physical address fault as any other (R136, R156, R159). -/
def execLoad (f : FmtP) (s : State) : Host.Outcome State Fault Refusal :=
  pmWord (fun _ l => do
    let u := arg l 0
    let pa := arg l 2
    if !targetOk l then return Status.badReq
    M.await (!(← get).lateAt u) .late
    if pa % 4096 ≠ 0 ∨ !installed pa 0x40000 then return Status.badReq
    if !(← get).bankFree u then return Status.busy
    physOk pa 0x40000 true
    let m ← M.get fun s => s.imageAt pa
    M.upd fun s => s.touched pa 0x40000
    if !(← get).imageOk m u ∨ !installed pa (imageLen m) then return Status.badReq
    physOk (pa + 0x40000) (imageLen m - 0x40000) true
    M.upd fun s => (s.touched (pa + 0x40000) (imageLen m - 0x40000)).installImage u pa m
    return Status.ok) f s

/-! ## Worlds -/

/-- The thread whose word executes. -/
def State.self (s : State) : Option Nat :=
  match s.cur with
  | some (.np t) => some t
  | _ => none

/-- STOPW: every task of the world in word 3, once the words of its other threads that complete first have done so (R385). -/
def execStopw (f : FmtP) (s : State) : Host.Outcome State Fault Refusal :=
  pmWord (fun _ l => do
    if !targetOk l || decide (64 ≤ arg l 3) then return Status.badReq
    M.await (!(← get).lateAt (arg l 0)) .late
    let s ← get
    if !s.hasPart (arg l 3) then return Status.state
    M.await (!s.finishing (arg l 3) s.self) .finish
    M.upd fun s => s.stopWorld (arg l 3) fun _ x => x
    return Status.ok) f s

/-- STARTW. -/
def execStartw (f : FmtP) (s : State) : Host.Outcome State Fault Refusal :=
  relWord (fun s l =>
    if 64 ≤ arg l 3 then s.refuseWith Status.badReq
    else if !s.failed (arg l 3) then s.refuseWith Status.state
    else
      let x := s.world (arg l 3)
      (s.setWorld (arg l 3) { x with part := x.part.map fun p => { p with failed := false } }).done) f s

/-! ## Debug (R402, R403) -/

/-- DHALT: the active task of the target, of a world with debug enabled. -/
def execDhalt (f : FmtP) (s : State) : Host.Outcome State Fault Refusal :=
  pmWord (fun _ l => do
    if !targetOk l then return Status.badReq
    M.await (!(← get).lateAt (arg l 0)) .late
    let s ← get
    match s.ctx (placeOf (arg l 0)) with
    | none => return Status.state
    | some x =>
      if x.phase ≠ .running ∨ !s.debugOn x.world then return Status.state
      M.await ((s.self = some (arg l 0 - 128) || !x.finishing) && !s.chunkOut (placeOf (arg l 0))) .finish
      M.upd fun s => s.debugHalt (placeOf (arg l 0))
      return Status.ok) f s

/-- A halted context read back from its image and run again (R395, R403); what delays its first fetch is what its claims asked for when it
came back to its bank, or what they ask for now in a later frame (R169). -/
def State.unhalt (s : State) (u : Nat) (x : Ctx) (v : Saved) : State :=
  let m := s.imageAt v.pa
  let first := s.nextId
  let s := { s with saved := s.saved.erase v, nextId := s.nextId + imageIds }
  let y := s.readContext m x
  if 128 ≤ u then s.setCtx (placeOf u) (some y.resumed)
  else
    let k := s.core u
    let (mine, rest) := k.copies.partition fun p => p.task == some x.disp
    let copies := s.readCopies m u (some y) first mine ++ y.refills (first + 128) mine
    let s := s.setCore u { k with copies := rest ++ copies }
    let (s, ns) := s.claim u y.world (partwBanks y.partw)
    ((s.restorePool v.pa m u y.world y.partw).setCtx (.core u) (some { y with claimNs := max x.claimNs ns })).activate u

/-- DRESUME. -/
def execDresume (f : FmtP) (s : State) : Host.Outcome State Fault Refusal :=
  pmWord (fun _ l => do
    let u := arg l 0
    if !targetOk l then return Status.badReq
    M.await (!(← get).lateAt u) .late
    let s ← get
    match (s.ctx (placeOf u)).bind fun x => if x.phase = .halted then (s.haltedImage u x.world).map fun v => (x, v) else none with
    | none => return Status.state
    | some (x, v) =>
      let m := s.imageAt v.pa
      physOk v.pa (imageHead m) true
      M.upd fun s => s.touched v.pa (imageHead m)
      if !s.imageOk m u then return Status.badReq
      M.upd fun s => s.unhalt u x v
      return Status.ok) f s

end Sys2Proof.Machine
end

