-- ==== Sys2Proof/Machine/Scalar.lean ====
section
/-! DEFINITION. Integer arithmetic: majors 0x01, 0x02 and 0x03 (R233 to R236). -/

namespace Sys2Proof.Machine

/-! ## What each operation computes (R233) -/

def aluAdd (i : AluIn) : Int := i.x + i.y
def aluSub (i : AluIn) : Int := i.x - i.y
def aluMul (i : AluIn) : Int := i.x * i.y
def aluMulh (i : AluIn) : Int := i.xs * i.ys / (2 ^ i.w : Nat)
def aluMulhn (i : AluIn) : Int := (i.x * i.y / 2 ^ i.w : Nat)
def aluMad (i : AluIn) : Int := i.x * i.y + i.z
def aluAnd (i : AluIn) : Int := (i.x &&& i.y : Nat)
def aluOr (i : AluIn) : Int := (i.x ||| i.y : Nat)
def aluXor (i : AluIn) : Int := (i.x ^^^ i.y : Nat)
/-- ~y at width w. -/
def AluIn.ny (i : AluIn) : Nat := 2 ^ i.w - 1 - i.y
def aluAndn (i : AluIn) : Int := (i.x &&& i.ny : Nat)
def aluOrn (i : AluIn) : Int := (i.x ||| i.ny : Nat)
def aluXnor (i : AluIn) : Int := (2 ^ i.w - 1 - (i.x ^^^ i.y) : Nat)
def aluShl (i : AluIn) : Int := if i.w ≤ i.n then 0 else (i.x * 2 ^ i.n : Nat)
def aluShr (i : AluIn) : Int := if i.w ≤ i.n then 0 else (i.x / 2 ^ i.n : Nat)
def aluSar (i : AluIn) : Int := if i.w ≤ i.n then (if i.xs < 0 then -1 else 0) else i.xs / (2 ^ i.n : Nat)
def aluRol (i : AluIn) : Int := let k := i.n % i.w; (i.x * 2 ^ k + i.x / 2 ^ (i.w - k) : Nat)
def aluRor (i : AluIn) : Int := let k := i.n % i.w; (i.x / 2 ^ k + i.x * 2 ^ (i.w - k) : Nat)
def aluMin (i : AluIn) : Int := if i.ys < i.xs then i.y else i.x
def aluMax (i : AluIn) : Int := if i.xs < i.ys then i.y else i.x
def aluMinn (i : AluIn) : Int := if i.y < i.x then i.y else i.x
def aluMaxn (i : AluIn) : Int := if i.x < i.y then i.y else i.x
def aluSlt (i : AluIn) : Int := if i.xs < i.ys then 1 else 0
def aluSltn (i : AluIn) : Int := if i.x < i.y then 1 else 0
def aluSeq (i : AluIn) : Int := if i.x = i.y then 1 else 0
def aluSne (i : AluIn) : Int := if i.x ≠ i.y then 1 else 0
def aluClz (i : AluIn) : Int := if i.x = 0 then i.w else i.w - 1 - i.x.log2
/-- Trailing zero bits of a number below 2^fuel. -/
def ctzNat : Nat → Nat → Nat
  | 0, _ => 0
  | k + 1, n => if n % 2 = 1 then 0 else 1 + ctzNat k (n / 2)
def aluCtz (i : AluIn) : Int := ctzNat i.w i.x
/-- 1 bits among the low `k`. -/
def popNat : Nat → Nat → Nat
  | 0, _ => 0
  | k + 1, n => n % 2 + popNat k (n / 2)
def aluPopc (i : AluIn) : Int := popNat i.w i.x
/-- The low k bits reversed. -/
def brevNat : Nat → Nat → Nat
  | 0, _ => 0
  | k + 1, n => (n % 2) * 2 ^ k + brevNat k (n / 2)
def aluBrev (i : AluIn) : Int := brevNat i.w i.x
/-- The bits of x at the 1s of y, packed from bit 0. -/
def bextNat : Nat → Nat → Nat → Nat
  | 0, _, _ => 0
  | k + 1, x, y => if y % 2 = 1 then x % 2 + 2 * bextNat k (x / 2) (y / 2) else bextNat k (x / 2) (y / 2)
def aluBext (i : AluIn) : Int := bextNat i.w i.x i.y
/-- The low bits of x placed at the 1s of y. -/
def bdepNat : Nat → Nat → Nat → Nat
  | 0, _, _ => 0
  | k + 1, x, y => if y % 2 = 1 then x % 2 + 2 * bdepNat k (x / 2) (y / 2) else 2 * bdepNat k x (y / 2)
def aluBdep (i : AluIn) : Int := bdepNat i.w i.x i.y

/-- The signed quotient and remainder (R234). -/
def divSigned (i : AluIn) : Int × Int :=
  if i.y = 0 then (0, i.xs)
  else if i.xs = -(2 ^ (i.w - 1) : Nat) ∧ i.ys = -1 then (-(2 ^ (i.w - 1) : Nat), 0)
  else (i.xs.tdiv i.ys, i.xs - i.xs.tdiv i.ys * i.ys)
/-- The unsigned quotient and remainder (R234). -/
def divUnsigned (i : AluIn) : Int × Int :=
  if i.y = 0 then (0, i.x) else ((i.x / i.y : Nat), (i.x % i.y : Nat))

/-! ## The words -/

/-- A row of major 0x01 (R231, R233): `g` of the operands, truncated to w and extended under X. -/
def aluWord (g : AluIn → Int) (f : FmtS) (s : State) : Host.Outcome State Fault Refusal :=
  wordIf .any f.pg (do
    let i := (← curStream).aluIn f
    writeSreg f.d (extendW i.w (f.mod.getLsbD 0) (truncW i.w (g i)))) s

/-- A division row: as `aluWord`, with IDZ for a zero divisor (R234). -/
def divWord (g : AluIn → Int) (f : FmtS) (s : State) : Host.Outcome State Fault Refusal :=
  wordIf .any f.pg (do
    let i := (← curStream).aluIn f
    setFlags (idzFlag i.y)
    writeSreg f.d (extendW i.w (f.mod.getLsbD 0) (truncW i.w (g i)))) s

/-- A row of major 0x02 (R235): 64 bits, y the immediate. -/
def immWord (g : AluIn → Int) (f : FmtI) (s : State) : Host.Outcome State Fault Refusal :=
  wordIf .any f.pg (do
    let i := (← curStream).immIn f
    writeSreg f.d (w64 (truncW 64 (g i)))) s

def execAdd (f : FmtS) (s : State) : Host.Outcome State Fault Refusal := aluWord aluAdd f s
def execSub (f : FmtS) (s : State) : Host.Outcome State Fault Refusal := aluWord aluSub f s
def execMul (f : FmtS) (s : State) : Host.Outcome State Fault Refusal := aluWord aluMul f s
def execMulh (f : FmtS) (s : State) : Host.Outcome State Fault Refusal := aluWord aluMulh f s
def execMulhn (f : FmtS) (s : State) : Host.Outcome State Fault Refusal := aluWord aluMulhn f s
def execDiv (f : FmtS) (s : State) : Host.Outcome State Fault Refusal := divWord (fun i => (divSigned i).1) f s
def execDivn (f : FmtS) (s : State) : Host.Outcome State Fault Refusal := divWord (fun i => (divUnsigned i).1) f s
def execRem (f : FmtS) (s : State) : Host.Outcome State Fault Refusal := divWord (fun i => (divSigned i).2) f s
def execRemn (f : FmtS) (s : State) : Host.Outcome State Fault Refusal := divWord (fun i => (divUnsigned i).2) f s
def execMad (f : FmtS) (s : State) : Host.Outcome State Fault Refusal := aluWord aluMad f s
def execAnd (f : FmtS) (s : State) : Host.Outcome State Fault Refusal := aluWord aluAnd f s
def execOr (f : FmtS) (s : State) : Host.Outcome State Fault Refusal := aluWord aluOr f s
def execXor (f : FmtS) (s : State) : Host.Outcome State Fault Refusal := aluWord aluXor f s
def execAndn (f : FmtS) (s : State) : Host.Outcome State Fault Refusal := aluWord aluAndn f s
def execOrn (f : FmtS) (s : State) : Host.Outcome State Fault Refusal := aluWord aluOrn f s
def execXnor (f : FmtS) (s : State) : Host.Outcome State Fault Refusal := aluWord aluXnor f s
def execShl (f : FmtS) (s : State) : Host.Outcome State Fault Refusal := aluWord aluShl f s
def execShr (f : FmtS) (s : State) : Host.Outcome State Fault Refusal := aluWord aluShr f s
def execSar (f : FmtS) (s : State) : Host.Outcome State Fault Refusal := aluWord aluSar f s
def execRol (f : FmtS) (s : State) : Host.Outcome State Fault Refusal := aluWord aluRol f s
def execRor (f : FmtS) (s : State) : Host.Outcome State Fault Refusal := aluWord aluRor f s
def execMin (f : FmtS) (s : State) : Host.Outcome State Fault Refusal := aluWord aluMin f s
def execMax (f : FmtS) (s : State) : Host.Outcome State Fault Refusal := aluWord aluMax f s
def execMinn (f : FmtS) (s : State) : Host.Outcome State Fault Refusal := aluWord aluMinn f s
def execMaxn (f : FmtS) (s : State) : Host.Outcome State Fault Refusal := aluWord aluMaxn f s
def execSlt (f : FmtS) (s : State) : Host.Outcome State Fault Refusal := aluWord aluSlt f s
def execSltn (f : FmtS) (s : State) : Host.Outcome State Fault Refusal := aluWord aluSltn f s
def execSeq (f : FmtS) (s : State) : Host.Outcome State Fault Refusal := aluWord aluSeq f s
def execSne (f : FmtS) (s : State) : Host.Outcome State Fault Refusal := aluWord aluSne f s
/-- SEL (R233): x when the predicate that c names is 1, else y. -/
def execSel (f : FmtS) (s : State) : Host.Outcome State Fault Refusal :=
  wordIf .any f.pg (do
    let st ← curStream
    let i := st.aluIn f
    writeSreg f.d (extendW i.w (f.mod.getLsbD 0) (if st.pred (f.c.extractLsb' 0 3).toNat then i.x else i.y))) s
def execClz (f : FmtS) (s : State) : Host.Outcome State Fault Refusal := aluWord aluClz f s
def execCtz (f : FmtS) (s : State) : Host.Outcome State Fault Refusal := aluWord aluCtz f s
def execPopc (f : FmtS) (s : State) : Host.Outcome State Fault Refusal := aluWord aluPopc f s
def execBrev (f : FmtS) (s : State) : Host.Outcome State Fault Refusal := aluWord aluBrev f s
def execBext (f : FmtS) (s : State) : Host.Outcome State Fault Refusal := aluWord aluBext f s
def execBdep (f : FmtS) (s : State) : Host.Outcome State Fault Refusal := aluWord aluBdep f s
def execAddImm (f : FmtI) (s : State) : Host.Outcome State Fault Refusal := immWord aluAdd f s
def execMulImm (f : FmtI) (s : State) : Host.Outcome State Fault Refusal := immWord aluMul f s
def execAndImm (f : FmtI) (s : State) : Host.Outcome State Fault Refusal := immWord aluAnd f s
def execOrImm (f : FmtI) (s : State) : Host.Outcome State Fault Refusal := immWord aluOr f s
def execXorImm (f : FmtI) (s : State) : Host.Outcome State Fault Refusal := immWord aluXor f s
def execShlImm (f : FmtI) (s : State) : Host.Outcome State Fault Refusal := immWord aluShl f s
def execShrImm (f : FmtI) (s : State) : Host.Outcome State Fault Refusal := immWord aluShr f s
def execSarImm (f : FmtI) (s : State) : Host.Outcome State Fault Refusal := immWord aluSar f s
def execRolImm (f : FmtI) (s : State) : Host.Outcome State Fault Refusal := immWord aluRol f s
def execRorImm (f : FmtI) (s : State) : Host.Outcome State Fault Refusal := immWord aluRor f s
def execMinImm (f : FmtI) (s : State) : Host.Outcome State Fault Refusal := immWord aluMin f s
def execMaxImm (f : FmtI) (s : State) : Host.Outcome State Fault Refusal := immWord aluMax f s
def execSltImm (f : FmtI) (s : State) : Host.Outcome State Fault Refusal := immWord aluSlt f s
def execSltnImm (f : FmtI) (s : State) : Host.Outcome State Fault Refusal := immWord aluSltn f s
def execSeqImm (f : FmtI) (s : State) : Host.Outcome State Fault Refusal := immWord aluSeq f s
def execSneImm (f : FmtI) (s : State) : Host.Outcome State Fault Refusal := immWord aluSne f s

/-- LDI (R236). -/
def execLdi (f : FmtL) (s : State) : Host.Outcome State Fault Refusal :=
  word .any (writeSreg f.d (sextImm f.imm)) s
/-- LDHI (R236): the low half of d is kept. -/
def execLdhi (f : FmtL) (s : State) : Host.Outcome State Fault Refusal :=
  word .any (do
    let v ← sreg f.d
    writeSreg f.d (w64 (f.imm.toNat % 2 ^ 32 * 2 ^ 32 + v.toNat % 2 ^ 32))) s

end Sys2Proof.Machine
end

