-- ==== Sys2Proof/Machine/ScalarFp.lean ====
section
/-! DEFINITION. Scalar floating point: major 0x04 (R237 to R240). -/

namespace Sys2Proof.Machine

/-- The draw of one executed scalar word (R216, R238): under SR one draw, which in the E stream follows those of every
vector word issued before it (log 15). -/
def scalarDraw (rm : Rm) : M (BitVec 32) := do
  if rm != .sr then return 0
  match ← curAgent with
  | .e _ => M.await (← curCtx).ve.isEmpty .control
  | _ => pure ()
  drawSr

/-- An FP operand: register n read in the format, under FTZ. -/
def Stream.fpOperand (st : Stream) (fm : Fmt) (n : BitVec 6) : Num :=
  fpValue fm (fpctlFtz st.fpctl) (st.reg n.toNat).toNat

/-- An FP result with its flags. -/
def writeFp (d : BitVec 6) (r : Nat × Flags) : M Unit := do
  setFlags r.2
  writeSreg d (w64 r.1)

/-- A rounding row (R238): the exact result of the operands and the mode, rounded once. -/
def fpWord (g : Rm → Num → Num → Num → Exact × Flags) (f : FmtS) (s : State) : Host.Outcome State Fault Refusal :=
  wordIf .any f.pg (do
    let st ← curStream
    let fm := fmtOf f.sz
    let rm := rmOf (f.mod.extractLsb' 0 3) st.fpctl
    let dr ← scalarDraw rm
    let (v, fl) := g rm (st.fpOperand fm f.a) (st.fpOperand fm f.b) (st.fpOperand fm f.c)
    let (r, fl') := fpPut fm (fpctlFtz st.fpctl) rm false dr v
    writeFp f.d (r, fl ||| fl')) s

/-- A row that selects one of its operands, unrounded. -/
def fpPickWord (wantMax : Bool) (f : FmtS) (s : State) : Host.Outcome State Fault Refusal :=
  wordIf .any f.pg (do
    let st ← curStream
    let fm := fmtOf f.sz
    let (v, fl) := minMaxNum wantMax (st.fpOperand fm f.a) (st.fpOperand fm f.b)
    writeFp f.d ((fpPut fm false .rne false 0 v).1, fl)) s

def execFadd (f : FmtS) (s : State) : Host.Outcome State Fault Refusal := fpWord (fun rm x y _ => addNum rm x y) f s
def execFsub (f : FmtS) (s : State) : Host.Outcome State Fault Refusal :=
  fpWord (fun rm x y _ => addNum rm x y.neg) f s
def execFmul (f : FmtS) (s : State) : Host.Outcome State Fault Refusal := fpWord (fun _ x y _ => mulNum x y) f s
def execFfma (f : FmtS) (s : State) : Host.Outcome State Fault Refusal := fpWord fmaNum f s
def execFdiv (f : FmtS) (s : State) : Host.Outcome State Fault Refusal := fpWord (fun _ x y _ => divNum x y) f s
def execFsqrt (f : FmtS) (s : State) : Host.Outcome State Fault Refusal := fpWord (fun _ x _ _ => sqrtNum x) f s
def execFmin (f : FmtS) (s : State) : Host.Outcome State Fault Refusal := fpPickWord false f s
def execFmax (f : FmtS) (s : State) : Host.Outcome State Fault Refusal := fpPickWord true f s

/-- A type of FCVT (R239). -/
inductive CvtType where
  | flt (f : Fmt)
  | int (bits : Nat) (sgn : Bool)
  deriving DecidableEq, Repr

/-- The type of a code (R239). -/
def cvtType (c : BitVec 3) : CvtType :=
  match c.toNat with
  | 0 => .flt .fp64
  | 1 => .flt .fp32
  | 2 => .flt .bf16
  | 3 => .flt .fp16
  | 4 => .int 32 true
  | 5 => .int 32 false
  | 6 => .int 64 true
  | _ => .int 64 false

/-- The value of the operand's low bits. -/
def CvtType.read (t : CvtType) (ftz : Bool) (x : W64) : Num :=
  match t with
  | .flt f => fpValue f ftz x.toNat
  | .int n sgn => .ofInt (if sgn then sintW n x else uintW n x)

/-- The written register and the flags (R222). -/
def CvtType.write (t : CvtType) (ftz sat : Bool) (rm : Rm) (d : BitVec 32) (v : Num) : W64 × Flags :=
  match t with
  | .flt f => let (r, fl) := convToFloat f ftz rm sat d v; (w64 r, fl)
  | .int n sgn => let (z, fl) := convToInt n sgn rm d v; (extendW n sgn (truncW n z), fl)

/-- FCVT (R239). -/
def execFcvt (f : FmtS) (s : State) : Host.Outcome State Fault Refusal :=
  wordIf .any f.pg (do
    let st ← curStream
    let rm := rmOf (f.mod.extractLsb' 0 3) st.fpctl
    let ftz := fpctlFtz st.fpctl
    let dr ← scalarDraw rm
    let v := (cvtType (f.c.extractLsb' 3 3)).read ftz (st.reg f.a.toNat)
    let (r, fl) := (cvtType (f.c.extractLsb' 0 3)).write ftz (f.mod.getLsbD 3 || fpctlSatf st.fpctl) rm dr v
    setFlags fl
    writeSreg f.d r) s

/-- FCMP (R240). -/
def execFcmp (f : FmtS) (s : State) : Host.Outcome State Fault Refusal :=
  wordIf .any f.pg (do
    let st ← curStream
    let fm := fmtOf f.sz
    let (b, fl) := cmpNum f.c.toNat (st.fpOperand fm f.a) (st.fpOperand fm f.b)
    setFlags fl
    writePreg (f.d.extractLsb' 0 3).toNat b) s

/-- FCLASS (R240). -/
def execFclass (f : FmtS) (s : State) : Host.Outcome State Fault Refusal :=
  wordIf .any f.pg (do
    let st ← curStream
    writeSreg f.d (w64 (classMask (fmtOf f.sz) (st.reg f.a.toNat).toNat))) s

end Sys2Proof.Machine
end

