-- ==== Sys2Proof/Machine/System.lean ====
section
/-! DEFINITION. System instructions of major 0x0B but for BKPT and HALT (R253 to R256). -/

namespace Sys2Proof.Machine

/-- NOP (R253). -/
def execNop (f : FmtI) (s : State) : Host.Outcome State Fault Refusal := wordIf .any f.pg (pure ()) s

/-- How the task's other stream has left; a control task has none. -/
def Ctx.otherExit (x : Ctx) (ag : Agent) : Exit :=
  match ag with
  | .a _ => x.e.exit
  | .e _ => x.a.exit
  | .np _ => .running

/-- A stream leaves (R254): EXIT_MISMATCH when the other has left the other way. -/
def leaveStream (how mismatch : Exit) : M Unit := do
  M.check ((← curCtx).otherExit (← curAgent) != mismatch) Cause.exitMismatch
  modStream fun st => { st with exit := how }

/-- END (R254). -/
def execEndTask (f : FmtI) (s : State) : Host.Outcome State Fault Refusal :=
  wordIf .any f.pg (leaveStream .ended .suspended) s

/-- YIELD (R253): no fetch for n + 1 clk. -/
def execYield (f : FmtI) (s : State) : Host.Outcome State Fault Refusal :=
  wordIf .any f.pg (modStream fun st => { st with yield := bits (f.imm.setWidth 64) 0 10 + 1 }) s

/-- IMM[14] is reserved in the A stream (R255). -/
def suspendCheck (f : FmtI) : M Unit := do
  match ← curAgent with
  | .a _ => M.check (!f.imm.getLsbD 14) Cause.illegalInstr
  | _ => pure ()

/-- SUSPEND (R255): the resume entry, and in the E stream or on an NP thread the wait slots and CHAIN bit 24. -/
def execSuspend (f : FmtI) (s : State) : Host.Outcome State Fault Refusal :=
  wordChecked .any (suspendCheck f) f.pg (do
    leaveStream .suspended .ended
    modStream fun st => { st with resume := f.imm.extractLsb' 0 14 }
    match ← curAgent with
    | .a _ => pure ()
    | _ => modCtx fun x => { x with slotw := x.swait, extBit := f.imm.getLsbD 14 }) s

/-- TRAP (R256). -/
def execTrap (f : FmtI) (s : State) : Host.Outcome State Fault Refusal :=
  wordIf .any f.pg (do M.fault Cause.trap (w64 (pcField (← curPc))) (w64 (f.imm.toNat % 2 ^ 16))) s

end Sys2Proof.Machine
end

