-- ==== Sys2Proof/Machine/Dispatch.lean ====
section
/-! DEFINITION. The dispatch: one arm for each row of the opcode table, each a direct call of its meaning. -/

namespace Sys2Proof.Machine

open Sys2Proof

def exec (i : Instr) (s : State) : Host.Outcome State Fault Refusal :=
  match i with
  | .add f => Sys2Proof.Machine.execAdd f s
  | .sub f => Sys2Proof.Machine.execSub f s
  | .mul f => Sys2Proof.Machine.execMul f s
  | .mulh f => Sys2Proof.Machine.execMulh f s
  | .mulhn f => Sys2Proof.Machine.execMulhn f s
  | .div f => Sys2Proof.Machine.execDiv f s
  | .divn f => Sys2Proof.Machine.execDivn f s
  | .rem f => Sys2Proof.Machine.execRem f s
  | .remn f => Sys2Proof.Machine.execRemn f s
  | .mad f => Sys2Proof.Machine.execMad f s
  | .and f => Sys2Proof.Machine.execAnd f s
  | .or f => Sys2Proof.Machine.execOr f s
  | .xor f => Sys2Proof.Machine.execXor f s
  | .andn f => Sys2Proof.Machine.execAndn f s
  | .orn f => Sys2Proof.Machine.execOrn f s
  | .xnor f => Sys2Proof.Machine.execXnor f s
  | .shl f => Sys2Proof.Machine.execShl f s
  | .shr f => Sys2Proof.Machine.execShr f s
  | .sar f => Sys2Proof.Machine.execSar f s
  | .rol f => Sys2Proof.Machine.execRol f s
  | .ror f => Sys2Proof.Machine.execRor f s
  | .min f => Sys2Proof.Machine.execMin f s
  | .max f => Sys2Proof.Machine.execMax f s
  | .minn f => Sys2Proof.Machine.execMinn f s
  | .maxn f => Sys2Proof.Machine.execMaxn f s
  | .slt f => Sys2Proof.Machine.execSlt f s
  | .sltn f => Sys2Proof.Machine.execSltn f s
  | .seq f => Sys2Proof.Machine.execSeq f s
  | .sne f => Sys2Proof.Machine.execSne f s
  | .sel f => Sys2Proof.Machine.execSel f s
  | .clz f => Sys2Proof.Machine.execClz f s
  | .ctz f => Sys2Proof.Machine.execCtz f s
  | .popc f => Sys2Proof.Machine.execPopc f s
  | .brev f => Sys2Proof.Machine.execBrev f s
  | .bext f => Sys2Proof.Machine.execBext f s
  | .bdep f => Sys2Proof.Machine.execBdep f s
  | .addImm f => Sys2Proof.Machine.execAddImm f s
  | .mulImm f => Sys2Proof.Machine.execMulImm f s
  | .andImm f => Sys2Proof.Machine.execAndImm f s
  | .orImm f => Sys2Proof.Machine.execOrImm f s
  | .xorImm f => Sys2Proof.Machine.execXorImm f s
  | .shlImm f => Sys2Proof.Machine.execShlImm f s
  | .shrImm f => Sys2Proof.Machine.execShrImm f s
  | .sarImm f => Sys2Proof.Machine.execSarImm f s
  | .rolImm f => Sys2Proof.Machine.execRolImm f s
  | .rorImm f => Sys2Proof.Machine.execRorImm f s
  | .minImm f => Sys2Proof.Machine.execMinImm f s
  | .maxImm f => Sys2Proof.Machine.execMaxImm f s
  | .sltImm f => Sys2Proof.Machine.execSltImm f s
  | .sltnImm f => Sys2Proof.Machine.execSltnImm f s
  | .seqImm f => Sys2Proof.Machine.execSeqImm f s
  | .sneImm f => Sys2Proof.Machine.execSneImm f s
  | .ldi f => Sys2Proof.Machine.execLdi f s
  | .ldhi f => Sys2Proof.Machine.execLdhi f s
  | .fadd f => Sys2Proof.Machine.execFadd f s
  | .fsub f => Sys2Proof.Machine.execFsub f s
  | .fmul f => Sys2Proof.Machine.execFmul f s
  | .ffma f => Sys2Proof.Machine.execFfma f s
  | .fdiv f => Sys2Proof.Machine.execFdiv f s
  | .fsqrt f => Sys2Proof.Machine.execFsqrt f s
  | .fmin f => Sys2Proof.Machine.execFmin f s
  | .fmax f => Sys2Proof.Machine.execFmax f s
  | .fcvt f => Sys2Proof.Machine.execFcvt f s
  | .fcmp f => Sys2Proof.Machine.execFcmp f s
  | .fclass f => Sys2Proof.Machine.execFclass f s
  | .pset f => Sys2Proof.Machine.execPset f s
  | .pand f => Sys2Proof.Machine.execPand f s
  | .por f => Sys2Proof.Machine.execPor f s
  | .pxor f => Sys2Proof.Machine.execPxor f s
  | .pnot f => Sys2Proof.Machine.execPnot f s
  | .br f => Sys2Proof.Machine.execBr f s
  | .jmp f => Sys2Proof.Machine.execJmp f s
  | .jmpr f => Sys2Proof.Machine.execJmpr f s
  | .call f => Sys2Proof.Machine.execCall f s
  | .ret f => Sys2Proof.Machine.execRet f s
  | .loop f => Sys2Proof.Machine.execLoop f s
  | .ld sgn acq f => Sys2Proof.Machine.execLd sgn acq f s
  | .ldx sgn acq f => Sys2Proof.Machine.execLdx sgn acq f s
  | .st rel f => Sys2Proof.Machine.execSt rel f s
  | .stx rel f => Sys2Proof.Machine.execStx rel f s
  | .mfc f => Sys2Proof.Machine.execMfc f s
  | .mtc f => Sys2Proof.Machine.execMtc f s
  | .qpush f => Sys2Proof.Machine.execQpush f s
  | .qpop f => Sys2Proof.Machine.execQpop f s
  | .qpeek f => Sys2Proof.Machine.execQpeek f s
  | .qlevel f => Sys2Proof.Machine.execQlevel f s
  | .nop f => Sys2Proof.Machine.execNop f s
  | .endTask f => Sys2Proof.Machine.execEndTask f s
  | .yield f => Sys2Proof.Machine.execYield f s
  | .suspend f => Sys2Proof.Machine.execSuspend f s
  | .trap f => Sys2Proof.Machine.execTrap f s
  | .bkpt f => Sys2Proof.Machine.execBkpt f s
  | .halt f => Sys2Proof.Machine.execHalt f s
  | .vld stor k f => Sys2Proof.Machine.execVld stor k f s
  | .vldx stor k f => Sys2Proof.Machine.execVldx stor k f s
  | .vst stor k f => Sys2Proof.Machine.execVst stor k f s
  | .vstx stor k f => Sys2Proof.Machine.execVstx stor k f s
  | .gath stor c f => Sys2Proof.Machine.execGath stor c f s
  | .scat stor c f => Sys2Proof.Machine.execScat stor c f s
  | .lds stor c f => Sys2Proof.Machine.execLds stor c f s
  | .sts stor c f => Sys2Proof.Machine.execSts stor c f s
  | .movs f => Sys2Proof.Machine.execMovs f s
  | .pref stor k f => Sys2Proof.Machine.execPref stor k f s
  | .probe f => Sys2Proof.Machine.execProbe f s
  | .probeNf f => Sys2Proof.Machine.execProbeNf f s
  | .probeInv f => Sys2Proof.Machine.execProbeInv f s
  | .probeCfg f => Sys2Proof.Machine.execProbeCfg f s
  | .copy f => Sys2Proof.Machine.execCopy f s
  | .cwaita f => Sys2Proof.Machine.execCwaita f s
  | .cwaitl f => Sys2Proof.Machine.execCwaitl f s
  | .cfind f => Sys2Proof.Machine.execCfind f s
  | .vadd f => Sys2Proof.Machine.execVadd f s
  | .vsub f => Sys2Proof.Machine.execVsub f s
  | .vmul f => Sys2Proof.Machine.execVmul f s
  | .vmulh f => Sys2Proof.Machine.execVmulh f s
  | .vmin f => Sys2Proof.Machine.execVmin f s
  | .vmax f => Sys2Proof.Machine.execVmax f s
  | .vabs f => Sys2Proof.Machine.execVabs f s
  | .vneg f => Sys2Proof.Machine.execVneg f s
  | .vadds f => Sys2Proof.Machine.execVadds f s
  | .vsubs f => Sys2Proof.Machine.execVsubs f s
  | .vavg f => Sys2Proof.Machine.execVavg f s
  | .vmaxd n f => Sys2Proof.Machine.execVmaxd n f s
  | .vand f => Sys2Proof.Machine.execVand f s
  | .vor f => Sys2Proof.Machine.execVor f s
  | .vxor f => Sys2Proof.Machine.execVxor f s
  | .vandn f => Sys2Proof.Machine.execVandn f s
  | .vshl f => Sys2Proof.Machine.execVshl f s
  | .vshr f => Sys2Proof.Machine.execVshr f s
  | .vsar f => Sys2Proof.Machine.execVsar f s
  | .vfadd rm f => Sys2Proof.Machine.execVfadd rm f s
  | .vfsub rm f => Sys2Proof.Machine.execVfsub rm f s
  | .vfmul rm f => Sys2Proof.Machine.execVfmul rm f s
  | .vffma rm f => Sys2Proof.Machine.execVffma rm f s
  | .vfdiv rm f => Sys2Proof.Machine.execVfdiv rm f s
  | .vfmin f => Sys2Proof.Machine.execVfmin f s
  | .vfmax f => Sys2Proof.Machine.execVfmax f s
  | .vexp2 rm f => Sys2Proof.Machine.execVexp2 rm f s
  | .vlog2 rm f => Sys2Proof.Machine.execVlog2 rm f s
  | .vrcp rm f => Sys2Proof.Machine.execVrcp rm f s
  | .vrsqrt rm f => Sys2Proof.Machine.execVrsqrt rm f s
  | .vrsum rm f => Sys2Proof.Machine.execVrsum rm f s
  | .vrmax f => Sys2Proof.Machine.execVrmax f s
  | .vrmin f => Sys2Proof.Machine.execVrmin f s
  | .vcsum rm f => Sys2Proof.Machine.execVcsum rm f s
  | .vcmax f => Sys2Proof.Machine.execVcmax f s
  | .vargmax f => Sys2Proof.Machine.execVargmax f s
  | .vcvt sat rm f => Sys2Proof.Machine.execVcvt sat rm f s
  | .vqmx f => Sys2Proof.Machine.execVqmx f s
  | .vdqmx sat rm f => Sys2Proof.Machine.execVdqmx sat rm f s
  | .vcmp cc f => Sys2Proof.Machine.execVcmp cc f s
  | .vsel f => Sys2Proof.Machine.execVsel f s
  | .vmov f => Sys2Proof.Machine.execVmov f s
  | .vbcastRow f => Sys2Proof.Machine.execVbcastRow f s
  | .vbcastCol f => Sys2Proof.Machine.execVbcastCol f s
  | .vbcastOne f => Sys2Proof.Machine.execVbcastOne f s
  | .vpopq f => Sys2Proof.Machine.execVpopq f s
  | .vpushq f => Sys2Proof.Machine.execVpushq f s
  | .vtrans f => Sys2Proof.Machine.execVtrans f s
  | .vslide f => Sys2Proof.Machine.execVslide f s
  | .vperm f => Sys2Proof.Machine.execVperm f s
  | .vacc sat rm f => Sys2Proof.Machine.execVacc sat rm f s
  | .vaccZ sat rm f => Sys2Proof.Machine.execVaccZ sat rm f s
  | .vaccw f => Sys2Proof.Machine.execVaccw f s
  | .vaccwAdd rm f => Sys2Proof.Machine.execVaccwAdd rm f s
  | .mloadw f => Sys2Proof.Machine.execMloadw f s
  | .mswap f => Sys2Proof.Machine.execMswap f s
  | .mmul f => Sys2Proof.Machine.execMmul f s
  | .mmuls f => Sys2Proof.Machine.execMmuls f s
  | .mzero f => Sys2Proof.Machine.execMzero f s
  | .semsig f => Sys2Proof.Machine.execSemsig f s
  | .semwait f => Sys2Proof.Machine.execSemwait f s
  | .mfence f => Sys2Proof.Machine.execMfence f s
  | .fence f => Sys2Proof.Machine.execFence f s
  | .ofence f => Sys2Proof.Machine.execOfence f s
  | .xfence f => Sys2Proof.Machine.execXfence f s
  | .mark f => Sys2Proof.Machine.execMark f s
  | .aadd ord f => Sys2Proof.Machine.execAadd ord f s
  | .aand ord f => Sys2Proof.Machine.execAand ord f s
  | .aor ord f => Sys2Proof.Machine.execAor ord f s
  | .axor ord f => Sys2Proof.Machine.execAxor ord f s
  | .amin ord f => Sys2Proof.Machine.execAmin ord f s
  | .amax ord f => Sys2Proof.Machine.execAmax ord f s
  | .aminn ord f => Sys2Proof.Machine.execAminn ord f s
  | .amaxn ord f => Sys2Proof.Machine.execAmaxn ord f s
  | .aswap ord f => Sys2Proof.Machine.execAswap ord f s
  | .acas ord f => Sys2Proof.Machine.execAcas ord f s
  | .afxinit ord f => Sys2Proof.Machine.execAfxinit ord f s
  | .afxadd ord f => Sys2Proof.Machine.execAfxadd ord f s
  | .afxrd ord f => Sys2Proof.Machine.execAfxrd ord f s
  | .afxrdClr ord f => Sys2Proof.Machine.execAfxrdClr ord f s
  | .barinit f => Sys2Proof.Machine.execBarinit f s
  | .bar f => Sys2Proof.Machine.execBar f s
  | .ctradd f => Sys2Proof.Machine.execCtradd f s
  | .ctrrd f => Sys2Proof.Machine.execCtrrd f s
  | .tagalloc f => Sys2Proof.Machine.execTagalloc f s
  | .publ f => Sys2Proof.Machine.execPubl f s
  | .tagqry f => Sys2Proof.Machine.execTagqry f s
  | .tagfree f => Sys2Proof.Machine.execTagfree f s
  | .spawn f => Sys2Proof.Machine.execSpawn f s
  | .spawnW f => Sys2Proof.Machine.execSpawnW f s
  | .evwait f => Sys2Proof.Machine.execEvwait f s
  | .evdone f => Sys2Proof.Machine.execEvdone f s
  | .olock f => Sys2Proof.Machine.execOlock f s
  | .orel f => Sys2Proof.Machine.execOrel f s
  | .tmarm f => Sys2Proof.Machine.execTmarm f s
  | .tmrd f => Sys2Proof.Machine.execTmrd f s
  | .notify f => Sys2Proof.Machine.execNotify f s
  | .pksend f => Sys2Proof.Machine.execPksend f s
  | .trgarmEntry f => Sys2Proof.Machine.execTrgarmEntry f s
  | .trgarmDesc f => Sys2Proof.Machine.execTrgarmDesc f s
  | .trgdisEntry f => Sys2Proof.Machine.execTrgdisEntry f s
  | .trgdisDesc f => Sys2Proof.Machine.execTrgdisDesc f s
  | .trgrdEntry f => Sys2Proof.Machine.execTrgrdEntry f s
  | .trgrdDesc f => Sys2Proof.Machine.execTrgrdDesc f s
  | .start f => Sys2Proof.Machine.execStart f s
  | .cancel f => Sys2Proof.Machine.execCancel f s
  | .query f => Sys2Proof.Machine.execQuery f s
  | .release f => Sys2Proof.Machine.execRelease f s
  | .livemark f => Sys2Proof.Machine.execLivemark f s
  | .hotcfg f => Sys2Proof.Machine.execHotcfg f s
  | .errlog f => Sys2Proof.Machine.execErrlog f s
  | .pcreate f => Sys2Proof.Machine.execPcreate f s
  | .pchange f => Sys2Proof.Machine.execPchange f s
  | .preset f => Sys2Proof.Machine.execPreset f s
  | .pdestroy f => Sys2Proof.Machine.execPdestroy f s
  | .quota f => Sys2Proof.Machine.execQuota f s
  | .ctralloc f => Sys2Proof.Machine.execCtralloc f s
  | .ctrfree f => Sys2Proof.Machine.execCtrfree f s
  | .frame f => Sys2Proof.Machine.execFrame f s
  | .shslot f => Sys2Proof.Machine.execShslot f s
  | .wdog f => Sys2Proof.Machine.execWdog f s
  | .xlate f => Sys2Proof.Machine.execXlate f s
  | .inval f => Sys2Proof.Machine.execInval f s
  | .track f => Sys2Proof.Machine.execTrack f s
  | .ovq f => Sys2Proof.Machine.execOvq f s
  | .rxovf f => Sys2Proof.Machine.execRxovf f s
  | .nbind f => Sys2Proof.Machine.execNbind f s
  | .jbind f => Sys2Proof.Machine.execJbind f s
  | .bufrd f => Sys2Proof.Machine.execBufrd f s
  | .ownrd f => Sys2Proof.Machine.execOwnrd f s
  | .debug f => Sys2Proof.Machine.execDebug f s
  | .discard f => Sys2Proof.Machine.execDiscard f s
  | .dlogswap f => Sys2Proof.Machine.execDlogswap f s
  | .resume f => Sys2Proof.Machine.execResume f s
  | .save f => Sys2Proof.Machine.execSave f s
  | .load f => Sys2Proof.Machine.execLoad f s
  | .stopw f => Sys2Proof.Machine.execStopw f s
  | .startw f => Sys2Proof.Machine.execStartw f s
  | .dhalt f => Sys2Proof.Machine.execDhalt f s
  | .dresume f => Sys2Proof.Machine.execDresume f s
  | .wcreate f => Sys2Proof.Machine.execWcreate f s
  | .wdestroy f => Sys2Proof.Machine.execWdestroy f s
  | .linkgen f => Sys2Proof.Machine.execLinkgen f s
  | .wkimport f => Sys2Proof.Machine.execWkimport f s
  | .wkgen f => Sys2Proof.Machine.execWkgen f s
  | .seal f => Sys2Proof.Machine.execSeal f s
  | .attest f => Sys2Proof.Machine.execAttest f s
  | .health f => Sys2Proof.Machine.execHealth f s
  | .veRepetitionExecute core => Sys2Proof.Machine.execVeRepetitionExecute core s
  | .meCommandStart core entry => Sys2Proof.Machine.execMeCommandStart core entry s
  | .meCommandRetire core => Sys2Proof.Machine.execMeCommandRetire core s
  | .securityCompletion entry => Sys2Proof.Machine.execSecurityCompletion entry s
  | .trngHealthFail => Sys2Proof.Machine.execTrngHealthFail s
  | .trngRecovery => Sys2Proof.Machine.execTrngRecovery s
  | .admission => Sys2Proof.Machine.execAdmission s
  | .overflowReturn world => Sys2Proof.Machine.execOverflowReturn world s
  | .dispatch r => Sys2Proof.Machine.execDispatch r s
  | .taskRetirement r => Sys2Proof.Machine.execTaskRetirement r s
  | .taskSuspension r => Sys2Proof.Machine.execTaskSuspension r s
  | .watchdogExpiry r => Sys2Proof.Machine.execWatchdogExpiry r s
  | .queueDeadlock core => Sys2Proof.Machine.execQueueDeadlock core s
  | .faultStop r => Sys2Proof.Machine.execFaultStop r s
  | .deferredFault id cause => Sys2Proof.Machine.execDeferredFault id cause s
  | .lateResponse id rsp => Sys2Proof.Machine.execLateResponse id rsp s
  | .poison core => Sys2Proof.Machine.execPoison core s
  | .frameEdge core => Sys2Proof.Machine.execFrameEdge core s
  | .sealedFrameStart core => Sys2Proof.Machine.execSealedFrameStart core s
  | .contextRestore core => Sys2Proof.Machine.execContextRestore core s
  | .copyRingAllocate core id => Sys2Proof.Machine.execCopyRingAllocate core id s
  | .copyQueuePush core id => Sys2Proof.Machine.execCopyQueuePush core id s
  | .copyComplete core id => Sys2Proof.Machine.execCopyComplete core id s
  | .uetPacketArrival p => Sys2Proof.Machine.execUetPacketArrival p s
  | .taggedSendMatch m => Sys2Proof.Machine.execTaggedSendMatch m s
  | .rmaAccess q => Sys2Proof.Machine.execRmaAccess q s
  | .rmaAtomic q => Sys2Proof.Machine.execRmaAtomic q s
  | .domainRemoteAccess q => Sys2Proof.Machine.execDomainRemoteAccess q s
  | .remoteResponse id rsp => Sys2Proof.Machine.execRemoteResponse id rsp s
  | .sendCompletion id rsp => Sys2Proof.Machine.execSendCompletion id rsp s
  | .triggerLaunch entry => Sys2Proof.Machine.execTriggerLaunch entry s
  | .triggerCopy entry => Sys2Proof.Machine.execTriggerCopy entry s
  | .triggerSend entry => Sys2Proof.Machine.execTriggerSend entry s
  | .triggerEvent entry => Sys2Proof.Machine.execTriggerEvent entry s
  | .notifyWrite w => Sys2Proof.Machine.execNotifyWrite w s
  | .lanternPost reg => Sys2Proof.Machine.execLanternPost reg s
  | .timerExpiry world timer => Sys2Proof.Machine.execTimerExpiry world timer s
  | .timeStep ns => Sys2Proof.Machine.execTimeStep ns s
  | .msixDoorbell v => Sys2Proof.Machine.execMsixDoorbell v s
  | .registerWrite r v => Sys2Proof.Machine.execRegisterWrite r v s
  | .dupWriteRelease page => Sys2Proof.Machine.execDupWriteRelease page s
  | .crumbCopy slot => Sys2Proof.Machine.execCrumbCopy slot s
  | .motionCommit slot => Sys2Proof.Machine.execMotionCommit slot s
  | .motionComplete slot => Sys2Proof.Machine.execMotionComplete slot s
  | .motionDestFailure slot where_ => Sys2Proof.Machine.execMotionDestFailure slot where_ s
  | .motionSourceFailure slot crumb => Sys2Proof.Machine.execMotionSourceFailure slot crumb s
  | .motionAbortComplete slot => Sys2Proof.Machine.execMotionAbortComplete slot s
  | .t2LinkDown port => Sys2Proof.Machine.execT2LinkDown port s
  | .t2LinkUp port => Sys2Proof.Machine.execT2LinkUp port s
  | .memoryScrub granule => Sys2Proof.Machine.execMemoryScrub granule s
  | .coldReset => Sys2Proof.Machine.execColdReset s
  | .warmReset => Sys2Proof.Machine.execWarmReset s
  | .maintReset rows => Sys2Proof.Machine.execMaintReset rows s
  | .opPointChange point => Sys2Proof.Machine.execOpPointChange point s
  | .thermalAlarm die celsius => Sys2Proof.Machine.execThermalAlarm die celsius s
  | .thermalShutdown die => Sys2Proof.Machine.execThermalShutdown die s
  | .firmwareMailboxWrite off bytes => Sys2Proof.Machine.execFirmwareMailboxWrite off bytes s

end Sys2Proof.Machine
end

