-- ==== Sys2Proof/Machine/Run.lean ====
section
/-! DEFINITION. What a step is made of: a stream's turn (R198), the work that waits in the machine, the turn that comes next,
and the time that passes (R103, R187). -/

namespace Sys2Proof.Machine

/-! ## A word's fate (R197, R198) -/

/-- Where a major is legal (R197). -/
def majorLegal (op : Nat) : Legal :=
  if op = 0x0A ∨ op = 0x31 then .ae
  else if 0x10 ≤ op ∧ op ≤ 0x19 then .aOnly
  else if 0x20 ≤ op ∧ op ≤ 0x30 then .eOnly
  else if op = 0x3C ∨ op = 0x3D then .npOnly
  else if op = 0x3E then .supervisor
  else .any

/-- A word that the decoder refuses: STREAM where its major is not legal here, else ILLEGAL_INSTR. -/
def refuseWord (w : Insn) (e : DecodeError) (s : State) : Host.Outcome State Fault Refusal :=
  s.runBody do
    if e ≠ .reservedOp then requireLegal (majorLegal (opOf w).toNat)
    M.fault Cause.illegalInstr

/-- The action that a RELCTX request names, 0 where its block cannot be read (R389). -/
def relAction (f : FmtP) (s : State) : Nat :=
  match M.try (do requireLegal .supervisor; requestBlock (← sreg f.a)) s with
  | .ok (l, _) => arg l 1
  | .error _ => 0

/-- RELCTX: the row of its action. -/
def execRelctx (f : FmtP) (s : State) : Host.Outcome State Fault Refusal :=
  match relAction f s with
  | 1 => execResume f s
  | 2 => execSave f s
  | 3 => execLoad f s
  | 4 => execStopw f s
  | 5 => execStartw f s
  | 6 => execDhalt f s
  | 7 => execDresume f s
  | _ => execDiscard f s

/-- A word that the decoder reads as PMCMD 0x14. -/
def relctxOf (i : Instr) : Option FmtP :=
  match i with
  | .discard f => if (f.imm.extractLsb' 0 8).toNat = 0x14 then some f else none
  | _ => none

/-- A decoded word executed. -/
def execDecoded (d : Decoded) (s : State) : Host.Outcome State Fault Refusal :=
  match d with
  | .row i =>
    match relctxOf i with
    | some f => execRelctx f s
    | none => exec i s
  | .key op f =>
    match op.toNat with
    | 0 => execWcreate f s
    | 1 => execWdestroy f s
    | 2 => execLinkgen f s
    | 3 => execWkimport f s
    | 4 => execWkgen f s
    | 5 => execSeal f s
    | 6 => execAttest f s
    | _ => execHealth f s

/-- An instruction word executed, or its fate. -/
def execInsn (w : Insn) (s : State) : Host.Outcome State Fault Refusal :=
  match decodeWord w with
  | .ok d => execDecoded d s
  | .error e => refuseWord w e s

/-! ## A stream's turn -/

/-- Frames are due to change on the agent's core, its work has not begun, or fetch is stopped (R99, R101, R412); an NP thread's logic is
gated (R75). -/
def State.heldUp (s : State) (ag : Agent) : Bool :=
  match ag with
  | .np _ => s.gate != .running
  | .a c | .e c => decide (s.now < s.fetchAt) || (s.core c).startAt.isSome || (ftEn (s.core c).ftctl && decide ((s.core c).nextEdge ≤ s.now))

/-- The task's budget is used up and enforced (R105). -/
def State.overBudget (s : State) (x : Ctx) : Bool :=
  (s.world x.world).wdog.getLsbD 5 && decide (s.budget x ≤ x.wdcnt) && !x.left .ended && !x.left .suspended

/-- The agent has a stream that may take a turn: its task runs, or completes a word before its stop (R385), and it has neither left, nor
awaits a response, nor yields. -/
def State.canRun (s : State) (ag : Agent) : Bool :=
  match s.ctx ag.place with
  | none => false
  | some x =>
    let st := x.stream ag
    (x.phase == .running || (x.phase == .stopping && x.finishing)) && (x.control == (match ag with | .np _ => true | _ => false)) && st.exit == .running &&
      st.out.isEmpty && st.yield == 0 && !s.heldUp ag && (x.phase == .stopping || !s.overBudget x)

/-- The word that a stream is at: the one it has not finished, or the one it fetches. -/
def currentInsn : M Insn := do
  match (← curStream).ir with
  | some w => return w
  | none =>
    let w ← fetchInsn
    modStream fun st => { st with ir := some w }
    return w

/-- A stream that waits keeps its word. -/
def State.keepWord (s : State) (ag : Agent) (w : Insn) : State :=
  match s.ctx ag.place with
  | none => s
  | some x =>
    let st := x.stream ag
    if st.wait.isSome ∧ st.ir.isNone then s.setCtx ag.place (some (x.setStream ag { st with ir := some w })) else s

/-- After a turn no agent's word executes. -/
def afterTurn (ag : Agent) (w : Insn) : Host.Outcome State Fault Refusal → Host.Outcome State Fault Refusal
  | .next s => .next { s.keepWord ag w with cur := none }
  | o => o

/-- A word fetched, or the fault of the fetch taken. -/
def runTurn (ag : Agent) (s : State) : Host.Outcome State Fault Refusal :=
  let s := { s with cur := some ag }
  match currentInsn s with
  | .ok (w, s) => afterTurn ag w (execInsn w s)
  | .error _ => afterTurn ag 0 (s.runBody do let _ ← currentInsn)

/-- A stream's turn; nothing where it may not take one. -/
def runAgent (ag : Agent) (s : State) : Host.Outcome State Fault Refusal := if s.canRun ag then runTurn ag s else .next s

/-! ## Events from outside -/

/-- A row of the table that is an event, not a word. -/
def isEvent (i : Instr) : Bool := (encode i).isNone

/-- What a module in recovery answers (R411): resets and BAR0. -/
def inRecovery (i : Instr) : Bool :=
  match i with
  | .coldReset | .warmReset | .maintReset _ | .thermalShutdown _ | .firmwareMailboxWrite _ _ => true
  | _ => false

/-- A write to a notify register alone leaves gated logic asleep (R75). -/
def wakes (i : Instr) : Bool :=
  match i with
  | .notifyWrite _ => false
  | _ => true

/-- An event taken. -/
def runEvent (i : Instr) (s : State) : Host.Outcome State Fault Refusal :=
  if isEvent i && (s.boot == .running || inRecovery i) then exec i (if wakes i then { s with gate := .running } else s) else .next s

/-! ## Work inside the machine -/

abbrev Work := State → Host.Outcome State Fault Refusal

/-- What the task of a place must do before any further word, in the order of a clk that it shares: its end, its suspension, its stop
for a fault (R35, R97, R383, R406). -/
def State.settling (s : State) (p : Place) : List Work :=
  match s.ctx p with
  | none => []
  | some x =>
    if s.mayRetire p x then [execTaskRetirement p]
    else if s.gone p x .suspended then [execTaskSuspension p]
    else if x.phase == .stopping && !s.stopWaits p then [execFaultStop p]
    else []

/-- The watchdog count of a place's task advances: its core is not within the 5 µs of a sealed edge (R101, R103). -/
def State.counting (s : State) : Place → Bool
  | .core c => decide ((s.core c).sealTill ≤ s.now)
  | .thread _ => true

/-- The watchdog of a place (R105). -/
def State.barking (s : State) (p : Place) : List Work :=
  match s.ctx p with
  | some x => if x.phase == .running && s.counting p && s.overBudget x then [execWatchdogExpiry p] else []
  | none => []

/-- What must come before any further word of a core: what its task does first, the frame edge, the start of a sealed frame, and the
watchdog (R97, R99, R101). -/
def State.urgentCore (s : State) (c : Nat) : List Work :=
  s.settling (.core c) ++ (if s.edgeDue c then [execFrameEdge c] else []) ++
    (match (s.core c).startAt with
      | some t => if t ≤ s.now then [execSealedFrameStart c] else []
      | none => []) ++ s.barking (.core c)

/-- What must come before any further word. -/
def State.urgent (s : State) : List Work :=
  s.cores.keys.flatMap s.urgentCore ++ s.threads.keys.flatMap fun t => s.settling (.thread t) ++ s.barking (.thread t)

/-- The next step of a copy. -/
def copyWork (c : Nat) (p : Copy) : Work :=
  if p.early.isSome || !p.descOk c then execCopyComplete c p.id
  else if p.dk = 1 ∧ !p.allocated then execCopyRingAllocate c p.id
  else if 2 ≤ p.dk ∧ p.pushed < p.entries then execCopyQueuePush c p.id
  else execCopyComplete c p.id

/-- Work of a task that runs, its streams and its engines, or of a word that completes before its stop. -/
def taskWork (p : Place) (x : Ctx) : List Work :=
  if x.phase = .stopping ∧ x.finishing then (Place.agents p).map runAgent
  else if x.phase ≠ .running then []
  else
    (Place.agents p).map runAgent ++
      match p with
      | .core c =>
        (if x.ve.isEmpty then [] else [execVeRepetitionExecute c]) ++
          (List.range x.mcq.length).map (execMeCommandStart c) ++ (if x.mcq.isEmpty then [] else [execMeCommandRetire c]) ++
          [execQueueDeadlock c]
      | .thread _ => []

/-- Work of a core. -/
def coreWork (c : Nat) (k : Core) : List Work :=
  (match k.ctx with | some x => taskWork (.core c) x | none => []) ++ k.copies.map (copyWork c)

/-- Records that may be dispatched, and contexts that may come back. -/
def State.placing (s : State) : List Work :=
  ((s.saved.map Saved.core).eraseDups.filter fun u => (s.restorable u).isSome).map execContextRestore ++
    (if s.pool.isEmpty then []
     else
      (((List.range 128).filter fun c => (s.core c).takesTask && s.pool.any (s.dispatchable c)).map fun c => execDispatch (.core c)) ++
        (((List.range 192).filter fun t => (s.ctx (.thread t)).isNone && s.pool.any (s.dispatchableNp t)).take 1).map fun t =>
          execDispatch (.thread t))

/-- Lanterns post in ascending register order (R75): the first that can. -/
def State.lanternWork (s : State) : List Work :=
  match s.lanterns.find? fun (r, l) => l.pending && s.gate == .running && (!nbEn (s.nbind.get 0 r) || s.mayPostNotify r) with
  | some (r, _) => [execLanternPost r]
  | none => []

/-- A timer has an event to post, or a deadline that has passed (R78). -/
def State.timerDue (s : State) (k : Nat) (t : Timer) : Bool :=
  (t.due.isSome && s.eventRoom (k / 4096) t.cls) || (t.armed && decide (t.deadline ≤ s.now))

/-- Actions of triggers that wait to be issued. -/
def firedWork (a : Fired) : Work :=
  match trigAct a.words with
  | 1 => execTriggerLaunch a.entry
  | 2 => execTriggerCopy a.entry
  | 3 => execTriggerSend a.entry
  | _ => execTriggerEvent a.entry

/-- The next step of a motion record. -/
def motionWork (i : Nat) (m : Motion) : List Work :=
  match m.st with
  | .free => []
  | .copying => [execCrumbCopy i]
  | .draining => [execMotionCommit i]
  | .committing => [execMotionComplete i]
  | .aborting => if m.lost then [] else [execMotionAbortComplete i]

/-- Work of the Poleth die. -/
def State.dieWork (s : State) : List Work :=
  (if s.submits.isEmpty then [] else [execAdmission]) ++
    (s.spilled.map Spilled.world).eraseDups.map execOverflowReturn ++ s.placing ++ s.lanternWork ++
    (s.timers.filter fun (k, t) => s.timerDue k t).map (fun (k, _) => execTimerExpiry (k / 4096) (k % 4096)) ++
    s.fired.map firedWork ++ s.motions.flatMap (fun (i, m) => motionWork i m) ++
    (s.dup.filter fun d => !d.held.isEmpty).map (fun d => execDupWriteRelease d.page) ++
    (if s.keyOps.isEmpty then [] else [execSecurityCompletion 0])

/-- All of it, in the order in which the round robin takes it. -/
def State.work (s : State) : List Work :=
  s.cores.flatMap (fun (c, k) => coreWork c k) ++
    s.threads.flatMap (fun (t, o) => match o with | some x => taskWork (.thread t) x | none => []) ++ s.dieWork

/-- The event path may be gated: no core has a task or a copy, every control task waits for an event, and nothing waits on the Poleth
die (DESIGN CHOICE, log 46). -/
def State.mayGate (s : State) : Bool :=
  s.urgent.isEmpty && s.dieWork.isEmpty && s.cores.all (fun (_, k) => k.ctx.isNone && k.copies.isEmpty) &&
    s.threads.all fun (_, o) => o.all fun x => x.e.wait == some .event

/-- A core has neither a context nor a copy. -/
def Core.asleep (k : Core) : Bool := k.bank0.isNone && k.bank1.isNone && k.copies.isEmpty

/-- A translation unit whose logic power management gates: those of cores that are asleep, the last-level one of a die whose cores all
are, and the Poleth one with the event path (R121; DESIGN CHOICE, log 46). -/
def State.gatesUnit (s : State) : TlbUnit → Bool
  | .scalar (.a c) | .scalar (.e c) | .stream c _ => (s.core c).asleep
  | .die d => (List.range 32).all fun i => (s.core (32 * d + i)).asleep
  | .scalar (.np _) | .poleth => s.mayGate

/-- Power management gates what sleeps, and the translations that it holds go with it (R75, R121). -/
def State.gateNow (s : State) : State :=
  { s with gate := if s.gate = .running ∧ s.mayGate then .gated else s.gate, tlb := s.tlb.filter fun e => !s.gatesUnit e.unit }

/-- Gated logic runs again: its wake has come to its end, or work of its own has come (R75). -/
def State.wakeDue (s : State) : Bool :=
  match s.gate with
  | .running => false
  | .gated => !s.dieWork.isEmpty
  | .waking t => decide (t ≤ s.now) || !s.dieWork.isEmpty

/-- The turn that the machine gives itself: a wake, then urgent work, then the rest in turn (log 2). -/
def State.ownTurn (s : State) : Host.Outcome State Fault Refusal :=
  if s.wakeDue then .next { s with gate := .running }
  else
    match s.urgent with
    | g :: _ => g s
    | [] =>
      let l := s.work
      let s := { s with rr := s.rr + 1 }
      match l[s.rr % l.length]? with
      | some g => g s
      | none => .next s

/-- An event from outside comes after the frame edges that are due already, and what comes before them (R97). -/
def State.eventTurn (s : State) (i : Instr) (l : List Turn) : Host.Outcome State Fault Refusal :=
  match if s.boot = .running then (s.cores.keys.filter s.edgeDue).flatMap s.urgentCore else [] with
  | g :: _ => g s
  | [] => runEvent i { s with agenda := l }

/-- The turn of a step: what the outside has asked for, or the machine's own. -/
def State.turn (s : State) : Host.Outcome State Fault Refusal :=
  match s.agenda with
  | .run ag :: l => if s.boot = .running then runAgent ag { s with agenda := l } else .next { s with agenda := l }
  | .event i :: l => s.eventTurn i l
  | .gate :: l => .next { s with agenda := l }.gateNow
  | [] => if s.boot = .running then s.ownTurn else .next s

/-! ## Time (R103, R187, R253) -/

/-- The wait is on an agent of the stream's own task (R187). -/
def Wait.own : Wait → Bool
  | .queue _ | .sem _ | .copyTag | .publ _ | .matrix | .mcq | .vector => true
  | _ => false

/-- A stream that has left or waits so, with no request outstanding. -/
def Stream.stuck (st : Stream) : Bool := (st.exit != .running || st.wait.any Wait.own) && st.out.isEmpty && st.yield == 0

/-- No command of mcq can make a step. -/
def State.meStuck (s : State) (c : Nat) (x : Ctx) : Bool :=
  let same (o : Host.Outcome State Fault Refusal) : Bool :=
    match o with
    | .next s' => ((s'.core c).ctx.map Ctx.mcq) == some x.mcq
    | _ => true
  (List.range x.mcq.length).all (fun e => same (execMeCommandStart c e s)) && same (execMeCommandRetire c s)

/-- A copy has written all of its output. -/
def Copy.written (p : Copy) : Bool := if p.dk < 2 then decide (p.lastChunk ≤ p.chunks) else decide (p.entries ≤ p.pushed)

/-- The engine does not work on a copy, as its task has stopped, or the copy, with no request outstanding, waits on a queue, a ring
slot, its turn for one, or the copies that its publication covers. -/
def State.copyStuck (s : State) (c : Nat) (p : Copy) : Bool :=
  let k := s.core c
  (p.task.bind k.task).any (fun x => x.phase != .running && !p.writing) ||
    (p.early.isNone && p.descOk c && (p.asks.all fun a => a.rsp.isSome) &&
      ((p.dk == 1 && !p.allocated && (s.ringRefusal c p).isNone &&
          (!s.ringTurn c p || (c :: p.mcCores c).any fun d => (s.ringTask c p d).any fun x => rgdFull (x.rgd.get 0 p.ring))) ||
        (decide (2 ≤ p.dk) && decide (p.pushed < p.entries) &&
          (!k.queueTurn p || (p.task.bind k.task).any fun x => decide (queueDepth p.queue ≤ (x.queue p.queue).rows.length))) ||
        (p.pub && p.written && s.coverPending c p.covers p.phnd p.world)))

/-- Everything that R187 names holds on a core. A task that both streams have left waits on its engines alone, and ends once they have
retired (R103, R254). -/
def State.deadlocked (s : State) (c : Nat) (x : Ctx) : Bool :=
  x.a.stuck && x.e.stuck && !(x.a.exit != .running && x.e.exit != .running && x.ve.isEmpty && x.mcq.isEmpty) &&
    (veRun x (s.core c).sram).isNone && s.meStuck c x && (s.core c).copies.all (s.copyStuck c)

/-- A stream after some clk: YIELD counts down. -/
def Stream.elapse (clk : Nat) (st : Stream) : Stream := if st.yield = 0 then st else { st with yield := st.yield - clk }

/-- A task after some time: the watchdog count of one that runs (R103). -/
def Ctx.elapse (clk ns : Nat) (x : Ctx) : Ctx :=
  if x.phase ≠ .running then x
  else
    let n :=
      if x.control then (if x.e.wait = some .event then 0 else ns)
      else if x.left .ended || x.left .suspended then 0 else clk
    { x with wdcnt := x.wdcnt + n, a := x.a.elapse clk, e := x.e.elapse clk }

/-- A core after some time: only the task in its active bank runs, and from the end of a sealed edge's 5 µs on. -/
def Core.elapse (now clk ns : Nat) (stuck : Bool) (k : Core) : Core :=
  let k := if now < k.sealTill then k else match k.ctx with
    | some x => k.setCtx (some (x.elapse clk ns))
    | none => k
  { k with deadlock := if stuck then k.deadlock + clk else 0 }

/-- The time of a step passes. -/
def State.tick (s : State) : State :=
  let clk := Config.stepClk s.seq
  let ns := Config.stepNs s.seq
  let core (x : Nat × Core) : Nat × Core :=
    (x.1, x.2.elapse s.now clk ns (x.2.ctx.any fun y => y.phase == .running && s.deadlocked x.1 y))
  { s with
    seq := s.seq + 1, now := s.now + ns, cores := s.cores.map core,
    threads := s.threads.map fun (t, x) => (t, x.map (Ctx.elapse clk ns)) }

/-- A step's outcome with its time. -/
def ticked : Host.Outcome State Fault Refusal → Host.Outcome State Fault Refusal
  | .next s => .next s.tick
  | o => o

/-! ## An instruction put where the next step fetches it -/

/-- The stream that a word is for: E for queue, vector, matrix and semaphore words, A for the other words of compute tasks, and
otherwise NP thread 0, the supervisor. -/
def agentOf (w : Insn) : Agent :=
  let op := (opOf w).toNat
  if op = 0x0A ∨ (0x20 ≤ op ∧ op ≤ 0x31) then .e 0
  else if 0x10 ≤ op ∧ op ≤ 0x19 then .a 0
  else .np 0

/-- The first 4 GiB of world 0 mapped to the first 4 GiB of T0 with every permission: a root table at 0x8000, and its L3
table at 0x10000 with one leaf. -/
def State.mapLow (s : State) : State :=
  let x := s.world 0
  let part : Partition := match x.part with
    | some p => { p with cores := p.cores ||| 1, threads := 192, failed := false }
    | none => { cores := 1, threads := 192, failed := false, debug := false }
  let s := s.setWorld 0 { x with part := some part, ttw := 0x8001, wdog := 0 }
  let s : State := { s with
    motions := [], dup := [], dead := s.dead.set false 0 false, ecc := s.ecc.filter fun (g, _) => decide (2 ^ 15 ≤ g),
    sramEcc := [], enc := s.enc.filter fun (g, _) => g != 0x200 && g != 0x400, gate := .running,
    tlb := s.tlb.filter fun e : TlbEntry => e.world != 0 }
  (s.poke64 0x8000 0x10001).poke64 0x10000 0x3F

/-- A word placed at PC 0 of an agent's code, read as it is written. -/
def State.placeWord (s : State) (ag : Agent) (w : Insn) : State :=
  let pa := codeBase ag 1
  { s.poke pa (insnBytes w) with enc := s.enc.set none (pa / 64) none }

/-- The task of an agent put in its place, its banks claimed for world 0. -/
def State.placeTask (s : State) (ag : Agent) : State :=
  let x := placedTask ag.place s.nextDisp
  let s := { s with nextDisp := s.nextDisp + 1 }
  match ag with
  | .np t => { s with threads := s.threads.set none t (some x) }
  | .a c | .e c =>
    s.setCore c { Core.empty with bank0 := some x, owner := (List.range 64).map fun b => (b, 64) }

end Sys2Proof.Machine
end

