-- ==== Sys2Proof/Machine/Step.lean ====
section
/-! DEFINITION. The step: boot first (R411), then one turn, then its time; and the word that the next step runs. -/

namespace Sys2Proof.Machine

/-- One step. -/
def step (s : State) : Host.Outcome State Fault Refusal :=
  if s.boot = .pending then .next s.bootNow else ticked s.turn

/-- An instruction stored where the next step fetches it (log 5): a task of world 0 stands at it, on core 0 or NP thread 0, and
has the next turn. -/
def State.withFetchWord (s : State) (_nbits w : Nat) : State :=
  let i : Insn := BitVec.ofNat 48 w
  let ag := agentOf i
  let s := ((s.mapLow.placeWord ag i).placeTask ag)
  { s with boot := .running, cur := none, agenda := [.run ag] }

end Sys2Proof.Machine
end

