-- ==== Sys2Proof/Safety.lean ====
section
/-! DEFINITION. What counts as a safe run, and the words that claims about the machine use: the stream a word executes in,
its state after a word, and what the rules compute, written apart from the meanings. -/

namespace Sys2Proof

open Sys2Proof.Machine

/-- The form that states keep: memory is canonical. -/
def Safety.stateOk (s : State) : Prop := Memory.wf s.mem = true

/-- The machine makes a step. -/
def Safety.stepsOn (s : State) : Prop := ∃ t, step s = .next t

/-- A run of n steps is safe. -/
def Safety.safeFor : Nat → State → Prop
  | 0, s => Safety.stateOk s
  | n + 1, s => Safety.stateOk s ∧ ∃ t, step s = .next t ∧ Safety.safeFor n t

end Sys2Proof

namespace Sys2Proof.Machine

/-- An agent's word executes, in a context. -/
structure State.At (s : State) (ag : Agent) (x : Ctx) : Prop where
  cur : s.cur = some ag
  ctx : s.ctx ag.place = some x

/-- The agent's context replaced. -/
def State.put (s : State) (ag : Agent) (x : Ctx) : State := s.setCtx ag.place (some x)

/-- The agent's stream replaced, in its context. -/
def State.putStream (s : State) (ag : Agent) (x : Ctx) (st : Stream) : State := s.put ag (x.setStream ag st)

/-- The state in which a word's body runs: the PC has advanced. -/
def State.advanced (s : State) (ag : Agent) (x : Ctx) : State := s.putStream ag x (x.stream ag).advance

/-- A fault that a word takes as STREAM, ILLEGAL_INSTR and the causes without payload D are taken: C names the word's PC, and
the word has no effect. -/
def State.stopped (s : State) (ag : Agent) (x : Ctx) (cause : Nat) (d : W64) : State :=
  s.raise ag.place ag.code { cause, c := w64 (pcField (x.stream ag).pc), d, defer := false, log := none } 0

/-! ## Integer arithmetic as bit vectors (R231 to R235) -/

/-- The low w bits of a register. -/
def Spec.low (w : Nat) (v : W64) : BitVec w := v.setWidth w

/-- A w-bit result as a register holds it: sext when X = 1, zext when X = 0. -/
def Spec.extend {w : Nat} (sgn : Bool) (r : BitVec w) : W64 := if sgn then r.signExtend 64 else r.setWidth 64

/-- What a row computes of x, y and z and of the shift amount, at each width. -/
abbrev Spec.AluFn := (w : Nat) → BitVec w → BitVec w → BitVec w → Nat → BitVec w

def Spec.bit {w : Nat} (b : Bool) : BitVec w := if b then 1 else 0

/-- The high half of the product of two w-bit numbers that `ext` widens. -/
def Spec.high (ext : (w : Nat) → BitVec w → BitVec (2 * w)) (w : Nat) (x y : BitVec w) : BitVec w :=
  (ext w x * ext w y).extractLsb' w w

def Spec.add : Spec.AluFn := fun _ x y _ _ => x + y
def Spec.mul : Spec.AluFn := fun _ x y _ _ => x * y
def Spec.and : Spec.AluFn := fun _ x y _ _ => x &&& y
def Spec.or : Spec.AluFn := fun _ x y _ _ => x ||| y
def Spec.xor : Spec.AluFn := fun _ x y _ _ => x ^^^ y
def Spec.shl : Spec.AluFn := fun w x _ _ n => if w ≤ n then 0 else x <<< n
def Spec.shr : Spec.AluFn := fun w x _ _ n => if w ≤ n then 0 else x >>> n
def Spec.sar : Spec.AluFn := fun w x _ _ n =>
  if w ≤ n then (if x.msb then BitVec.allOnes w else 0) else x.sshiftRight n
def Spec.rol : Spec.AluFn := fun _ x _ _ n => x.rotateLeft n
def Spec.ror : Spec.AluFn := fun _ x _ _ n => x.rotateRight n
def Spec.min : Spec.AluFn := fun _ x y _ _ => if y.slt x then y else x
def Spec.max : Spec.AluFn := fun _ x y _ _ => if x.slt y then y else x
def Spec.slt : Spec.AluFn := fun _ x y _ _ => Spec.bit (x.slt y)
def Spec.sltn : Spec.AluFn := fun _ x y _ _ => Spec.bit (x.ult y)
def Spec.seq : Spec.AluFn := fun _ x y _ _ => Spec.bit (x == y)
def Spec.sne : Spec.AluFn := fun _ x y _ _ => Spec.bit (x != y)

/-- The arithmetic and logic rows of R233. -/
def Spec.arithRows : List ((FmtS → Instr) × Spec.AluFn) :=
  [(.add, Spec.add), (.sub, fun _ x y _ _ => x - y), (.mul, Spec.mul),
    (.mulh, fun w x y _ _ => Spec.high (fun w v => v.signExtend (2 * w)) w x y),
    (.mulhn, fun w x y _ _ => Spec.high (fun w v => v.setWidth (2 * w)) w x y),
    (.mad, fun _ x y z _ => x * y + z), (.and, Spec.and), (.or, Spec.or), (.xor, Spec.xor),
    (.andn, fun _ x y _ _ => x &&& ~~~y), (.orn, fun _ x y _ _ => x ||| ~~~y), (.xnor, fun _ x y _ _ => ~~~(x ^^^ y))]

/-- The shifts, comparisons and bit counts of R233. -/
def Spec.shiftRows : List ((FmtS → Instr) × Spec.AluFn) :=
  [(.shl, Spec.shl), (.shr, Spec.shr), (.sar, Spec.sar), (.rol, Spec.rol), (.ror, Spec.ror), (.min, Spec.min),
    (.max, Spec.max), (.minn, fun _ x y _ _ => if y.ult x then y else x), (.maxn, fun _ x y _ _ => if x.ult y then y else x),
    (.slt, Spec.slt), (.sltn, Spec.sltn), (.seq, Spec.seq), (.sne, Spec.sne), (.clz, fun _ x _ _ _ => x.clz),
    (.ctz, fun _ x _ _ _ => x.ctz), (.popc, fun _ x _ _ _ => x.cpop), (.brev, fun _ x _ _ _ => x.reverse)]

/-- The immediate rows (R235), with the function of their register form. -/
def Spec.immRows : List ((FmtI → Instr) × Spec.AluFn) :=
  [(.addImm, Spec.add), (.mulImm, Spec.mul), (.andImm, Spec.and), (.orImm, Spec.or), (.xorImm, Spec.xor), (.shlImm, Spec.shl),
    (.shrImm, Spec.shr), (.sarImm, Spec.sar), (.rolImm, Spec.rol), (.rorImm, Spec.ror), (.minImm, Spec.min),
    (.maxImm, Spec.max), (.sltImm, Spec.slt), (.sltnImm, Spec.sltn), (.seqImm, Spec.seq), (.sneImm, Spec.sne)]

/-- The division rows (R234): quotients toward zero, 0 over a zero divisor, and the least number over −1 itself. -/
def Spec.divRows : List ((FmtS → Instr) × ((w : Nat) → BitVec w → BitVec w → BitVec w)) :=
  [(.div, fun _ x y => x.sdiv y), (.divn, fun _ x y => x / y), (.rem, fun _ x y => x.srem y), (.remn, fun _ x y => x % y)]

/-- The register value of a row of format S. -/
def Spec.aluValue (g : Spec.AluFn) (st : Stream) (f : FmtS) : W64 :=
  let w := widthOf f.sz
  Spec.extend (f.mod.getLsbD 0)
    (g w (Spec.low w (st.reg f.a.toNat)) (Spec.low w (st.reg f.b.toNat)) (Spec.low w (st.reg f.c.toNat))
      (st.reg f.b.toNat).toNat)

/-- The register value of a row of format I. -/
def Spec.immValue (g : Spec.AluFn) (st : Stream) (f : FmtI) : W64 :=
  let y : W64 := f.imm.signExtend 64
  g 64 (st.reg f.a.toNat) y 0 y.toNat

/-- Bit k of x is packed at the number of 1s of y below k (BEXT). -/
def Spec.rank {w : Nat} (y : BitVec w) (k : Nat) : Nat := ((List.range k).filter fun i => y.getLsbD i).length

/-! ## Floating point (R237 to R240) -/

/-- The rounding rows, with the exact result of their operands. -/
def Spec.fpRows : List ((FmtS → Instr) × (Rm → Num → Num → Num → Exact × Flags)) :=
  [(.fadd, fun rm x y _ => addNum rm x y), (.fsub, fun rm x y _ => addNum rm x y.neg), (.fmul, fun _ x y _ => mulNum x y),
    (.ffma, fmaNum), (.fdiv, fun _ x y _ => divNum x y), (.fsqrt, fun _ x _ _ => sqrtNum x)]

/-- A scalar word in SR takes one draw; in the E stream it waits for the vector words issued before it. -/
def Spec.mayRound (ag : Agent) (x : Ctx) (rm : Rm) : Prop := rm = .sr → (∃ c, ag = .e c) → x.ve = []

/-- The stream after the draw, and the draw. -/
def Spec.drawn (st : Stream) (rm : Rm) : Stream × BitVec 32 :=
  if rm = .sr then ({ st with lfsr := (srDraw st.lfsr).1 }, (srDraw st.lfsr).2) else (st, 0)

/-- Flags are sticky: they are ORed into FPSTAT. -/
def Stream.flagged (st : Stream) (fl : Flags) : Stream := { st with fpstat := st.fpstat ||| fl.setWidth 64 }

/-! ## Conditions (R241) -/

/-- The comparisons by code, of two w-bit operands. -/
def Spec.conditions : List (Nat × ((w : Nat) → BitVec w → BitVec w → Bool)) :=
  [(0, fun _ a b => a == b), (1, fun _ a b => a != b), (2, fun _ a b => a.slt b), (3, fun _ a b => b.sle a),
    (4, fun _ a b => a.ult b), (5, fun _ a b => b.ule a), (6, fun _ a b => a &&& b != 0), (7, fun _ a b => a &&& b == 0)]

/-- The predicate operations (R242). -/
def Spec.predRows : List ((FmtS → Instr) × (Bool → Bool → Bool)) :=
  [(.pand, fun a b => a && b), (.por, fun a b => a || b), (.pxor, fun a b => a ^^ b), (.pnot, fun a _ => !a)]

/-- Major 0x05 by FN, each with what its fields must be (R242, R193). -/
def Spec.predicateWords : List ((FmtS → Instr) × (FmtS → Bool)) :=
  let number (r : BitVec 6) : Bool := r.extractLsb' 3 3 == 0
  let three (f : FmtS) : Bool := number f.d && number f.a && number f.b && f.c == 0 && f.sz == 0 && f.mod == 0
  [(.pset, fun f => number f.d && decide (f.c.toNat < 8) && f.mod == 0), (.pand, three), (.por, three), (.pxor, three),
    (.pnot, fun f => three f && f.b == 0)]

/-- Major 0x07 by FN, each with what its fields must be (R244). -/
def Spec.jumpWords : List ((FmtI → Instr) × (FmtI → Bool)) :=
  [(.jmp, fun f => f.d == 0 && f.a == 0), (.jmpr, fun f => f.d == 0), (.call, fun f => f.a == 0),
    (.ret, fun f => f.d == 0 && f.imm == 0), (.loop, fun f => f.a == 0 && f.d != 0)]

/-! ## Where a scalar access goes (R109 to R112, R116, R121) -/

/-- The access of a scalar load or store. -/
def Spec.unitOf (ag : Agent) : TlbUnit := match ag with | .np _ => .poleth | ag => .scalar ag

/-- An access of n bytes lies in the own window of a compute stream on a core, at a byte of its SRAM pool (R110). -/
def Spec.ownWindow (ag : Agent) (x : Ctx) (ea : W64) (n core off : Nat) : Prop :=
  (ag = .a core ∨ ag = .e core) ∧ ea.toNat < 2 ^ 23 ∧ ea.toNat + n ≤ bits x.partw 32 8 * 65536 ∧
    off = bits x.partw 25 7 * 65536 + ea.toNat ∧ off + n ≤ 2 ^ 23

/-- Bytes of a core's SRAM pool. -/
def State.sramBytes (s : State) (core off n : Nat) : List Byte := (List.range n).map fun i => (s.core core).sram.get 0 (off + i)

/-- The pool with bytes written from an offset up. -/
def Spec.sramWith (t : Tbl Byte) (off : Nat) : List Byte → Tbl Byte
  | [] => t
  | b :: l => Spec.sramWith (t.set 0 off b) (off + 1) l

/-- Where the bytes of a page of an entry stand. -/
def TlbEntry.paOf (e : TlbEntry) (va : Nat) : Nat := leafPA e.leaf e.log2 + va % 2 ^ e.log2

/-- No write of the agent waits for the holders of a duplicated page (R128). -/
def Spec.noneHeld (s : State) (ag : Agent) : Prop := ∀ d ∈ s.dup, ∀ h ∈ d.held, h.ag ≠ some ag

/-- An access of n bytes at a world's VA, under storage scope 1 or 3, lies in one page that its unit holds, with translation enabled: a leaf in
T0 or T1, or for scope 3 in the host window, that may be read and written and has its D bit set, neither lossy, sealed,
duplicated nor aborted, where no error stands; and none of what follows a write by address is in use: hotness, tracked ranges,
live barrier words, motion. -/
structure Spec.PlainPage (s : State) (u : TlbUnit) (w stor : Nat) (ea : W64) (n : Nat) (e : TlbEntry) : Prop where
  low : ea.toNat < 2 ^ 56
  world : ea.toNat >>> 48 ≠ 0xFF
  enabled : (s.world w).ttw.getLsbD 0 = true
  hit : s.tlb.find? (fun e : TlbEntry => e.hit u w ea.toNat) = some e
  within : ea.toNat % 2 ^ e.log2 + n ≤ 2 ^ e.log2
  read : leafRD e.leaf = true
  write : leafWR e.leaf = true
  dirty : leafD e.leaf = true
  plain : leafLOSSY e.leaf = 0 ∧ leafSEAL e.leaf = false ∧ leafDUP e.leaf = false ∧ leafMOT e.leaf ≠ 3
  tier : ∀ i, i < n →
    stor = 1 ∧ (windowOf (e.paOf ea.toNat + i) = some .t0 ∨ windowOf (e.paOf ea.toNat + i) = some .t1) ∨
      stor = 3 ∧ windowOf (e.paOf ea.toNat + i) = some .host
  sound : s.ecc = []
  still : s.motions = []
  quiet : s.hotArray = none ∧ (s.world w).track = [] ∧ s.barriers = [] ∧ s.dup = []

/-- Every byte of a run is translated by one entry. -/
def Spec.onePage (s : State) (u : TlbUnit) (w va n : Nat) (e : TlbEntry) : Prop :=
  ∀ i, i < n → s.tlb.find? (fun r : TlbEntry => r.hit u w (va + i)) = some e

/-- The view of a byte that a world reads or writes: in device memory its key and the storage VA (R161), elsewhere the bytes as
they stand. -/
def State.viewOf (s : State) (w va pa : Nat) : Option EncTag :=
  if tiered pa then some (.key w (s.world w).keyNow (va / 64)) else none

/-- Bytes read from a physical address up, those from a world VA up. -/
def State.loadBytes (s : State) (w va pa n : Nat) : List Byte :=
  (List.range n).map fun i => s.readByte (pa + i) (s.viewOf w (va + i) (pa + i))

/-- Bytes written one by one from a physical address, those from a world VA up. -/
def State.storeBytes (s : State) (w va pa : Nat) : List Byte → State
  | [] => s
  | b :: l => (s.writeByte pa (s.viewOf w va pa) b).storeBytes w (va + 1) (pa + 1) l

/-- What an access of n bytes reads: bytes of the own window, where no SRAM error stands, or of a page. -/
def Spec.reads (s : State) (ag : Agent) (x : Ctx) (u : TlbUnit) (stor : Nat) (ea : W64) (n : Nat) (l : List Byte) : Prop :=
  (stor = 0 ∧ s.sramEcc = [] ∧ ∃ core off, Spec.ownWindow ag x ea n core off ∧ l = s.sramBytes core off n) ∨
    ∃ e, Spec.PlainPage s u x.world stor ea n e ∧ l = s.loadBytes x.world ea.toNat (e.paOf ea.toNat) n

/-- What a store of bytes does to the machine: the own window's bytes, or a page's. -/
def Spec.writes (s : State) (ag : Agent) (x : Ctx) (u : TlbUnit) (stor : Nat) (ea : W64) (l : List Byte)
    (g : State → State) : Prop :=
  (stor = 0 ∧ s.sramEcc = [] ∧ Spec.noneHeld s ag ∧ ∃ core off, Spec.ownWindow ag x ea l.length core off ∧
    g = fun t => t.setCore core { t.core core with sram := Spec.sramWith (t.core core).sram off l }) ∨
  ∃ e, Spec.PlainPage s u x.world stor ea l.length e ∧ g = fun t => t.storeBytes x.world ea.toNat (e.paOf ea.toNat) l

/-! ## Where a word may run (R197) -/

/-- The kinds of stream. -/
inductive Spec.Kind where
  | a | e | np | supervisor
  deriving DecidableEq, Repr

/-- The kind of an agent's stream in a world: the supervisor is a control task of world 0. -/
def Spec.kindOf (ag : Agent) (world : Nat) : Spec.Kind :=
  match ag with
  | .a _ => .a
  | .e _ => .e
  | .np _ => if world = 0 then .supervisor else .np

/-- The groups of the table: first and last OP, and the kinds of stream where they are legal. -/
def Spec.groups : List (Nat × Nat × List Spec.Kind) :=
  [(0x01, 0x09, [.a, .e, .np, .supervisor]), (0x0A, 0x0A, [.a, .e]), (0x0B, 0x0B, [.a, .e, .np, .supervisor]),
    (0x10, 0x15, [.a]), (0x18, 0x19, [.a]), (0x20, 0x28, [.e]), (0x30, 0x30, [.e]), (0x31, 0x31, [.a, .e]),
    (0x34, 0x3A, [.a, .e, .np, .supervisor]), (0x3C, 0x3D, [.np, .supervisor]), (0x3E, 0x3E, [.supervisor])]

/-- The kinds of stream where a word's group is legal, if it has one. -/
def Spec.groupOf (w : Insn) : Option (List Spec.Kind) :=
  (Spec.groups.find? fun g => decide (g.1 ≤ (opOf w).toNat) && decide ((opOf w).toNat ≤ g.2.1)).map fun g => g.2.2

/-- The rows that a guard of 0 turns into nothing, but for those with checks of their own stream. -/
def Spec.guardedS : List (FmtS → Instr) :=
  Spec.arithRows.map Prod.fst ++ Spec.shiftRows.map Prod.fst ++ Spec.divRows.map Prod.fst ++ Spec.fpRows.map Prod.fst ++
    Spec.predRows.map Prod.fst ++
    [.sel, .bext, .bdep, .fmin, .fmax, .fcvt, .fcmp, .fclass, .pset, .ld true true, .ld true false, .ld false true,
      .ld false false, .ldx true true, .ldx true false, .ldx false true, .ldx false false, .st true, .st false,
      .stx true, .stx false, .fence, .ofence, .xfence, .mark]
def Spec.guardedI : List (FmtI → Instr) :=
  Spec.immRows.map Prod.fst ++ [.jmp, .jmpr, .call, .ret, .loop, .nop, .endTask, .yield, .trap, .bkpt, .halt]

/-- The guarded rows that give their order in FN (R340, R343). -/
def Spec.guardedOrdered : List (BitVec 2 → FmtS → Instr) :=
  [.aadd, .aand, .aor, .axor, .amin, .amax, .aminn, .amaxn, .aswap, .acas, .afxinit, .afxadd, .afxrd, .afxrdClr]

/-! ## Control registers (R249) -/

/-- The map: first and last number, and what the A stream, the E stream and an NP thread may do. -/
def Spec.cregMap : List (Nat × Nat × Reach × Reach × Reach) :=
  [(0x00, 0x03, .rw, .rw, .rw), (0x04, 0x04, .none, .rw, .none), (0x08, 0x0C, .ro, .ro, .ro), (0x0D, 0x0D, .ro, .ro, .none),
    (0x10, 0x21, .ro, .rw, .none), (0x28, 0x2F, .ro, .rw, .none), (0x30, 0x30, .ro, .ro, .none),
    (0x34, 0x37, .none, .rw, .rw)]

/-- What an agent may do with a register of the map. -/
def Spec.reach (ag : Agent) (n : Nat) : Option Reach :=
  (Spec.cregMap.find? fun r => decide (r.1 ≤ n) && decide (n ≤ r.2.1)).map fun r =>
    match ag with
    | .a _ => r.2.2.1
    | .e _ => r.2.2.2.1
    | .np _ => r.2.2.2.2

/-- SELF by its fields: module [39:30], world [29:24], stream [23:22], thread [21:14], core [13:7]. -/
def Spec.self (ag : Agent) (world : Nat) : W64 :=
  let m : BitVec 10 := Config.moduleNumber
  let w : BitVec 6 := BitVec.ofNat 6 world
  let r : BitVec 24 := match ag with
    | .a c => (0 : BitVec 2) ++ (0 : BitVec 8) ++ BitVec.ofNat 7 c ++ (0 : BitVec 7)
    | .e c => (1 : BitVec 2) ++ (0 : BitVec 8) ++ BitVec.ofNat 7 c ++ (0 : BitVec 7)
    | .np t => (2 : BitVec 2) ++ BitVec.ofNat 8 t ++ (0 : BitVec 7) ++ (0 : BitVec 7)
  (0 : BitVec 24) ++ m ++ w ++ r

/-- What a read of a register answers, but for FTSTAT. -/
def Spec.cregValue (s : State) (ag : Agent) (x : Ctx) (n : Nat) : W64 :=
  let st := x.stream ag
  match n with
  | 0x00 => st.fpctl
  | 0x01 => st.fpstat
  | 0x02 => st.lfsr.extractLsb' 0 64
  | 0x03 => st.lfsr.extractLsb' 64 64
  | 0x04 => x.mxstat
  | 0x08 => Spec.self ag x.world
  | 0x09 => w64 x.recva
  | 0x0A => x.argp
  | 0x0B => w64 x.wdcnt
  | 0x0C => w64 s.now
  | 0x0D => w64 ((s.core ag.core).cur <<< 4)
  | 0x20 => x.vshape
  | 0x21 => x.vksc
  | 0x30 => x.ctb
  | n => if n < 0x20 then x.vw.get 0 (n - 0x10) else if n < 0x30 then x.rgd.get 0 (n - 0x28) else x.swait.get 0 (n - 0x34)

/-- A wait slot as a register holds it (R26, R6): by WK, in bits 63 and 62, its fields, the RES0 bits 0. -/
def Spec.waitSlot (v : W64) : W64 :=
  let wk := v.extractLsb' 62 2
  if wk = 0 then 0
  else if wk = 1 then wk ++ (0 : BitVec 4) ++ v.extractLsb' 0 58
  else if wk = 2 then wk ++ (0 : BitVec 5) ++ v.extractLsb' 0 57
  else v

/-- A read or write that R221 holds back until the engines' work is done finds none. -/
def Spec.cregReady (ag : Agent) (x : Ctx) (n : Nat) : Prop :=
  (n < 4 → (∃ c, ag = .e c) → x.ve = []) ∧ (n = 4 → x.mcq = [])

/-! ## Queues (R185, R186, R252) -/

/-- The streams that QPUSH, and QPOP and QPEEK, may name a queue in. -/
def Spec.pushes (ag : Agent) (c : Nat) : Prop :=
  match ag with
  | .a _ => c = 12
  | .e _ => 8 ≤ c ∧ c < 12 ∨ c = 13
  | .np _ => False
def Spec.pops (ag : Agent) (c : Nat) : Prop :=
  match ag with
  | .a _ => c = 13
  | .e _ => c < 8 ∨ c = 12
  | .np _ => False

/-- No vector word issued before still moves rows of the queue. -/
def Spec.queueFree (ag : Agent) (x : Ctx) (c : Nat) : Prop := (∃ k, ag = .e k) → ∀ p ∈ x.ve, p.queue ≠ some c

/-! ## The access stream (R257 to R264) -/

/-- After repetition i of a word of `rep` + 1 repetitions: the next one, or the next word (R194). -/
def Stream.stepped (st : Stream) (rep : Nat) : Stream :=
  if st.rpt < rep then { st with rpt := st.rpt + 1, wait := none } else st.advance

/-- The address of repetition i, with the step in units of bytes. -/
def Spec.stepAddr (st : Stream) (f : FmtA) (unit : Nat) : W64 :=
  st.reg f.b.toNat + BitVec.ofInt 64 ((st.rpt : Int) * f.step.toInt * unit)

/-- A queue with its head row taken. -/
def Ctx.popped (x : Ctx) (c : Nat) : Ctx :=
  x.setQueue c { head := ((x.queue c).head + 1) % queueDepth c, rows := (x.queue c).rows.drop 1 }

/-- A queue with a whole row appended. -/
def Ctx.pushed (x : Ctx) (c : Nat) (l : List Byte) : Ctx :=
  x.setQueue c { x.queue c with rows := (x.queue c).rows ++ [{ bytes := l, arrived := true }] }

/-- The head row of a queue, whose bytes have arrived. -/
def Spec.head (x : Ctx) (c : Nat) (l : List Byte) : Prop := ∃ rest, (x.queue c).rows = { bytes := l, arrived := true } :: rest

/-- A queue has room for a row. -/
def Spec.room (x : Ctx) (c : Nat) : Prop := (x.queue c).rows.length < queueDepth c

/-- n bytes of a row: missing ones 0, surplus dropped. -/
def Spec.fit (n : Nat) (l : List Byte) : List Byte := l.take n ++ List.replicate (n - l.length) 0

/-- A row's 32-bit indices, `none` for an absent element (R262). -/
def Spec.indices (l : List Byte) : List (Option Int) :=
  (List.range ((l.length + 3) / 4)).map fun k =>
    let j := (BitVec.ofNat 32 (ofBytes ((l.drop (4 * k)).take 4))).toInt
    if j = -2 ^ 31 then none else some j

/-! ## Vector words (R287 to R308) -/

/-- The vector rows, with the operands that their FN holds. -/
def Spec.vectorRows (rm cc : BitVec 3) (sat : Bool) (n : BitVec 2) : List (FmtV → Instr) :=
  [.vadd, .vsub, .vmul, .vmulh, .vmin, .vmax, .vabs, .vneg, .vadds, .vsubs, .vavg, .vmaxd n, .vand, .vor, .vxor, .vandn,
    .vshl, .vshr, .vsar, .vfadd rm, .vfsub rm, .vfmul rm, .vffma rm, .vfdiv rm, .vfmin, .vfmax, .vexp2 rm, .vlog2 rm,
    .vrcp rm, .vrsqrt rm, .vrsum rm, .vrmax, .vrmin, .vcsum rm, .vcmax, .vargmax, .vcvt sat rm, .vqmx, .vdqmx sat rm,
    .vcmp cc, .vsel, .vmov, .vbcastRow, .vbcastCol, .vbcastOne, .vpopq, .vpushq, .vtrans, .vslide, .vperm, .vacc sat rm,
    .vaccZ sat rm, .vaccw, .vaccwAdd rm]

/-- What a repetition writes to the cells of a grid: a value and its flags for each, from its draw. -/
structure Spec.Grid where
  rows : Nat
  cols : Nat
  draws : Bool
  value : Nat → Nat → BitVec 32 → Nat × Flags

/-- The generator after n draws (R215). -/
def Spec.lfsrAfter (l : BitVec 128) (n : Nat) : BitVec 128 := Nat.repeat (fun l => (srDraw l).1) n l

/-- A grid's values: cell n in row-major order takes draw n where the row draws (R216). -/
def Spec.Grid.cell (g : Spec.Grid) (l : BitVec 128) (c : Nat × Nat) : Nat × Flags :=
  g.value c.1 c.2 (if g.draws then (srDraw (Spec.lfsrAfter l (c.1 * g.cols + c.2))).2 else 0)

/-- A grid written over a pool: each cell in row-major order, its flags ORed into FPSTAT, the draws taken (R216, R288). -/
def Spec.Grid.leaves (g : Spec.Grid) (put : Tbl Byte → Nat → Nat → Nat → Tbl Byte) (t : Tbl Byte) (x : Ctx) : Tbl Byte × Ctx :=
  let l := x.e.lfsr
  let cells := gridCells g.rows g.cols
  (cells.foldl (fun t c => put t c.1 c.2 (g.cell l c).1) t,
    { x with e :=
      { x.e.flagged (cells.foldl (fun fl c => fl ||| (g.cell l c).2) 0) with
        lfsr := if g.draws then Spec.lfsrAfter l (g.rows * g.cols) else l } })

/-- The element-wise rows (R289), from the elements of va and vb and the old one of vd. -/
def Spec.elements (v : VIn) (t : Tbl Byte) (draws : Bool) (g : Nat → Nat → Nat → BitVec 32 → Nat × Flags) : Spec.Grid :=
  { rows := v.rows, cols := v.cols, draws,
    value := fun r c d => g (v.get t v.f.va r c) (v.get t v.f.vb r c) (v.old t v.f.vd r c) d }

/-- Integer rows without a flag (R292, R293): of two elements of w bits, signed or not. -/
def Spec.ints (g : Bool → (w : Nat) → BitVec w → BitVec w → BitVec w) (v : VIn) (t : Tbl Byte) : Spec.Grid :=
  let ty := v.f.t.toNat
  let w := elemBits ty
  Spec.elements v t false fun a b _ _ => ((g (typeSigned ty) w (BitVec.ofNat w a) (BitVec.ofNat w b)).toNat, noFlags)

/-- The saturating rows: clamped to the type's range, with SAT when clamped. -/
def Spec.clamped (g : Int → Int → Int) (v : VIn) (t : Tbl Byte) : Spec.Grid :=
  let ty := v.f.t.toNat
  let w := elemBits ty
  let int (a : Nat) : Int := if typeSigned ty then (BitVec.ofNat w a).toInt else a
  let lo : Int := if typeSigned ty then -(2 : Int) ^ (w - 1) else 0
  let hi : Int := if typeSigned ty then 2 ^ (w - 1) - 1 else 2 ^ w - 1
  Spec.elements v t false fun a b _ _ =>
    let z := g (int a) (int b)
    if z < lo then ((BitVec.ofInt w lo).toNat, flagSAT) else if hi < z then ((BitVec.ofInt w hi).toNat, flagSAT)
    else ((BitVec.ofInt w z).toNat, noFlags)

/-- Rows that round an exact result of values of T once, to a format (R295, R296): z is the old element of vd. -/
def Spec.rounded (rm : BitVec 3) (out : VIn → Fmt) (g : VIn → Machine.Num → Machine.Num → Machine.Num → Exact × Flags) (v : VIn)
    (t : Tbl Byte) : Spec.Grid :=
  let num (a : Nat) : Machine.Num := fpValue (fmtOfType v.f.t.toNat) v.ftz a
  Spec.elements v t (v.rm rm == .sr) fun a b z d =>
    let e := g v (num a) (num b) (num z)
    let r := fpPut (out v) v.ftz (v.rm rm) v.satf d e.1
    (r.1, e.2 ||| r.2)

/-- The format of T, and that of vd. -/
def Spec.fmtT (v : VIn) : Fmt := fmtOfType v.f.t.toNat
def Spec.fmtVd (v : VIn) : Fmt := fmtOfType (viewType (v.view v.f.vd))

/-- VFMIN and VFMAX: an element as it is, none rounded. -/
def Spec.picked (wantMax : Bool) (v : VIn) (t : Tbl Byte) : Spec.Grid :=
  let num (a : Nat) : Machine.Num := fpValue (Spec.fmtT v) v.ftz a
  Spec.elements v t false fun a b _ _ =>
    ((fpPut (Spec.fmtT v) false .rne false 0 (minMaxNum wantMax (num a) (num b)).1).1, (minMaxNum wantMax (num a) (num b)).2)

/-- Rows of one result per line (R299): of the active row of va, or of its active column. -/
def Spec.lines (byRow draws : Bool) (g : VIn → BitVec 32 → List Nat → Nat × Flags) (v : VIn) (t : Tbl Byte) : Spec.Grid :=
  { rows := if byRow then v.rows else 1, cols := if byRow then 1 else v.cols, draws,
    value := fun r c d => g v d (if byRow then (List.range v.cols).map (v.get t v.f.va r)
      else (List.range v.rows).map fun k => v.get t v.f.va k c) }

/-- The integers and the values of a line. -/
def Spec.lineInts (v : VIn) (l : List Nat) : List Int :=
  l.map fun a => if typeSigned v.f.t.toNat then (BitVec.ofNat (elemBits v.f.t.toNat) a).toInt else a
def Spec.lineNums (v : VIn) (l : List Nat) : List Machine.Num := l.map (fpValue (Spec.fmtT v) v.ftz)

/-- A sum, exact and rounded once, or truncated (R300). -/
def Spec.sums (byRow : Bool) (rm : BitVec 3) (v : VIn) (t : Tbl Byte) : Spec.Grid :=
  let flt := typeIsFloat v.f.t.toNat
  Spec.lines byRow (flt && v.rm rm == .sr) (fun v d l =>
    if flt then
      let e := sumNum (v.rm rm) (Spec.lineNums v l)
      let r := fpPut (Spec.fmtVd v) v.ftz (v.rm rm) v.satf d e.1
      (r.1, e.2 ||| r.2)
    else ((BitVec.ofInt (elemBits (viewType (v.view v.f.vd))) (Spec.lineInts v l).sum).toNat, noFlags)) v t

/-- A greatest or least element (R300): NaNs are passed over, a line of NaNs giving the canonical one. -/
def Spec.extremes (byRow wantMax : Bool) (v : VIn) (t : Tbl Byte) : Spec.Grid :=
  Spec.lines byRow false (fun v _ l =>
    if typeIsFloat v.f.t.toNat then
      (match pickNum wantMax (Spec.lineNums v l) with
        | some u => (fpPut (Spec.fmtT v) false .rne false 0 u.exact).1
        | none => fpNan (Spec.fmtT v), nvIf ((Spec.lineNums v l).any Machine.Num.sNan))
    else
      let z := if wantMax then (Spec.lineInts v l).max? else (Spec.lineInts v l).min?
      ((BitVec.ofInt (elemBits v.f.t.toNat) (z.getD 0)).toNat, noFlags)) v t

/-- The lowest column that holds the row's greatest element, −1 where all are NaN (R300). -/
def Spec.argmax (v : VIn) (t : Tbl Byte) : Spec.Grid :=
  Spec.lines true false (fun v _ l =>
    if typeIsFloat v.f.t.toNat then
      (match pickNum true (Spec.lineNums v l) with
        | some m => (Spec.lineNums v l).findIdx fun u => eqNum u m && u.negative == m.negative
        | none => 0xFFFFFFFF, nvIf ((Spec.lineNums v l).any Machine.Num.sNan))
    else ((Spec.lineInts v l).findIdx fun z => some z == (Spec.lineInts v l).max?, noFlags)) v t

/-- Elements moved bit for bit (R305). -/
def Spec.moved (rows cols : Nat) (g : Nat → Nat → Nat) : Spec.Grid :=
  { rows, cols, draws := false, value := fun r c _ => (g r c, noFlags) }

/-- A comparison of two elements (R304): conditions 0 eq, 1 ne, 2 lt, 3 le, 4 un. -/
def Spec.compared (cc : BitVec 3) (v : VIn) (t : Tbl Byte) : Spec.Grid :=
  let ty := v.f.t.toNat
  let w := elemBits ty
  let ones (h : Bool) : Nat := if h then 2 ^ elemBits (viewType (v.view v.f.vd)) - 1 else 0
  Spec.elements v t false fun a b _ _ =>
    if typeIsFloat ty then
      let h := cmpNum ([0, 4, 1, 2, 3].getD cc.toNat 3) (fpValue (fmtOfType ty) v.ftz a) (fpValue (fmtOfType ty) v.ftz b)
      (ones h.1, h.2)
    else
      let x := BitVec.ofNat w a
      let y := BitVec.ofNat w b
      let less (x y : BitVec w) : Bool := if typeSigned ty then x.slt y else x.ult y
      (ones (match cc.toNat with
        | 0 => x == y
        | 1 => x != y
        | 2 => less x y
        | _ => !less y x), noFlags)

/-- The rows that compute a grid into vd, with what they compute. -/
def Spec.vectorGrid : Instr → Option (VIn → Tbl Byte → Spec.Grid)
  | .vadd _ => some (Spec.ints fun _ _ x y => x + y)
  | .vsub _ => some (Spec.ints fun _ _ x y => x - y)
  | .vmul _ => some (Spec.ints fun _ _ x y => x * y)
  | .vmulh _ => some (Spec.ints fun sgn => Spec.high fun w x => if sgn then x.signExtend (2 * w) else x.setWidth (2 * w))
  | .vmin _ => some (Spec.ints fun sgn _ x y => if (if sgn then y.slt x else y.ult x) then y else x)
  | .vmax _ => some (Spec.ints fun sgn _ x y => if (if sgn then x.slt y else x.ult y) then y else x)
  | .vabs _ => some (Spec.ints fun sgn _ x _ => if sgn && x.msb then -x else x)
  | .vneg _ => some (Spec.ints fun _ _ x _ => -x)
  | .vadds _ => some (Spec.clamped fun x y => x + y)
  | .vsubs _ => some (Spec.clamped fun x y => x - y)
  | .vavg _ => some (Spec.ints fun sgn w x y =>
      let wide (x : BitVec w) : BitVec (w + 2) := if sgn then x.signExtend (w + 2) else x.setWidth (w + 2)
      ((wide x + wide y + 1).sshiftRight 1).setWidth w)
  | .vand _ => some (Spec.ints fun _ _ x y => x &&& y)
  | .vor _ => some (Spec.ints fun _ _ x y => x ||| y)
  | .vxor _ => some (Spec.ints fun _ _ x y => x ^^^ y)
  | .vandn _ => some (Spec.ints fun _ _ x y => x &&& ~~~y)
  | .vshl _ => some (Spec.ints fun _ w x y => Spec.shl w x y 0 y.toNat)
  | .vshr _ => some (Spec.ints fun _ w x y => Spec.shr w x y 0 y.toNat)
  | .vsar _ => some (Spec.ints fun _ w x y => Spec.sar w x y 0 y.toNat)
  | .vfadd rm _ => some (Spec.rounded rm Spec.fmtT fun v x y _ => addNum (v.rm rm) x y)
  | .vfsub rm _ => some (Spec.rounded rm Spec.fmtT fun v x y _ => addNum (v.rm rm) x y.neg)
  | .vfmul rm _ => some (Spec.rounded rm Spec.fmtT fun _ x y _ => mulNum x y)
  | .vffma rm _ => some (Spec.rounded rm Spec.fmtT fun v => fmaNum (v.rm rm))
  | .vfdiv rm _ => some (Spec.rounded rm Spec.fmtT fun _ x y _ => divNum x y)
  | .vfmin _ => some (Spec.picked false)
  | .vfmax _ => some (Spec.picked true)
  | .vexp2 rm _ => some (Spec.rounded rm Spec.fmtVd fun v x y _ => exp2Num x y (fpValue .fp32 v.ftz (bits v.vksc 0 32)))
  | .vlog2 rm _ => some (Spec.rounded rm Spec.fmtVd fun _ x _ _ => log2Num x)
  | .vrcp rm _ => some (Spec.rounded rm Spec.fmtVd fun _ x _ _ => divNum (.fin false 1 0) x)
  | .vrsqrt rm _ => some (Spec.rounded rm Spec.fmtVd fun _ x _ _ => rsqrtNum x)
  | .vrsum rm _ => some (Spec.sums true rm)
  | .vcsum rm _ => some (Spec.sums false rm)
  | .vrmax _ => some (Spec.extremes true true)
  | .vrmin _ => some (Spec.extremes true false)
  | .vcmax _ => some (Spec.extremes false true)
  | .vargmax _ => some Spec.argmax
  | .vcvt sat rm _ => some fun v t => Spec.elements v t (v.rm rm == .sr) fun a _ _ d =>
      convert (vtypeOf (viewType (v.view v.f.va))) (vtypeOf v.f.t.toNat) v.ftz (sat || v.satf) (v.rm rm) d a
  | .vdqmx sat rm _ => some fun v t =>
      let el : MatElem := if viewType (v.view v.f.va) = 0 then .mxInt8 else .flt (fmtOfType (viewType (v.view v.f.va)))
      { rows := v.rows, cols := v.cols, draws := v.rm rm == .sr,
        value := fun r c d => fpPut (Spec.fmtT v) v.ftz (v.rm rm) (sat || v.satf) d
          (mxValue (v.get t v.f.vb r (c / 32)) (el.value (v.get t v.f.va r c))).exact }
  | .vcmp cc _ => some (Spec.compared cc)
  | .vsel _ => some fun v t => Spec.elements v t false fun a b z _ =>
      (if 2 ^ (elemBits v.f.t.toNat - 1) ≤ z then a else b, noFlags)
  | .vmov _ => some fun v t => Spec.moved v.rows v.cols (v.get t v.f.va)
  | .vbcastRow _ => some fun v t => Spec.moved v.rows v.cols fun r _ => v.get t v.f.va r 0
  | .vbcastCol _ => some fun v t => Spec.moved v.rows v.cols fun _ c => v.get t v.f.va 0 c
  | .vbcastOne _ => some fun v t => Spec.moved v.rows v.cols fun _ _ => v.get t v.f.va 0 0
  | .vtrans _ => some fun v t => Spec.moved v.cols v.rows fun r c => v.get t v.f.va c r
  | .vslide _ => some fun v t => Spec.moved v.rows v.cols fun r c =>
      let k : Int := c + (BitVec.ofNat 32 (v.get t v.f.vb r 0)).toInt
      if 0 ≤ k ∧ k < v.cols then v.get t v.f.va r k.toNat else 0
  | .vperm _ => some fun v t => Spec.moved v.rows v.cols fun r c =>
      if v.get t v.f.vb r c < v.cols then v.get t v.f.va r (v.get t v.f.vb r c) else 0
  | .vacc sat rm _ | .vaccZ sat rm _ => some fun v t =>
      { rows := v.rows, cols := v.cols, draws := v.rm rm == .sr,
        value := fun r c d =>
          convert (.flt .fp32) (vtypeOf v.f.t.toNat) v.ftz (sat || v.satf) (v.rm rm) d (v.slabGet t r c) }
  | _ => none

/-- The rows that compute a grid into the slab of the repetition (R308). -/
def Spec.slabGrid : Instr → Option (VIn → Tbl Byte → Spec.Grid)
  | .vaccw _ => some fun v t =>
      { rows := v.rows, cols := v.cols, draws := false,
        value := fun r c _ => convToFloat .fp32 v.ftz .rne false 0 (fpValue (Spec.fmtT v) v.ftz (v.get t v.f.vd r c)) }
  | .vaccwAdd rm _ => some fun v t =>
      { rows := v.rows, cols := v.cols, draws := v.rm rm == .sr,
        value := fun r c d =>
          let e := addNum (v.rm rm) (fpValue .fp32 v.ftz (v.slabGet t r c)) (fpValue (Spec.fmtT v) v.ftz (v.get t v.f.vd r c))
          let z := fpPut .fp32 v.ftz (v.rm rm) false d e.1
          (z.1, e.2 ||| z.2) }
  | _ => none

/-- Element (r, c) of a slab written, and the slab's active elements set to 0. -/
def Spec.slabPut (v : VIn) (t : Tbl Byte) (r c x : Nat) : Tbl Byte := poolWrite t (slabAddr v.partw v.slab r c) 4 x
def Spec.slabCleared (v : VIn) (t : Tbl Byte) : Tbl Byte :=
  (gridCells v.rows v.cols).foldl (fun t c => Spec.slabPut v t c.1 c.2 0) t

/-- Rows appended to a queue of a context, and its first n rows taken. -/
def Ctx.appended (x : Ctx) (c : Nat) (l : List (List Byte)) : Ctx :=
  x.setQueue c { x.queue c with rows := (x.queue c).rows ++ l.map fun b => { bytes := b, arrived := true } }
def Ctx.taken (x : Ctx) (c n : Nat) : Ctx :=
  x.setQueue c { head := ((x.queue c).head + n) % queueDepth c, rows := (x.queue c).rows.drop n }

/-- Elements of w bits side by side in the bytes of a row (R306). -/
def Spec.packed (w : Nat) (l : List Nat) : List Byte :=
  leBytes ((l.length * w + 7) / 8) (l.foldr (fun e n => e + n * 2 ^ w) 0)

/-- The words pending after the oldest one has executed a repetition. -/
def Spec.executed (p : VePend) (rest : List VePend) : List VePend :=
  if p.next + 1 = p.upto ∧ p.more = false then rest else { p with next := p.next + 1 } :: rest

/-! ## Atomics and exact cells (R340 to R344) -/

/-- The value an atomic writes over x of w bits, given y and z; none where it writes nothing. -/
def Spec.atomics : List ((BitVec 2 → FmtS → Instr) × ((w : Nat) → BitVec w → BitVec w → BitVec w → Option (BitVec w))) :=
  [(.aadd, fun _ x y _ => some (x + y)), (.aand, fun _ x y _ => some (x &&& y)), (.aor, fun _ x y _ => some (x ||| y)),
    (.axor, fun _ x y _ => some (x ^^^ y)), (.amin, fun _ x y _ => some (if y.slt x then y else x)),
    (.amax, fun _ x y _ => some (if x.slt y then y else x)), (.aminn, fun _ x y _ => some (if y.ult x then y else x)),
    (.amaxn, fun _ x y _ => some (if x.ult y then y else x)), (.aswap, fun _ _ y _ => some y),
    (.acas, fun _ x y z => if x = z then some y else none)]

/-- A page that an atomic may act on: it has AT. -/
def Spec.AtomicPage (s : State) (u : TlbUnit) (w stor : Nat) (ea : W64) (n : Nat) (e : TlbEntry) : Prop :=
  Spec.PlainPage s u w stor ea n e ∧ leafAT e.leaf = true

/-- The image of a live barrier word (R345): V, LEVEL, COUNT, ARRIVED and PHASE. -/
def Spec.barrierWord (level : BitVec 3) (count arrived phase : BitVec 16) : W64 :=
  (1 : BitVec 1) ++ level ++ (0 : BitVec 12) ++ count ++ arrived ++ phase

/-- The word a barrier stands in shows its image. -/
def Barrier.shown (b : Barrier) : W64 :=
  Spec.barrierWord (BitVec.ofNat 3 b.level) (BitVec.ofNat 16 b.count) (BitVec.ofNat 16 b.arrived) b.phase

/-! ## Packets (R45, R46) -/

/-- A packet acts in its packet delivery context, which opens with its first packet and ends with its last one. -/
def Spec.inPdc (h : Transport) (s : State) (act : State → State) : State :=
  let t := act (if (s.pdcs.get none h.pdc).isNone then { s with pdcs := s.pdcs.set none h.pdc (some 0) } else s)
  if h.closes then { t with pdcs := t.pdcs.set none h.pdc none } else t

/-- The module has the context, or one more may open. -/
def Spec.pdcRoom (h : Transport) (s : State) : Prop := (s.pdcs.get none h.pdc).isSome = true ∨ s.pdcs.length < 65536

/-! ## Admission (R25, R31) -/

/-- A valid placement (R25): at most 24, 32 and 128 units in its three regions, each within the pool, no unit in two of them. -/
def Spec.PlacementOk (p : W64) : Prop :=
  let runs := [(bits p 0 7, bits p 7 5), (bits p 12 7, bits p 19 6), (bits p 25 7, bits p 32 8)]
  let holds (i u : Nat) : Prop := ∃ r, runs[i]? = some r ∧ r.1 ≤ u ∧ u < r.1 + r.2
  bits p 7 5 ≤ 24 ∧ bits p 19 6 ≤ 32 ∧ bits p 32 8 ≤ 128 ∧ (∀ r ∈ runs, r.1 + r.2 ≤ 128) ∧
    ∀ i j u, i < j → holds i u → ¬holds j u

/-- The cases of R31 in their order, for the words of a record and of its extension record: what refuses it, with which cause, and
whether the report goes to the record's own world. -/
def Spec.refusals (s : State) (q : Submission) (words ext : List W64) : List (Prop × Nat × Bool) :=
  let h := wd words 0
  let world := bits h 2 6
  let control := bits h 0 2 = 1
  let affk := bits h 10 2
  let affn := bits h 12 7
  let strict := h.getLsbD 27 = true
  let link := wd ext 0
  let slots := recSlots words ext
  let handle (v : W64) : W64 := v.extractLsb' 0 57 ++ (0 : BitVec 7)
  [(q.recva % 64 ≠ 0 ∨ s.isAdmitted q.readWorld q.recva = true, 0x37, false),
   (2 ≤ bits h 0 2 ∨ affk = 3 ∨ 25 ≤ bits h 19 5 ∨ bits h 28 12 ≠ 0 ∨ bits (wd words 3) 40 24 ≠ 0 ∨
      (∃ v ∈ slots, bits v 62 2 = 3 ∨ Spec.waitSlot v ≠ v) ∨ (bits h 24 2 ≠ 0 ∧ (bits link 56 8 ≠ 0 ∨ bits link 0 6 ≠ 0)), 0x37, false),
   ((∃ w, q.expect = some w ∧ world ≠ w), 0x37, false),
   ((s.world world).part = none, 0x37, true),
   (10922 < bits (wd words 1) 36 14 ∨ 10922 < bits (wd words 1) 50 14 ∨ (control ∧ bits (wd words 1) 36 14 ≠ 0) ∨
      bits (wd words 2) 56 8 ≠ 0 ∨ bits (wd words 2) 0 3 ≠ 0, 0x37, true),
   (if control then wd words 3 ≠ 0 else ¬Spec.PlacementOk (wd words 3), 0x37, true),
   ((affk = 1 ∧ (if control then 12 ≤ affn else strict ∧ s.holdsCore world affn = false)) ∨
      (affk = 2 ∧ (32 ≤ affn ∨ control ∨ (strict ∧ ∀ j, j < 4 → s.holdsCore world (4 * affn + j) = false))) ∨
      (affk = 0 ∧ strict), 0x37, true),
   ((h.getLsbD 25 = true ∧ control) ∨ (bits h 24 2 ≠ 0 ∧ (h.getLsbD 25 = true ↔ bits link 6 50 = 0)), 0x37, true),
   ((∃ v ∈ slots, bits v 62 2 = 1 ∧ s.ownsCounter world (bits v 40 18) = false) ∨
      (∃ v ∈ slots, bits v 62 2 = 2 ∧ (handleHere (handle v) world = false ∨
        (handleFallback (handle v) = true ∧ s.ownsCounter world (handleFctr (handle v)) = false))), 0x37, true),
   ((∃ v ∈ slots, bits v 62 2 = 2 ∧ handleFallback (handle v) = false ∧ s.liveTag (handle v) world = none), 0x30, true)]

/-! ## Frames (R98, R99) -/

/-- In a frame table of n entries that begins at an epoch, entry i holds an instant, and it ends at `end_` (R99). -/
def Spec.frameAt (ft : Tbl W64) (n epoch t i end_ : Nat) : Prop :=
  let len (j : Nat) : Nat := bits (ft.get 0 j) 0 17 * 10000
  let start (j : Nat) : Nat := ((List.range j).map len).sum
  let off := (t - epoch) % start n
  epoch ≤ t ∧ start n ≠ 0 ∧ i < n ∧ start i ≤ off ∧ off < start i + len i ∧ end_ = t - off + start i + len i

/-- A frame table, its control word and epoch after an edge at which entry i begins: pending writes of the control word and the epoch
are taken, and those of entry i and of the entries that n does not use (R98). -/
def Spec.tableAfter (k k' : Core) (n i : Nat) : Prop :=
  k'.ftctl = (k.ftNew.get none 16).getD k.ftctl ∧ k'.ftepoch = (k.ftNew.get none 17).getD k.ftepoch ∧
    ∀ m, m < 16 → (k'.ft.get 0 m, k'.ftNew.get none m) =
      if m = i ∨ n ≤ m then ((k.ftNew.get none m).getD (k.ft.get 0 m), none) else (k.ft.get 0 m, k.ftNew.get none m)

/-- A core that a sealed edge has cleared: its work starts 5 µs after the edge (R100, R101). -/
def Spec.cleared (k : Core) (t : Nat) : Core :=
  { k with bank0 := none, bank1 := none, copies := [], act := .empty, shad := .empty, deadlock := 0, claimed := [],
           startAt := some (t + 5000), sealTill := t + 5000 }

/-- The translations of a core's streams and stream dies are gone. -/
def Spec.noTlb (s : State) (c : Nat) : Prop :=
  ∀ e ∈ s.tlb, e.unit ≠ .scalar (.a c) ∧ e.unit ≠ .scalar (.e c) ∧ ∀ j, e.unit ≠ .stream c j

/-- A READY record of w that core c may be given and that comes before every other record of w, whose argument block is absent. -/
def Spec.firstOf (s : State) (c w : Nat) (r : PoolRec) : Prop :=
  r ∈ s.pool ∧ r.world = w ∧ hdrKind (wd r.words 0) = 0 ∧ r.ready.isSome = true ∧ r.strictOk (.core c) = true ∧
    s.isStandby r = false ∧ s.holdsCore w c = true ∧ s.failed w = false ∧ wd r.words 2 = 0 ∧
    ∀ q ∈ s.pool, q ≠ r → q.world = w → lexLt (s.rank (.core c) r) (s.rank (.core c) q) = true

/-! ## Supervisor operations (R362 to R366) -/

/-- A supervisor operation on the request block that register a names: its page is one the Poleth die holds for world 0, no write
is held for a duplicated page, and the block holds eight words. -/
structure Spec.Request (s : State) (k : Nat) (x : Ctx) (f : FmtP) (e : TlbEntry) (l : List W64) : Prop where
  thread : s.At (.np k) x
  world : x.world = 0
  page : Spec.PlainPage s .poleth 0 1 (x.e.reg f.a.toNat) 64 e
  block : l = wordsOf 8 (s.loadBytes 0 (x.e.reg f.a.toNat).toNat (e.paOf (x.e.reg f.a.toNat).toNat) 64)

/-- An operation on a request block ends in a state t with a status in d, which held OK while it acted. -/
def State.answers (t : State) (k : Nat) (x : Ctx) (f : FmtP) (status : Nat) : Host.Outcome State Fault Refusal :=
  .next (t.putStream (.np k) x ((x.e.advance.setReg f.d.toNat 0).setReg f.d.toNat (w64 status)))

/-- A result in word i of the request block. -/
def State.withResult (s : State) (x : Ctx) (f : FmtP) (e : TlbEntry) (i : Nat) (v : W64) : State :=
  let va := (x.e.reg f.a.toNat).toNat
  s.storeBytes 0 (va + 8 * i) (e.paOf va + 8 * i) (leBytes 8 v.toNat)

/-- A core runs no task of a world and keeps none. -/
def Core.without (k : Core) (w : Nat) : Prop :=
  (∀ x, k.bank0 = some x → x.world ≠ w) ∧ ∀ x, k.bank1 = some x → x.world ≠ w

end Sys2Proof.Machine
end

