-- ==== Sys2Proof/Certificates/Slice0/Obligations.lean ====
section
/-! DEFINITION. The statements about the machine that are to be proved, family by family. -/

open Sys2Proof Sys2Proof.Machine

/-! ## Words -/

/-- Words written out bit by bit from the encodings of the spec decode to the instructions they stand for (R192, R197 and the
group tables): a row of each of the ten formats, L, S, I, B, P, Q, C, A, V and M, and a second of format P. -/
def Obligations.SampleWordsDecode : Prop :=
  decode 0x0C2834500000 = .ok (.ldi { d := 10, imm := 0x34500000 }) ∧
  decode 0x0400D30B0041 = .ok (.add { d := 13, a := 12, b := 11, c := 0, pg := 0, sz := 2, mod := 1 }) ∧
  decode 0x1D0B007FFFFD = .ok (.loop { d := 11, a := 0, pg := 0, imm := 0x7FFFFD }) ∧
  decode 0x190A_2FFF_FFFE = .ok (.br { cnd := 4, a := 10, b := 11, off := 0x3FFFFFE }) ∧
  decode 0x6405_5758_0000 = .ok (.cwaita { d := 21, a := 23, b := 22, imm := 0 }) ∧
  decode 0x501C_8400_0005 = .ok (.probe { d := 7, a := 8, tt := 2, off := 5 }) ∧
  decode 0x60505008_0207 = .ok (.copy { desc := 20, tag := 5, uw := 0x80, sc := 2, buf := 7 }) ∧
  decode 0x40F2_1000_800F = .ok (.vld 1 7 { q := 2, b := 4, step := 8, rep := 15 }) ∧
  decode 0x80CA_2B10_0000 =
    .ok (.vmaxd 1 { vd := 4, va := 5, vb := 6, t := 2, stp := 0, pm := 0, rep := 0 }) ∧
  decode 0xC08800240200 =
    .ok (.mmul { ra := 1, rb := 0, acc := 0, fmta := 0, fmtb := 9, ws := 0, ss := 2, ks := 0 }) ∧
  decode 0xF0020000_0001 = .ok (.evwait { d := 8, a := 0, b := 0, imm := 1 })

/-- An instruction whose word names its operation in register memory alone: the seven RELCTX rows past DISCARD (R389). -/
def Spec.relctxRow : Instr → Bool
  | .resume _ | .save _ | .load _ | .stopw _ | .startw _ | .dhalt _ | .dresume _ => true
  | _ => false

/-- DECODE AND ENCODE AGREE: the word of every well-formed instruction decodes to that instruction, every operand at every
value the encoding admits; RELCTX words, which name their action in memory, decode to their common row.
Model's choices it rests on: log 16. -/
def Obligations.DecodeOfEncode : Prop :=
  ∀ (i : Instr) (w : Insn), encode i = some w → i.wf = true →
    if Spec.relctxRow i then ∃ f, decode w = .ok (.discard f) else decode w = .ok i

/-- No word has two readings and no bit of a word is dropped: a word that decodes is the word of what it decodes to.
Model's choices it rests on: log 16. -/
def Obligations.EncodeOfDecode : Prop :=
  ∀ (w : Insn) (i : Instr), decode w = .ok i → encode i = some w ∧ i.wf = true

/-! ## Integer arithmetic (R231 to R236) -/

/-- The arithmetic and logic rows write d with their result at the operand width, extended under X, and do nothing else. -/
def Spec.integerArithmetic : Prop :=
  ∀ (s : State) (ag : Agent) (x : Ctx) (f : FmtS), s.At ag x → (x.stream ag).pred f.pg.toNat = true →
    ∀ r ∈ Spec.arithRows, exec (r.1 f) s =
      .next (s.putStream ag x ((x.stream ag).advance.setReg f.d.toNat (Spec.aluValue r.2 (x.stream ag) f)))

/-- So do the shifts, rotates, comparisons and bit counts, whatever the shift amount. -/
def Spec.integerShiftsAndCompares : Prop :=
  ∀ (s : State) (ag : Agent) (x : Ctx) (f : FmtS), s.At ag x → (x.stream ag).pred f.pg.toNat = true →
    ∀ r ∈ Spec.shiftRows, exec (r.1 f) s =
      .next (s.putStream ag x ((x.stream ag).advance.setReg f.d.toNat (Spec.aluValue r.2 (x.stream ag) f)))

/-- The integer rows of format S, each with its result at the operand width. -/
def Obligations.IntegerWords : Prop := Spec.integerArithmetic ∧ Spec.integerShiftsAndCompares

/-- SEL picks x when the predicate it names is 1, else y. BEXT packs the bits of x at the 1s of y from bit 0 upward, and BDEP
places them there: bit k of x goes to or comes from the number of 1s of y below k. -/
def Obligations.IntegerSelectAndDeposit : Prop :=
  ∀ (s : State) (ag : Agent) (x : Ctx) (f : FmtS), s.At ag x → (x.stream ag).pred f.pg.toNat = true →
    let st := x.stream ag
    let w := widthOf f.sz
    let a := Spec.low w (st.reg f.a.toNat)
    let b := Spec.low w (st.reg f.b.toNat)
    let out (v : BitVec w) : Host.Outcome State Fault Refusal :=
      .next (s.putStream ag x (st.advance.setReg f.d.toNat (Spec.extend (f.mod.getLsbD 0) v)))
    exec (.sel f) s = out (if st.pred (f.c.extractLsb' 0 3).toNat then a else b) ∧
    (∃ v, exec (.bext f) s = out v ∧ (∀ k, k < w → b.getLsbD k = true → v.getLsbD (Spec.rank b k) = a.getLsbD k) ∧
      ∀ j, Spec.rank b w ≤ j → v.getLsbD j = false) ∧
    ∃ v, exec (.bdep f) s = out v ∧ ∀ k, k < w → v.getLsbD k = (b.getLsbD k && a.getLsbD (Spec.rank b k))

/-- Division writes the quotient or remainder, and a zero divisor sets IDZ, FPSTAT bit 6; there is no fault. -/
def Obligations.IntegerDivision : Prop :=
  ∀ (s : State) (ag : Agent) (x : Ctx) (f : FmtS), s.At ag x → (x.stream ag).pred f.pg.toNat = true →
    ∀ r ∈ Spec.divRows,
      let st := x.stream ag
      let w := widthOf f.sz
      let a := Spec.low w (st.reg f.a.toNat)
      let b := Spec.low w (st.reg f.b.toNat)
      exec (r.1 f) s = .next (s.putStream ag x
        ({ st.advance with fpstat := if b = 0 then st.fpstat ||| 0x40 else st.fpstat }.setReg f.d.toNat
          (Spec.extend (f.mod.getLsbD 0) (r.2 w a b))))

/-- The immediate rows compute at 64 bits what their register form computes, with the sign-extended immediate as y and as the
shift amount; each value of FN is one of them. -/
def Obligations.IntegerImmediates : Prop :=
  (∀ (w : Insn) (r : (FmtI → Instr) × Spec.AluFn), opOf w = 0x02 →
    Spec.immRows[(w.extractLsb' 38 4).toNat]? = some r → decode w = .ok (r.1 (unpackI w))) ∧
  ∀ (s : State) (ag : Agent) (x : Ctx) (f : FmtI), s.At ag x → (x.stream ag).pred f.pg.toNat = true →
    ∀ r ∈ Spec.immRows, exec (r.1 f) s =
      .next (s.putStream ag x ((x.stream ag).advance.setReg f.d.toNat (Spec.immValue r.2 (x.stream ag) f)))

/-- LDI writes the sign-extended immediate, LDHI writes the high half and keeps the low one, in any stream and unguarded; FN 2
and FN 3 of the major, and an LDHI with a reserved bit set, take ILLEGAL_INSTR with the word's PC in C.
Model's choices it rests on: log 30. -/
def Obligations.LoadImmediate : Prop :=
  (∀ (s : State) (ag : Agent) (x : Ctx) (f : FmtL), s.At ag x →
    exec (.ldi f) s = .next (s.putStream ag x ((x.stream ag).advance.setReg f.d.toNat (f.imm.signExtend 64))) ∧
    exec (.ldhi f) s = .next (s.putStream ag x ((x.stream ag).advance.setReg f.d.toNat
      (f.imm.extractLsb' 0 32 ++ ((x.stream ag).reg f.d.toNat).extractLsb' 0 32)))) ∧
  ∀ (s : State) (ag : Agent) (x : Ctx) (w : Insn), s.At ag x → opOf w = 0x03 →
    2 ≤ (w.extractLsb' 40 2).toNat ∨ w.extractLsb' 40 2 = 1 ∧ w.extractLsb' 32 2 ≠ 0 →
    execInsn w s = .next (s.stopped ag x 0x01 0)

/-! ## Floating point (R206 to R222, R237 to R240) -/

/-- A value that a format holds is rounded to itself without a flag, in every mode and with every draw. -/
def Obligations.RoundingKeepsRepresentable : Prop :=
  ∀ (f : Fmt) (rm : Rm) (sat : Bool) (dr : BitVec 32) (v : Nat), v < 2 ^ f.width → (fpDecode f v).isNan = false →
    fpPut f false rm sat dr (fpDecode f v).exact = (v, noFlags)

/-- The rounding rows round the exact result of their operands once, write it zero-extended and OR its flags into FPSTAT. -/
def Spec.floatArithmetic : Prop :=
  ∀ (s : State) (ag : Agent) (x : Ctx) (f : FmtS), s.At ag x → (x.stream ag).pred f.pg.toNat = true →
    let st := x.stream ag
    let fm := fmtOf f.sz
    let rm := rmOf (f.mod.extractLsb' 0 3) st.fpctl
    Spec.mayRound ag x rm → ∀ r ∈ Spec.fpRows,
      let v := r.2 rm (st.fpOperand fm f.a) (st.fpOperand fm f.b) (st.fpOperand fm f.c)
      let (st', dr) := Spec.drawn st.advance rm
      let (z, fl) := fpPut fm (fpctlFtz st.fpctl) rm false dr v.1
      exec (r.1 f) s = .next (s.putStream ag x ((st'.flagged (v.2 ||| fl)).setReg f.d.toNat (w64 z)))

/-- A quiet NaN operand gives the canonical NaN with no flag, and a finite nonzero dividend over a zero gives the signed
infinity and sets DZ. -/
def Spec.floatSpecialOperands : Prop :=
  ∀ (s : State) (ag : Agent) (x : Ctx) (f : FmtS), s.At ag x → (x.stream ag).pred f.pg.toNat = true →
    let st := x.stream ag
    let fm := fmtOf f.sz
    let a := st.fpOperand fm f.a
    let b := st.fpOperand fm f.b
    rmOf (f.mod.extractLsb' 0 3) st.fpctl ≠ .sr →
    (∀ i ∈ [Instr.fadd f, .fsub f, .fmul f, .fdiv f], a = .nan false ∧ b.sNan = false ∨ b = .nan false ∧ a.sNan = false →
      exec i s = .next (s.putStream ag x (st.advance.setReg f.d.toNat (w64 (fpNan fm))))) ∧
    ∀ n m e n' e', a = .fin n m e → m ≠ 0 → b = .fin n' 0 e' →
      exec (.fdiv f) s = .next (s.putStream ag x
        ({ st.advance with fpstat := st.fpstat ||| 2 }.setReg f.d.toNat (w64 (fpSigned fm (n != n') (fpInfMag fm)))))

/-- A number with r of w parts of a unit above the integer below it is rounded up, in each mode. -/
def Spec.roundsUp (rm : Rm) (neg odd : Bool) (d : BitVec 32) (r w : Nat) : Bool :=
  match rm with
  | .rne => decide (w < 2 * r) || (2 * r == w && odd)
  | .rtz => false
  | .rdn => neg
  | .rup => !neg
  | .sr => decide (d.toNat < r * 2 ^ 32 / w)

/-- A number strictly between two neighbours of a format becomes the one its mode says, with NX and, below the smallest normal, UF;
one whose exponent the format does not reach overflows; and a number with a fraction becomes the integer its mode says, with NX. -/
def Spec.roundingDirection : Prop :=
  (∀ (f : Fmt) (rm : Rm) (sat neg : Bool) (d : BitVec 32) (m : Nat) (e : Int),
    (∀ (v ml mh : Nat) (el eh e0 : Int), v + 1 ≤ fpMaxMag f → fpDecode f v = .fin false ml el →
      fpDecode f (v + 1) = .fin false mh eh → e0 ≤ el → e0 ≤ eh → e0 ≤ e →
      let a := scaleNat ml (el - e0)
      let b := scaleNat m (e - e0)
      let c := scaleNat mh (eh - e0)
      a < b → b < c →
      fpPut f false rm sat d (.ofDyadic neg m e) =
        (fpSigned f neg (if Spec.roundsUp rm neg (v % 2 == 1) d (b - a) (c - a) then v + 1 else v),
          if v < 2 ^ f.mbits then flagNX ||| flagUF else flagNX)) ∧
    (m ≠ 0 → f.emax < m.log2 + e →
      fpPut f false rm sat d (.ofDyadic neg m e) = (overflowResult f neg rm sat, flagOF ||| flagNX))) ∧
  ∀ (rm : Rm) (neg : Bool) (d : BitVec 32) (m k : Nat), m % 2 ^ k ≠ 0 →
    let q := m / 2 ^ k
    let z := if Spec.roundsUp rm neg (q % 2 == 1) d (m % 2 ^ k) (2 ^ k) then q + 1 else q
    intRound rm d (.ofDyadic neg m (-(k : Int))) = (if neg then -(z : Int) else z, flagNX)

/-- The rounding floating-point rows, what special operands give, and the direction in which a number is rounded.
Model's choices it rests on: log 15. -/
def Obligations.FloatRounding : Prop := Spec.floatArithmetic ∧ Spec.floatSpecialOperands ∧ Spec.roundingDirection

/-- FMIN and FMAX write the lesser or greater operand unrounded, FCVT converts, FCMP writes a predicate and FCLASS the mask of
the bits as they stand; each ORs its flags into FPSTAT and writes nothing else.
Model's choices it rests on: log 15. -/
def Obligations.FloatSelectConvertCompare : Prop :=
  ∀ (s : State) (ag : Agent) (x : Ctx) (f : FmtS), s.At ag x → (x.stream ag).pred f.pg.toNat = true →
    let st := x.stream ag
    let fm := fmtOf f.sz
    let a := st.fpOperand fm f.a
    let b := st.fpOperand fm f.b
    let pick (wantMax : Bool) : Stream :=
      (st.advance.flagged (minMaxNum wantMax a b).2).setReg f.d.toNat
        (w64 (fpPut fm false .rne false 0 (minMaxNum wantMax a b).1).1)
    exec (.fmin f) s = .next (s.putStream ag x (pick false)) ∧
    exec (.fmax f) s = .next (s.putStream ag x (pick true)) ∧
    exec (.fcmp f) s = .next (s.putStream ag x
      ((st.advance.flagged (cmpNum f.c.toNat a b).2).setPred (f.d.extractLsb' 0 3).toNat (cmpNum f.c.toNat a b).1)) ∧
    exec (.fclass f) s = .next (s.putStream ag x
      (st.advance.setReg f.d.toNat (w64 (classMask fm (st.reg f.a.toNat).toNat)))) ∧
    (Spec.mayRound ag x (rmOf (f.mod.extractLsb' 0 3) st.fpctl) →
      let rm := rmOf (f.mod.extractLsb' 0 3) st.fpctl
      let (st', dr) := Spec.drawn st.advance rm
      let v := (cvtType (f.c.extractLsb' 3 3)).read (fpctlFtz st.fpctl) (st.reg f.a.toNat)
      let (r, fl) := (cvtType (f.c.extractLsb' 0 3)).write (fpctlFtz st.fpctl) (f.mod.getLsbD 3 || fpctlSatf st.fpctl) rm dr v
      exec (.fcvt f) s = .next (s.putStream ag x ((st'.flagged fl).setReg f.d.toNat r)))

/-! ## Predicates and control flow (R241 to R245) -/

/-- PSET writes the condition of its code on two operands at the width, and the predicate operations their truth functions; p0
discards the write. FN gives the row, and a word of another FN, of a PSET code above 7 or with a reserved field set is
ILLEGAL_INSTR.
Model's choices it rests on: log 30. -/
def Obligations.Predicates : Prop :=
  (∀ (s : State) (ag : Agent) (x : Ctx) (w : Insn), s.At ag x → opOf w = 0x05 →
    match Spec.predicateWords[(w.extractLsb' 34 8).toNat]? with
    | some r => if r.2 (unpackS w) then decode w = .ok (r.1 (unpackS w)) else execInsn w s = .next (s.stopped ag x 0x01 0)
    | none => execInsn w s = .next (s.stopped ag x 0x01 0)) ∧
  ∀ (s : State) (ag : Agent) (x : Ctx) (f : FmtS), s.At ag x → (x.stream ag).pred f.pg.toNat = true →
    let st := x.stream ag
    let w := widthOf f.sz
    (∀ c ∈ Spec.conditions, f.c.toNat = c.1 →
      exec (.pset f) s = .next (s.putStream ag x (st.advance.setPred (f.d.extractLsb' 0 3).toNat
        (c.2 w (Spec.low w (st.reg f.a.toNat)) (Spec.low w (st.reg f.b.toNat)))))) ∧
    ∀ r ∈ Spec.predRows,
      exec (r.1 f) s = .next (s.putStream ag x (st.advance.setPred (f.d.extractLsb' 0 3).toNat
        (r.2 (st.pred (f.a.extractLsb' 0 3).toNat) (st.pred (f.b.extractLsb' 0 3).toNat))))

/-- BR goes to PC + OFF when its condition holds and to PC + 1 otherwise, wherever that lies: no fault is taken here. -/
def Obligations.BranchTarget : Prop :=
  ∀ (s : State) (ag : Agent) (x : Ctx) (f : FmtB), s.At ag x →
    let st := x.stream ag
    let go (taken : Bool) : Host.Outcome State Fault Refusal :=
      .next (s.putStream ag x { st.advance with pc := if taken then st.pc + f.off.toInt else st.pc + 1 })
    (∀ c ∈ Spec.conditions, f.cnd.toNat = c.1 → exec (.br f) s = go (c.2 64 (st.reg f.a.toNat) (st.reg f.b.toNat))) ∧
    (f.cnd = 8 → exec (.br f) s = go (st.pred (f.a.extractLsb' 0 3).toNat)) ∧
    (f.cnd = 9 → exec (.br f) s = go (!st.pred (f.a.extractLsb' 0 3).toNat))

/-- The jumps: JMP, JMPR, CALL with its return point, RET, and LOOP, which counts its register down and branches while it is
not 0. A guard of 0 makes each do nothing; FN gives the row, and a word of another FN, of LOOP on s0 or with a reserved field
set is ILLEGAL_INSTR.
Model's choices it rests on: log 30. -/
def Obligations.JumpTargets : Prop :=
  (∀ (s : State) (ag : Agent) (x : Ctx) (w : Insn), s.At ag x → opOf w = 0x07 →
    match Spec.jumpWords[(w.extractLsb' 38 4).toNat]? with
    | some r => if r.2 (unpackI w) then decode w = .ok (r.1 (unpackI w)) else execInsn w s = .next (s.stopped ag x 0x01 0)
    | none => execInsn w s = .next (s.stopped ag x 0x01 0)) ∧
  (∀ (s : State) (ag : Agent) (x : Ctx) (f : FmtI), s.At ag x → (x.stream ag).pred f.pg.toNat = false →
    ∀ r ∈ Spec.jumpWords, exec (r.1 f) s = .next (s.advanced ag x)) ∧
  ∀ (s : State) (ag : Agent) (x : Ctx) (f : FmtI), s.At ag x → (x.stream ag).pred f.pg.toNat = true →
    let st := x.stream ag
    let at_ (pc : Int) (st : Stream) : Host.Outcome State Fault Refusal := .next (s.putStream ag x { st with pc := pc })
    let t := st.reg f.d.toNat - 1
    exec (.jmp f) s = at_ (st.pc + f.imm.toInt) st.advance ∧
    exec (.jmpr f) s = at_ ((st.reg f.a.toNat).toNat + f.imm.toInt) st.advance ∧
    exec (.call f) s = at_ (st.pc + f.imm.toInt) (st.advance.setReg f.d.toNat (BitVec.ofInt 64 (st.pc + 1))) ∧
    exec (.ret f) s = at_ (st.reg f.a.toNat).toNat st.advance ∧
    exec (.loop f) s = at_ (if t = 0 then st.pc + 1 else st.pc + f.imm.toInt) (st.advance.setReg f.d.toNat t)

/-! ## Scalar memory access (R246 to R248) -/

/-- A load writes d with the bytes it reads, extended as FN[1] says, and a store writes the low bytes of d, little-endian: in the
own window, or in device or host memory through a page that the stream's unit holds, both forms. An address that is not a
multiple of the width takes MISALIGNED with the address in C. -/
def Spec.scalarLoadStore : Prop :=
  ∀ (s : State) (ag : Agent) (x : Ctx) (f : FmtS), s.At ag x → (x.stream ag).pred f.pg.toNat = true →
    let st := x.stream ag
    let n := bytesOf f.sz
    let forms (ea : W64) (load : Bool → Instr) (store : Instr) : Prop :=
      (ea.toNat % n ≠ 0 → ∀ i ∈ [load true, load false, store],
        exec i s = .next (s.raise ag.place ag.code
          { cause := 0x06, c := ea, d := 0, defer := false, log := none } 0)) ∧
      (ea.toNat % n = 0 →
        (∀ l, Spec.reads s ag x (Spec.unitOf ag) (storOf f.mod) ea n l → ∀ sgn,
          exec (load sgn) s = .next (s.putStream ag x (st.advance.setReg f.d.toNat
            (if sgn then (BitVec.ofNat (8 * n) (ofBytes l)).signExtend 64 else BitVec.ofNat 64 (ofBytes l))))) ∧
        ∀ g, Spec.writes s ag x (Spec.unitOf ag) (storOf f.mod) ea (leBytes n (st.reg f.d.toNat).toNat) g →
          exec store s = .next (g (s.putStream ag x st.advance)))
    ∀ acq rel : Bool,
      forms (st.reg f.a.toNat + (f.b ++ f.c).signExtend 64) (fun sgn => .ld sgn acq f) (.st rel f) ∧
      forms (st.reg f.a.toNat + st.reg f.b.toNat * w64 n) (fun sgn => .ldx sgn acq f) (.stx rel f)

/-- Under storage scope 2 an access to another module of a world that has no secure domain leaves as a request with its own number;
the stream's register stays until the response, and no fault is taken here. -/
def Spec.remoteLoadStore : Prop :=
  ∀ (s : State) (ag : Agent) (x : Ctx) (f : FmtS), s.At ag x → (x.stream ag).pred f.pg.toNat = true → storOf f.mod = 2 →
    Spec.noneHeld s ag → s.secureDomain x.world = none →
    let st := x.stream ag
    let n := bytesOf f.sz
    let domw := (s.world x.world).domw
    let sent (ea : W64) (kind : RmaKind) (landing : Landing) (code : Nat) : Host.Outcome State Fault Refusal :=
      .next { s.putStream ag x { st.advance with
                out := st.out ++ [{ id := s.nextId, landing, operand := ea, kind := code,
                                    pc := st.pc, rep := 0 }] } with
              nextId := s.nextId + 1,
              outbox := s.outbox ++ [.remote s.nextId (bits ea 54 10) (bits domw 0 24) (bits ea 0 54) kind] }
    let forms (ea : W64) (load : Bool → Instr) (store : Instr) : Prop :=
      ea.toNat % n = 0 → domw.getLsbD 24 = true → bits ea 54 10 ≠ moduleNo →
        (∀ sgn, exec (load sgn) s = sent ea (.read n) (.reg f.d.toNat n sgn) 1) ∧
        exec store s = sent ea (.write (leBytes n (st.reg f.d.toNat).toNat)) .none 2
    ∀ acq rel : Bool,
      forms (st.reg f.a.toNat + (f.b ++ f.c).signExtend 64) (fun sgn => .ld sgn acq f) (.st rel f) ∧
      forms (st.reg f.a.toNat + st.reg f.b.toNat * w64 n) (fun sgn => .ldx sgn acq f) (.stx rel f)

/-- The scalar loads and stores, on the module and to another one.
Model's choices it rests on: log 6, 11, 12, 52. -/
def Obligations.ScalarAccesses : Prop := Spec.scalarLoadStore ∧ Spec.remoteLoadStore

/-- A byte reads as it was last written in the same view, whatever the state: motion, a dead block or an earlier view.
Model's choices it rests on: log 6. -/
def Obligations.ByteReadsAsWritten : Prop :=
  ∀ (s : State) (pa : Nat) (v : Option EncTag) (b : Byte), (s.writeByte pa v b).readByte pa v = b

/-- THE FRAME OF A STORE: where the store's granule is held in no other view and no block is dead, every byte outside the
stored ones reads as before, in every view outside that granule and in the store's view inside it; no register, flag, context,
queue, counter or other state changes but the PC of the stream.
Model's choices it rests on: log 6, 52. -/
def Obligations.StoreFrame : Prop :=
  ∀ (s t : State) (ag : Agent) (x : Ctx) (f : FmtS) (e : TlbEntry) (rel : Bool), s.At ag x →
    (x.stream ag).pred f.pg.toNat = true →
    let st := x.stream ag
    let n := bytesOf f.sz
    let frame (ea : W64) (i : Instr) : Prop :=
      ea.toNat % n = 0 → Spec.PlainPage s (Spec.unitOf ag) x.world (storOf f.mod) ea n e → s.dead = [] →
      let pa := e.paOf ea.toNat
      let view := s.viewOf x.world ea.toNat pa
      (s.enc.get none (pa / 64) = none ∨ s.enc.get none (pa / 64) = view) →
      exec i s = .next t →
      (∀ a v, a < pa ∨ pa + n ≤ a → (a / 64 ≠ pa / 64 ∨ v = view) → t.readByte a v = s.readByte a v) ∧
      { t with mem := s.mem, enc := s.enc } = s.putStream ag x st.advance
    frame (st.reg f.a.toNat + (f.b ++ f.c).signExtend 64) (.st rel f) ∧
    frame (st.reg f.a.toNat + st.reg f.b.toNat * w64 n) (.stx rel f)

/-! ## What every word obeys (R177, R195, R197, R198) -/

/-- A reserved OP is ILLEGAL_INSTR everywhere; otherwise a word whose group is not legal in the stream takes STREAM, whatever its
other fields; and where its group is legal a word that does not decode is ILLEGAL_INSTR. Each names the word's PC, and the
word has no effect.
Model's choices it rests on: log 30. -/
def Obligations.WordFate : Prop :=
  ∀ (s : State) (ag : Agent) (x : Ctx) (w : Insn), s.At ag x →
    match Spec.groupOf w with
    | none => execInsn w s = .next (s.stopped ag x 0x01 0)
    | some kinds =>
      (Spec.kindOf ag x.world ∉ kinds → execInsn w s = .next (s.stopped ag x 0x02 0)) ∧
      (Spec.kindOf ag x.world ∈ kinds → ∀ e, decode w = .error e → execInsn w s = .next (s.stopped ag x 0x01 0))

/-- A word whose guard is 0 does nothing but advance the PC: every row of formats S, I and V, where the stream may hold it and the
checks that R198 makes whatever the guard let it pass. A vector word reads its guard as it begins. -/
def Obligations.GuardOff : Prop :=
  ∀ (s : State) (ag : Agent) (x : Ctx), s.At ag x →
    let st := x.stream ag
    let off (i : Instr) : Prop := exec i s = .next (s.advanced ag x)
    (∀ f : FmtS, st.pred f.pg.toNat = false →
      (∀ r ∈ Spec.guardedS, off (r f)) ∧ (∀ ord, ∀ r ∈ Spec.guardedOrdered, off (r ord f)) ∧
      ((∀ t, ag ≠ .np t) → off (.qlevel f) ∧ (Spec.pushes ag f.b.toNat → off (.qpush f)) ∧
        (Spec.pops ag f.b.toNat → off (.qpop f) ∧ off (.qpeek f)))) ∧
    (∀ f : FmtI, st.pred f.pg.toNat = false →
      (∀ r ∈ Spec.guardedI, off (r f)) ∧
      (∀ r, Spec.reach ag f.imm.toNat = some r → (r ≠ .none → off (.mfc f)) ∧ (r = .rw → off (.mtc f))) ∧
      ((∀ c, ag = .a c → f.imm.getLsbD 14 = false) → off (.suspend f))) ∧
    ∀ (f : FmtV) (core : Nat) (rm cc : BitVec 3) (sat : Bool) (n : BitVec 2), ag = .e core → st.rpt = 0 →
      st.pred f.pm.toNat = false → ∀ r ∈ Spec.vectorRows rm cc sat n, (encode (r f)).isSome = true →
      (r f = .vpopq f → f.va.toNat < 8) → (r f = .vpushq f → 8 ≤ f.vd.toNat ∧ f.vd.toNat < 12) → off (r f)

/-- s0 reads 0 and p0 reads 1, writes to them are discarded, and every other register and predicate reads as it was last
written, the others unchanged. -/
def Obligations.RegisterFile : Prop :=
  ∀ (st : Stream) (n m : Nat) (v : W64) (b : Bool),
    st.reg 0 = 0 ∧ st.pred 0 = true ∧ st.setReg 0 v = st ∧ st.setPred 0 b = st ∧
    (n ≠ 0 → (st.setReg n v).reg n = v ∧ (st.setPred n b).pred n = b) ∧
    (m ≠ n → (st.setReg n v).reg m = st.reg m ∧ (st.setPred n b).pred m = st.pred m) ∧
    (st.setReg n v).pred m = st.pred m ∧ (st.setPred n b).reg m = st.reg m

/-- THE FRAME OF THE REGISTER WORDS: an arithmetic, floating-point, predicate or control-flow word leaves memory, every other
context, every core's pool and copies, and every structure of the die as they were, whether it completes or takes a fault; in
its own task only its own stream, and for a fault the fault record, changes. -/
def Obligations.RegisterWordFrame : Prop :=
  ∀ (s t : State) (ag : Agent) (x : Ctx), s.At ag x →
    (∀ i : Instr,
      (∃ f : FmtS, ∃ r ∈ Spec.arithRows.map Prod.fst ++ Spec.shiftRows.map Prod.fst ++ Spec.divRows.map Prod.fst ++
          Spec.fpRows.map Prod.fst ++ Spec.predRows.map Prod.fst ++
          [.sel, .bext, .bdep, .fmin, .fmax, .fcvt, .fcmp, .fclass, .pset], i = r f) ∨
        (∃ f : FmtI, ∃ r ∈ Spec.immRows.map Prod.fst ++ [.jmp, .jmpr, .call, .ret, .loop, .nop, .yield, .trap], i = r f) ∨
        (∃ f : FmtL, i = .ldi f ∨ i = .ldhi f) ∨ (∃ f : FmtB, i = .br f) →
      exec i s = .next t →
      ∃ y : Ctx, t = s.put ag y ∧ ∃ st : Stream, ∃ fault : Option FaultRec, ∃ phase : Phase, ∃ pending : Option FaultRec,
        y = { x.setStream ag st with primary := fault, phase := phase, pending := pending })

/-! ## Control registers (R249 to R251) -/

/-- MFC writes the register, once the work that R221 names is done; a register marked "—" for the stream takes STREAM whatever
the guard.
Model's choices it rests on: log 30. -/
def Obligations.ReadControlRegister : Prop :=
  ∀ (s : State) (ag : Agent) (x : Ctx) (f : FmtI) (r : Reach), s.At ag x → Spec.reach ag f.imm.toNat = some r →
    (r = .none → exec (.mfc f) s = .next (s.stopped ag x 0x02 0)) ∧
    (r ≠ .none → (x.stream ag).pred f.pg.toNat = true → Spec.cregReady ag x f.imm.toNat →
      ag.core < 128 → (∀ k, ag = .np k → k < 192) → x.world < 64 →
      exec (.mfc f) s = .next (s.putStream ag x
        ((x.stream ag).advance.setReg f.d.toNat (Spec.cregValue s ag x f.imm.toNat))))

/-- MTC to a register marked RO takes ILLEGAL_INSTR and to one marked "—" STREAM, whatever the guard; a value of FPCTL with RM 5
to 7 takes ILLEGAL_INSTR; otherwise the register's fields take the value, and nothing else changes. -/
def Spec.writeControlRegister : Prop :=
  ∀ (s : State) (ag : Agent) (x : Ctx) (f : FmtI) (r : Reach), s.At ag x → Spec.reach ag f.imm.toNat = some r →
    let n := f.imm.toNat
    let st := x.stream ag
    let v := st.reg f.a.toNat
    let y := x.setStream ag st.advance
    (r = .ro → exec (.mtc f) s = .next (s.stopped ag x 0x01 0)) ∧
    (r = .none → exec (.mtc f) s = .next (s.stopped ag x 0x02 0)) ∧
    (r = .rw → st.pred f.pg.toNat = true → n = 0x00 → 5 ≤ (v.extractLsb' 0 3).toNat →
      exec (.mtc f) s = .next (s.stopped ag x 0x01 0)) ∧
    (r = .rw → st.pred f.pg.toNat = true → Spec.cregReady ag x n →
      (n = 0x00 → (v.extractLsb' 0 3).toNat < 5 →
        exec (.mtc f) s = .next (s.putStream ag x { st.advance with fpctl := v &&& 0x1F })) ∧
      (n = 0x01 → exec (.mtc f) s = .next (s.putStream ag x { st.advance with fpstat := v &&& 0x7F })) ∧
      (n = 0x02 → exec (.mtc f) s = .next (s.putStream ag x { st.advance with lfsr := st.lfsr.extractLsb' 64 64 ++ v })) ∧
      (n = 0x03 → exec (.mtc f) s = .next (s.putStream ag x { st.advance with lfsr := v ++ st.lfsr.extractLsb' 0 64 })) ∧
      (n = 0x04 → exec (.mtc f) s = .next (s.put ag { y with mxstat := v &&& 0x1D })) ∧
      (0x10 ≤ n ∧ n < 0x20 →
        exec (.mtc f) s = .next (s.put ag { y with vw := x.vw.set 0 (n - 0x10) (v &&& 0xFFFFFFFFC0007FFF) })) ∧
      (n = 0x20 → exec (.mtc f) s = .next (s.put ag { y with vshape := v &&& 0x7FFFF })) ∧
      (n = 0x21 → exec (.mtc f) s = .next (s.put ag { y with vksc := v &&& 0xFFFFFFFF })) ∧
      (0x34 ≤ n → exec (.mtc f) s = .next (s.put ag { y with swait := x.swait.set 0 (n - 0x34) (Spec.waitSlot v) })))

/-- MTC to a ring descriptor waits while a queued command names the ring or a copy holds one of its slots, in an engine or with a saved
context. Then the configuration is taken, HEAD, TAIL and FULL are 0 and the ring's slots are empty; where a stationary holds its slots
the task takes MATRIX_CMD. -/
def Spec.writeRingDescriptor : Prop :=
  ∀ (s : State) (core n : Nat) (x : Ctx) (f : FmtI), s.At (.e core) x → f.imm.toNat = 0x28 + n → n < 8 →
    x.e.pred f.pg.toNat = true →
    let k := s.core core
    let v := x.e.reg f.a.toNat
    let named : Prop := ∃ m ∈ x.mcq, m.ring = some n
    let holds (p : Copy) : Prop := ∃ q ∈ p.slots, q.core = core ∧ q.disp = x.disp ∧ q.ring = n
    let copied : Prop := (∃ c ∈ s.cores, ∃ p ∈ c.2.copies, holds p) ∨ ∃ v ∈ s.saved, ∃ p ∈ v.copies, holds p
    (named ∨ copied → exec (.mtc f) s = .next (s.putStream (.e core) x { x.e with wait := some .control })) ∧
    (¬named → ¬copied →
      (k.act.holds n = false → k.shad.holds n = false →
        exec (.mtc f) s = .next (s.put (.e core)
          { x with
            e := x.e.advance, rgd := x.rgd.set 0 n (v &&& 0x7FFFFFFF), filled := x.filled.filter (fun e => e.1 / 256 != n),
            released := x.released.filter (fun e => e.1 / 256 != n), readPos := x.readPos.set 0 n 0 })) ∧
      (k.act.holds n = true ∨ k.shad.holds n = true → exec (.mtc f) s = .next (s.stopped (.e core) x 0x09 0)))

/-- MTC, to a plain register and to a ring descriptor.
Model's choices it rests on: log 30, 40. -/
def Obligations.ControlRegisterWrites : Prop := Spec.writeControlRegister ∧ Spec.writeRingDescriptor

/-! ## Queues (R185, R186, R252) -/

/-- QPUSH appends the low bytes of a register as one entry of a queue with room, and one to cq0 or cq1 makes the stream's held writes
visible first; QPOP takes the head entry, QPEEK leaves it, and QLEVEL counts. A guard of 0 makes each do nothing; a queue that R185 does
not give the stream takes STREAM whatever the guard. -/
def Spec.queueOperations : Prop :=
  ∀ (s : State) (ag : Agent) (x : Ctx) (f : FmtS), s.At ag x → (∀ t, ag ≠ .np t) →
    let c := f.b.toNat
    let st := x.stream ag
    let q := x.queue c
    let y := x.setStream ag st.advance
    let t := if 12 ≤ c then (s.advanced ag x).dupFlush ag none else s
    (st.pred f.pg.toNat = false →
      (Spec.pushes ag c → exec (.qpush f) s = .next (s.advanced ag x)) ∧
      (Spec.pops ag c → exec (.qpop f) s = .next (s.advanced ag x) ∧ exec (.qpeek f) s = .next (s.advanced ag x)) ∧
      exec (.qlevel f) s = .next (s.advanced ag x)) ∧
    (¬Spec.pushes ag c → exec (.qpush f) s = .next (s.stopped ag x 0x02 0)) ∧
    (¬Spec.pops ag c → exec (.qpop f) s = .next (s.stopped ag x 0x02 0) ∧ exec (.qpeek f) s = .next (s.stopped ag x 0x02 0)) ∧
    (st.pred f.pg.toNat = true →
      (Spec.pushes ag c → Spec.queueFree ag x c → q.rows.length < queueDepth c →
        exec (.qpush f) s = .next (t.put ag (y.setQueue c
          { q with rows := q.rows ++ [{ bytes := leBytes (bytesOf f.sz) (st.reg f.a.toNat).toNat, arrived := true }] }))) ∧
      (∀ l rest, Spec.pops ag c → Spec.queueFree ag x c → q.rows = { bytes := l, arrived := true } :: rest →
        let w := widthOf f.sz
        let v : BitVec w := BitVec.ofNat w (ofBytes (l.take (bytesOf f.sz)))
        let out := st.advance.setReg f.d.toNat (Spec.extend (f.mod.getLsbD 0) v)
        exec (.qpop f) s = .next (s.put ag ((y.setQueue c { head := (q.head + 1) % queueDepth c, rows := rest }).setStream ag out)) ∧
        exec (.qpeek f) s = .next (s.put ag (y.setStream ag out))) ∧
      (q.rows.length < 2 ^ 16 →
        exec (.qlevel f) s = .next (s.put ag (y.setStream ag (st.advance.setReg f.d.toNat
          (BitVec.ofNat 64 ((q.rows.takeWhile fun r => r.arrived).length + q.rows.length * 65536)))))))

/-- A push to a full queue and a pop from an empty one, or of a row whose bytes have not all arrived, wait, and so does the E stream's
operation on a queue that a vector word issued before it still uses: the stream stays at the word, and nothing else changes. -/
def Spec.queueWaits : Prop :=
  ∀ (s : State) (ag : Agent) (x : Ctx) (f : FmtS), s.At ag x → (x.stream ag).pred f.pg.toNat = true →
    let c := f.b.toNat
    let q := x.queue c
    let waits := s.putStream ag x { x.stream ag with wait := some (.queue c) }
    (Spec.pushes ag c → ¬Spec.queueFree ag x c ∨ queueDepth c ≤ q.rows.length → exec (.qpush f) s = .next waits) ∧
    (Spec.pops ag c → ¬Spec.queueFree ag x c ∨ q.rows = [] ∨ (∃ r rest, q.rows = r :: rest ∧ r.arrived = false) →
      exec (.qpop f) s = .next waits ∧ exec (.qpeek f) s = .next waits)

/-- QPUSH, QPOP, QPEEK and QLEVEL, where they complete and where they wait.
Model's choices it rests on: log 30, 52. -/
def Obligations.Queues : Prop := Spec.queueOperations ∧ Spec.queueWaits

/-! ## System instructions (R253 to R256) -/

/-- NOP does nothing; END and SUSPEND leave, unless the other stream has left the other way, which is EXIT_MISMATCH; YIELD stops
the fetch for n + 1 clk; TRAP takes its fault with the PC and the code. -/
def Spec.systemWords : Prop :=
  ∀ (s : State) (ag : Agent) (x : Ctx) (f : FmtI), s.At ag x → (x.stream ag).pred f.pg.toNat = true →
    let st := x.stream ag
    exec (.nop f) s = .next (s.advanced ag x) ∧
    exec (.yield f) s = .next (s.putStream ag x { st.advance with yield := (f.imm.extractLsb' 0 10).toNat + 1 }) ∧
    exec (.trap f) s = .next (s.raise ag.place ag.code
      { cause := 0x07, c := w64 (pcField st.pc), d := w64 (f.imm.toNat % 65536), defer := false, log := none } 0) ∧
    (x.otherExit ag ≠ .suspended → exec (.endTask f) s = .next (s.putStream ag x { st.advance with exit := .ended })) ∧
    (x.otherExit ag = .suspended → exec (.endTask f) s = .next (s.stopped ag x 0x08 0)) ∧
    let gone := { st.advance with exit := Exit.suspended, resume := f.imm.extractLsb' 0 14 }
    (x.otherExit ag ≠ .ended → (∀ c, ag ≠ .a c) → exec (.suspend f) s =
      .next (s.put ag { x.setStream ag gone with slotw := x.swait, extBit := f.imm.getLsbD 14 })) ∧
    (∀ c, ag = .a c → f.imm.getLsbD 14 = false → x.otherExit ag ≠ .ended →
      exec (.suspend f) s = .next (s.putStream ag x gone)) ∧
    (f.imm.getLsbD 14 = false → x.otherExit ag = .ended → exec (.suspend f) s = .next (s.stopped ag x 0x08 0))

/-- BKPT and HALT: with debug enabled for the world the task enters debug halt, after the BKPT and at the HALT word; with debug
disabled BKPT is a NOP and HALT takes the HALT fault. -/
def Spec.breakpoints : Prop :=
  ∀ (s : State) (ag : Agent) (x : Ctx) (f : FmtI), s.At ag x → (x.stream ag).pred f.pg.toNat = true →
    let st := x.stream ag
    (s.debugOn x.world = false →
      exec (.bkpt f) s = .next (s.advanced ag x) ∧ exec (.halt f) s = .next (s.stopped ag x 0x60 0)) ∧
    (s.debugOn x.world = true → st.yield = 0 → s.chunkOut ag.place = false → ∃ t u : State, ∃ y z : Ctx,
      exec (.bkpt f) s = .next t ∧ t.ctx ag.place = some y ∧ y.phase = .halted ∧ (y.stream ag).pc = st.pc + 1 ∧
      exec (.halt f) s = .next u ∧ u.ctx ag.place = some z ∧ z.phase = .halted ∧ (z.stream ag).pc = st.pc)

/-- The system words: NOP, END, SUSPEND, YIELD, TRAP, BKPT and HALT.
Model's choices it rests on: log 30, 62. -/
def Obligations.SystemControl : Prop := Spec.systemWords ∧ Spec.breakpoints

/-! ## The access stream (R257 to R264) -/

/-- One repetition of a row load: the row goes to the queue, the PC advances after the last repetition, and the indexed form takes
its offset from cq1. -/
def Spec.rowLoads : Prop :=
  ∀ (s : State) (core : Nat) (x : Ctx) (f : FmtA) (stor : BitVec 2) (k : BitVec 3) (c : BitVec 2) (l : List Byte),
    s.At (.a core) x → x.a.rpt ≤ f.rep.toNat → f.q.toNat < 8 → Spec.room x f.q.toNat →
    let q := f.q.toNat
    let y := { x with a := x.a.stepped f.rep.toNat }
    let n := 4 * 2 ^ k.toNat
    let ea := Spec.stepAddr x.a f 64
    let eb := Spec.stepAddr x.a f 1
    let src (ea : W64) (n : Nat) : Prop := Spec.reads s (.a core) x (.stream core 0) stor.toNat ea n l
    (ea.toNat % min n 64 = 0 → src ea n → stor = 0 ∨ f.rep = 0 →
      exec (.vld stor k f) s = .next (s.put (.a core) (y.pushed q l))) ∧
    (∀ o, Spec.head x 13 o →
      (ea + BitVec.ofNat 64 (ofBytes o)).toNat % min n 64 = 0 → src (ea + BitVec.ofNat 64 (ofBytes o)) n →
      exec (.vldx stor k f) s = .next (s.put (.a core) ((y.popped 13).pushed q l))) ∧
    (eb.toNat % 2 ^ c.toNat = 0 → src eb (2 ^ c.toNat) → stor = 0 ∨ f.rep = 0 →
      exec (.lds stor c f) s = .next (s.put (.a core) (y.pushed q l)))

/-- One repetition of a row store: the head row of the queue is taken, cut or padded with zeros to the size, and written. -/
def Spec.rowStores : Prop :=
  ∀ (s : State) (core : Nat) (x : Ctx) (f : FmtA) (stor : BitVec 2) (k : BitVec 3) (c : BitVec 2) (l : List Byte)
      (g : State → State),
    s.At (.a core) x → x.a.rpt ≤ f.rep.toNat → 8 ≤ f.q.toNat → f.q.toNat < 12 → Spec.head x f.q.toNat l →
    let q := f.q.toNat
    let y := { x with a := x.a.stepped f.rep.toNat }
    let n := 4 * 2 ^ k.toNat
    let ea := Spec.stepAddr x.a f 64
    let eb := Spec.stepAddr x.a f 1
    let dst (ea : W64) (n : Nat) : Prop := Spec.writes s (.a core) x (.stream core 0) stor.toNat ea (Spec.fit n l) g
    (ea.toNat % min n 64 = 0 → dst ea n → stor = 0 ∨ f.rep = 0 →
      exec (.vst stor k f) s = .next (g (s.put (.a core) (y.popped q)))) ∧
    (∀ o, Spec.head x 13 o →
      (ea + BitVec.ofNat 64 (ofBytes o)).toNat % min n 64 = 0 → dst (ea + BitVec.ofNat 64 (ofBytes o)) n →
      exec (.vstx stor k f) s = .next (g (s.put (.a core) ((y.popped 13).popped q)))) ∧
    (eb.toNat % 2 ^ c.toNat = 0 → dst eb (2 ^ c.toNat) → stor = 0 ∨ f.rep = 0 →
      exec (.sts stor c f) s = .next (g (s.put (.a core) (y.popped q))))

/-- The row loads and stores of the access stream.
Model's choices it rests on: log 6. -/
def Obligations.RowTransfers : Prop := Spec.rowLoads ∧ Spec.rowStores

/-- One repetition of GATH or SCAT over the index row at the head of the store queue that the word names: an absent element reads
0 and writes nothing, the others are read or written, each at its own address, and elements are written in ascending order. -/
def Spec.gatherScatter : Prop :=
  ∀ (s : State) (core : Nat) (x : Ctx) (f : FmtA) (stor c : BitVec 2) (l : List Byte),
    s.At (.a core) x → x.a.rpt ≤ f.rep.toNat →
    let iq := 8 + (f.step.extractLsb' 0 2).toNat
    let es : Nat := 2 ^ c.toNat
    let base := x.a.reg f.b.toNat
    let y := ({ x with a := x.a.stepped f.rep.toNat } : Ctx).popped iq
    let at_ (j : Int) : W64 := base + BitVec.ofInt 64 (j * es)
    Spec.head x iq l → base.toNat % es = 0 →
    (∀ get : Int → List Byte, f.q.toNat < 8 → Spec.room x f.q.toNat →
      (∀ j, some j ∈ Spec.indices l → Spec.reads s (.a core) x (.stream core 0) stor.toNat (at_ j) es (get j)) →
      exec (.gath stor c f) s = .next (s.put (.a core) (y.pushed f.q.toNat
        ((Spec.indices l).flatMap fun j => match j with
          | none => List.replicate es 0
          | some j => get j)))) ∧
    (∀ (data : List Byte) (g : Nat → State → State), 8 ≤ f.q.toNat → f.q.toNat < 12 → Spec.head y f.q.toNat data →
      (∀ i j, (Spec.indices l)[i]? = some (some j) → Spec.writes s (.a core) x (.stream core 0) stor.toNat (at_ j)
        (Spec.fit es ((data.drop (es * i)).take es)) (g i)) →
      exec (.scat stor c f) s = .next ((Spec.indices l).zipIdx.foldl (fun t (j, i) => if j.isSome then g i t else t)
        (s.put (.a core) (y.popped f.q.toNat))))

/-- MOVS moves one row of a store queue to a load queue. PREF never faults: it does nothing where the block has no address that
translates, where the stream's TLB has its translation, where the walk fails, or where its leaf does not let the block be read in the
scope named; else it takes the translation from the last-level TLB, or what the walk reads and the A bit that it sets change
memory and both TLBs take the leaf. -/
def Spec.moveAndPrefetch : Prop :=
  ∀ (s : State) (core : Nat) (x : Ctx) (f : FmtA), s.At (.a core) x → x.a.rpt ≤ f.rep.toNat →
    let y := { x with a := x.a.stepped f.rep.toNat }
    (∀ l, 8 ≤ f.q.toNat → f.q.toNat < 12 → Spec.head x f.q.toNat l → Spec.room x (f.b.extractLsb' 0 3).toNat →
      exec (.movs f) s = .next (s.put (.a core) ((y.popped f.q.toNat).pushed (f.b.extractLsb' 0 3).toNat l))) ∧
    ∀ (stor : BitVec 2) (k : BitVec 4), stor = 1 ∨ stor = 3 →
      let n := 64 * 2 ^ k.toNat
      let va := (Spec.stepAddr x.a f 64).toNat / n * n
      let u := s.put (.a core) y
      let go := exec (.pref stor k f) s
      let held (t : TlbUnit) : Option TlbEntry := s.tlb.find? fun e => e.hit t x.world va
      let serves (leaf : W64) (log2 : Nat) : Prop := leafRD leaf = true ∧
        ∃ w, windowOf (leafPA leaf log2 + va % 2 ^ log2) = some w ∧ (w = .host ↔ stor = 3)
      (2 ^ 56 ≤ va ∨ va >>> 48 = 0xFF ∨ (s.world x.world).ttw.getLsbD 0 = false ∨ (held (.stream core 0)).isSome = true →
        go = .next u) ∧
      (va < 2 ^ 56 → va >>> 48 ≠ 0xFF → (s.world x.world).ttw.getLsbD 0 = true → held (.stream core 0) = none →
        (∀ e, held (.die (core / 32)) = some e →
          (¬serves e.leaf e.log2 → go = .next u) ∧
          (serves e.leaf e.log2 → go = .next { u with tlb := installTlb s.tlb { e with unit := .stream core 0 } })) ∧
        (held (.die (core / 32)) = none →
          (∀ e, walk u x.world va = .error e → go = .next u) ∧
          ∀ g, walk u x.world va = .ok g →
            let log2 := levelLo g.level
            let leaf := g.leaf ||| w64 0x40
            let may : Prop := mayMap x.world (leafPA g.leaf log2 + va % 2 ^ log2) = true ∧ serves leaf log2
            (¬may → go = .next u) ∧
            (may →
              let t := (u.walked g.reads).orPte g.ptePa (w64 0x40)
              let e : TlbEntry :=
                { unit := .stream core 0, world := x.world, base := va >>> log2, log2, leaf, ptePa := g.ptePa, level := g.level }
              go = .next { t with tlb := installTlb (installTlb t.tlb { e with unit := .die (core / 32) }) e })))

/-- Gather and scatter, row moves and prefetches.
Model's choices it rests on: log 6, 9, 66. -/
def Obligations.ElementTransfers : Prop := Spec.gatherScatter ∧ Spec.moveAndPrefetch

/-- PROBE, of a table that is enabled and lies inside the scratchpad: a hit gives the address of the byte's copy, makes the entry
the most recent of its set, and branches while its fill is pending; a miss branches, with all ones where it takes no way, else
with the address of the way that it fills. A table that is not enabled takes SP_RANGE. -/
def Spec.tagTableLookups : Prop :=
  ∀ (s : State) (core : Nat) (x : Ctx) (f : FmtQ), s.At (.a core) x →
    let t := f.tt.toNat
    let d := x.ttd.get 0 t
    let va := (x.a.reg f.a.toNat).toNat
    let block := va / ttdLine d
    let slots := setSlots d (block % ttdSets d)
    let at_ (slot : Nat) : W64 := w64 (ttdSlotOff d slot + va % ttdLine d)
    let done (y : Ctx) (v : W64) (hit : Bool) : State :=
      s.putStream (.a core) y
        { y.a.advance.setReg f.d.toNat v with pc := if hit then x.a.pc + 1 else x.a.pc + f.off.toInt }
    let holds (k : Nat) : Prop := (x.tagSlot t k).valid = true ∧ (x.tagSlot t k).block = block
    let go : List Instr := [.probe f, .probeNf f]
    let ready : Prop := ttdEn d = true ∧ ttdFits d x.partw = true
    (¬ready → ∀ i ∈ go, exec i s = .next (s.raise (.core core) 0
      { cause := 0x15, c := w64 va, d := 0x70, defer := false, log := none } 0)) ∧
    (ready →
      (∀ slot ∈ slots, holds slot → (∀ k ∈ slots, holds k → k = slot) →
        let e := x.tagSlot t slot
        let y := x.touchSlot t slots slot
        (∀ i ∈ go, exec i s = .next (done y (at_ slot) (!e.pending))) ∧
        y.tagSlot t slot = { e with rank := 0 } ∧
        ∀ k ∈ slots, k ≠ slot → y.tagSlot t k =
          let g := x.tagSlot t k
          if g.valid = true ∧ g.rank < e.rank then { g with rank := g.rank + 1 } else g) ∧
      ((∀ k ∈ slots, ¬holds k) →
        exec (.probeNf f) s = .next (done x (BitVec.allOnes 64) false) ∧
        ((∀ k ∈ slots, (x.tagSlot t k).valid = true ∧ (x.tagSlot t k).pending = true) →
          exec (.probe f) s = .next (done x (BitVec.allOnes 64) false)) ∧
        ∀ slot ∈ slots,
          ((∀ k ∈ slots, k < slot → (x.tagSlot t k).valid = true) ∧ (x.tagSlot t slot).valid = false ∨
            (∀ k ∈ slots, (x.tagSlot t k).valid = true) ∧ (x.tagSlot t slot).pending = false ∧
              ∀ k ∈ slots, k ≠ slot → (x.tagSlot t k).pending = true ∨ (x.tagSlot t k).rank < (x.tagSlot t slot).rank) →
          let r := if (x.tagSlot t slot).valid then (x.tagSlot t slot).rank else ttdWays d
          let y := (x.ageSet t slots r).setTagSlot t slot { valid := true, pending := true, block, rank := 0 }
          exec (.probe f) s = .next ((done { y with ctb := x.ctb &&& ~~~w64 (2 ^ ttdFtag d) } (at_ slot) false).addCopy core
            (fillCopy s.nextId x t slot d va))))

/-- PROBE.inv drops the entry of a table in use, once its fill is complete, and says whether there was one; PROBE.cfg takes a descriptor that R266 allows while no fill
of the table is outstanding, empties the table and returns the old descriptor; another descriptor takes ILLEGAL_INSTR. -/
def Spec.tagTableControl : Prop :=
  ∀ (s : State) (core : Nat) (x : Ctx) (f : FmtQ), s.At (.a core) x →
    let t := f.tt.toNat
    let d := x.ttd.get 0 t
    let v := x.a.reg f.a.toNat
    let block := v.toNat / ttdLine d
    let slots := setSlots d (block % ttdSets d)
    let holds (k : Nat) : Prop := (x.tagSlot t k).valid = true ∧ (x.tagSlot t k).block = block
    let done (y : Ctx) (v : W64) : State := s.putStream (.a core) y (y.a.advance.setReg f.d.toNat v)
    (ttdEn d = false ∨ (∀ k ∈ slots, ¬holds k) → exec (.probeInv f) s = .next (done x 0)) ∧
    (∀ slot ∈ slots, ttdEn d = true → holds slot → (∀ k ∈ slots, holds k → k = slot) →
      ((x.tagSlot t slot).pending = true → exec (.probeInv f) s = .next (s.putStream (.a core) x { x.a with wait := some .fill })) ∧
      ((x.tagSlot t slot).pending = false →
        exec (.probeInv f) s = .next (done (x.dropSlot t slots slot) 1) ∧
        ((x.dropSlot t slots slot).tagSlot t slot).valid = false)) ∧
    (ttdOk v = false → exec (.probeCfg f) s = .next (s.stopped (.a core) x 0x01 0)) ∧
    (ttdOk v = true → (∀ p ∈ (s.core core).taskCopies x.disp, p.fill.map Prod.fst ≠ some t) →
      ∃ y : Ctx, exec (.probeCfg f) s = .next (done y d) ∧ y.ttd.get 0 t = v &&& ttdMask ∧ (∀ u, u ≠ t → y.ttd.get 0 u = x.ttd.get 0 u) ∧
        (y.ctStatus.get 0 (ttdFtag v)) = 0 ∧
        (x.tt.wf .empty = true → ∀ k, k < 256 → y.tagSlot t k = .empty ∧ ∀ u, u ≠ t → y.tagSlot u k = x.tagSlot u k) ∧
        ∃ tt ttd cs, y = { x with tt := tt, ttd := ttd, ctStatus := cs })

/-- The four forms of PROBE.
Model's choices it rests on: log 30, 41. -/
def Obligations.TagTables : Prop := Spec.tagTableLookups ∧ Spec.tagTableControl

/-! ## Copies (R271 to R286) -/

/-- COPY, once its tag is free: the tag's bit and status are cleared and the copy engine has the copy with its microword and
descriptor, which is read in device memory through the stream's own unit; a descriptor address that is not a multiple of 64
bytes gives the copy the status FAULT with MISALIGNED. -/
def Spec.copyIssue : Prop :=
  ∀ (s : State) (core : Nat) (x : Ctx) (f : FmtC), s.At (.a core) x → Spec.noneHeld s (.a core) →
    let tag := f.tag.toNat
    let va := x.a.reg f.desc.toNat
    let m : W64 := ~~~w64 (2 ^ tag)
    let y := { x with a := x.a.advance, ctb := x.ctb &&& m, ctStatus := x.ctStatus.set 0 tag 0 }
    let p := { Copy.fresh s.nextId x.world [] with
      task := some x.disp, tag := some tag, uw := f.uw, sc := f.sc.toNat, buf := some f.buf.toNat, partw := x.partw }
    ((∀ c ∈ (s.core core).taskCopies x.disp,
        c.tag ≠ some tag ∧ ∀ t slot, c.fill = some (t, slot) → ttdFtag (x.ttd.get 0 t) ≠ tag) →
      (va.toNat % 64 ≠ 0 → f.uw.getLsbD 15 = false →
        exec (.copy f) s = .next ((s.put (.a core) y).addCopy core { p with early := some (w64 (1 <<< 20 + 6 <<< 24)) })) ∧
      ∀ e, va.toNat % 64 = 0 → Spec.PlainPage s (.stream core 1) x.world 1 va 64 e →
        let q := { p with desc := wordsOf 8 (s.loadBytes x.world va.toNat (e.paOf va.toNat) 64) }
        exec (.copy f) s = .next ((s.put (.a core) y).addCopy core
          { q with covers := if f.uw.getLsbD 15 then (s.put (.a core) y).coveredBy core x.disp (wd q.desc 4) x.world else [] })) ∧
    ((∃ c ∈ (s.core core).taskCopies x.disp, c.tag = some tag) →
      exec (.copy f) s = .next (s.putStream (.a core) x { x.a with wait := some .copyTag }))

/-- CWAITA and CFIND give the lowest complete tag of the mask with its status word; where there is none CFIND gives 64 and
CWAITA waits. CWAITL waits for every tag of the mask and counts those with a status other than OK. With `.clr` the reported bits
of CTB are cleared. -/
def Spec.copyTagWaits : Prop :=
  ∀ (s : State) (core : Nat) (x : Ctx) (f : FmtP), s.At (.a core) x →
    let m := x.a.reg f.a.toNat
    let y (clear : W64) : Ctx := if f.imm.getLsbD 0 then { x with ctb := x.ctb &&& ~~~clear } else x
    let found (clear v w : W64) : Host.Outcome State Fault Refusal :=
      .next (s.putStream (.a core) (y clear) ((x.a.advance.setReg f.d.toNat v).setReg f.b.toNat w))
    let waits : Host.Outcome State Fault Refusal := .next (s.putStream (.a core) x { x.a with wait := some .copyTag })
    (∀ t, (x.ctb &&& m).getLsbD t = true → (∀ k, k < t → (x.ctb &&& m).getLsbD k = false) →
      ∀ i ∈ [Instr.cwaita f, .cfind f], exec i s = found (w64 (2 ^ t)) (w64 t) (x.ctStatus.get 0 t)) ∧
    (x.ctb &&& m = 0 →
      exec (.cfind f) s = found 0 64 0 ∧
      (m = 0 → exec (.cwaita f) s = found 0 64 0) ∧
      (m ≠ 0 → exec (.cwaita f) s = waits)) ∧
    (x.ctb &&& m = m → exec (.cwaitl f) s = .next (s.putStream (.a core) (y m) (x.a.advance.setReg f.d.toNat
      (w64 ((List.range 64).countP fun t => m.getLsbD t && bits (x.ctStatus.get 0 t) 20 4 != 0))))) ∧
    (x.ctb &&& m ≠ m → exec (.cwaitl f) s = waits)

/-- COPY, and the words that wait for its tag.
Model's choices it rests on: log 13. -/
def Obligations.CopyWords : Prop := Spec.copyIssue ∧ Spec.copyTagWaits

/-- COPY_COMPLETE: a copy whose status stands already leaves the engine with it, and one whose descriptor is not allowed with
BAD_DESC; one to a queue leaves once it has pushed its entries. A copy without stages of one row of at most one chunk writes the
bytes it reads, counts them and leaves with the status OK: to the own window, to its ring slot, which is then filled, or from or to
another module, where it first makes its request and awaits the answer. -/
def Spec.copyComplete : Prop :=
  ∀ (s : State) (core id : Nat) (p : Copy), s.liveCopy core id = some p →
    let go := exec (.copyComplete core id) s
    let ends (t : State) (st : W64) : Prop := go = .next (t.endCopy core p st)
    (∀ st, p.early = some st → ends s st) ∧
    (p.early = none → p.descOk core = false → ends s (w64 (2 <<< 20))) ∧
    (p.early = none → p.descOk core = true → 2 ≤ p.dk → p.pub = false →
      (p.pushed < p.entries → go = .next s) ∧
      (p.entries ≤ p.pushed → ends s (p.status (if p.barrier then 4 else 0) 0))) ∧
    (p.early = none → p.descOk core = true → p.trigger = none → p.chunks = 0 → p.barrier = false → s.sramEcc = [] → p.rows = 1 →
      p.rowlen ≤ 4096 →
      let k := s.core core
      let lo := bits p.partw 25 7 * 65536
      let size := bits p.partw 32 8 * 65536
      let n := p.rowlen
      let inside (a : Nat) : Prop := a + n ≤ size ∧ a < 2 ^ 23 ∧ lo + a + n ≤ 2 ^ 23
      let wrote (at_ : Nat) (l : List Byte) : State := s.setCore core { k with sram := Spec.sramWith k.sram at_ l }
      let src := s.sramBytes core (lo + p.saddr) n
      let domw := (s.world p.world).domw
      let away (a : Nat) : Prop := domw.getLsbD 24 = true ∧ bits (w64 a) 54 10 ≠ moduleNo ∧ s.secureDomain p.world = none
      let asks (a : Nat) (kind : RmaKind) (write : Bool) : State :=
        { s with
          nextId := s.nextId + 1,
          outbox := s.outbox ++ [Output.remote s.nextId (bits (w64 a) 54 10) (bits domw 0 24) (bits (w64 a) 0 54) kind] }.putCopy core
          { p with asks := [{ id := s.nextId, write, pos := (0, 0), rsp := none }] }
      (p.uw = 0 → p.slots = [] → p.sstor = 0 → p.dstor = 0 → p.asks = [] → inside p.saddr → inside p.daddr →
        ends ((wrote (lo + p.daddr) src).countBytes p n) 0) ∧
      (∀ q, p.uw = 1 → p.allocated = true → p.slots = [q] → q.core = core → q.base + n ≤ 2 ^ 23 → s.saved = [] → p.sstor = 0 →
        p.asks = [] → inside p.saddr → ends (((wrote q.base src).countBytes p n).fillSlots p.slots) 0) ∧
      (p.uw = 0 → p.slots = [] → p.sstor = 2 → p.dstor = 0 → inside p.daddr → away p.saddr →
        (p.asks = [] → go = .next (asks p.saddr (.read n) false)) ∧
        ∀ i l, p.asks = [{ id := i, write := false, pos := (0, 0), rsp := some (.data l) }] → l.length = n →
          ends ((wrote (lo + p.daddr) l).countBytes p n) 0) ∧
      (p.uw = 0 → p.slots = [] → p.sstor = 0 → p.dstor = 2 → inside p.saddr → away p.daddr →
        (p.asks = [] → go = .next (asks p.daddr (.write src) true)) ∧
        ∀ i l, p.asks = [{ id := i, write := true, pos := (0, 0), rsp := some (.data l) }] → ends (s.countBytes p n) 0))

/-- A copy that ends is out of its engine; its tag has its status, and its bit of CTB unless another copy of the task still
stands behind the tag. -/
def Spec.copyStatus : Prop :=
  ∀ (s : State) (core : Nat) (p : Copy) (x : Ctx) (tag : Nat) (status : W64), p.task = some x.disp → p.tag = some tag →
    tag < 64 → (s.core core).task x.disp = some x →
    let t := s.endCopy core p status
    (∀ c ∈ (t.core core).copies, c.id ≠ p.id) ∧
    ∃ y, (t.core core).task x.disp = some y ∧ y.ctStatus.get 0 tag = status ∧
      y.ctb = (if (t.core core).tagBusy x tag then x.ctb else x.ctb ||| w64 (2 ^ tag)) ∧
      { y with ctb := x.ctb, ctStatus := x.ctStatus } = x

/-- How a copy ends, and what its task sees of it.
Model's choices it rests on: log 13. -/
def Obligations.CopyCompletion : Prop := Spec.copyComplete ∧ Spec.copyStatus

/-- COPY_RING_ALLOCATE: a copy takes slot TAIL, which is then not filled, of the ring of its own task and, a multicast one, of the
ring of that number of each other core's active task, all in one step: TAIL moves on, and FULL says whether it meets HEAD. It waits
while one of the rings is full or an earlier copy is to allocate there first, and ends where its output goes beyond a slot, where a
ring is not enabled or not inside its scratchpad, or where banks of another core are not owned by the world. -/
def Spec.ringAllocation : Prop :=
  ∀ (s : State) (core id : Nat) (p : Copy) (ys : Nat → Ctx), s.liveCopy core id = some p → p.early = none →
    p.descOk core = true → p.dk = 1 → p.allocated = false → p.task = some (ys core).disp →
    let k := s.core core
    let go := exec (.copyRingAllocate core id) s
    let ends (st cause : Nat) : Prop := go = .next (s.endCopy core p (w64 (st <<< 20 + cause <<< 24)))
    let all := core :: p.mcCores core
    let r (c : Nat) : W64 := (ys c).rgd.get 0 p.ring
    let next (c : Nat) : Nat := (rgdTail (r c) + 1) % rgdSlots (r c)
    let taken (c : Nat) : Ctx :=
      { ys c with
        rgd := (ys c).rgd.set 0 p.ring (rgdWith (r c) (rgdHead (r c)) (next c) (next c == rgdHead (r c))),
        filled := (ys c).filled.set false (slotKey p.ring (rgdTail (r c))) false,
        released := (ys c).released.set false (slotKey p.ring (rgdTail (r c))) false }
    let slot (c : Nat) : SlotRef :=
      { core := c, disp := (ys c).disp, ring := p.ring, slot := rgdTail (r c),
        base := bits (ys c).partw 25 7 * 65536 + rgdBase (r c) + rgdTail (r c) * rgdSlotBytes (r c) }
    (∀ c ∈ all, (s.core c).ctx = some (ys c) ∧ (ys c).phase = .running) →
      ((∃ c ∈ all, rgdEn (r c) = true ∧ p.fitsSlot (rgdSlotBytes (r c)) = false) → ends 2 0) ∧
      ((∀ c ∈ all, rgdEn (r c) = true → p.fitsSlot (rgdSlotBytes (r c)) = true) →
        ((∃ c ∈ all, rgdEn (r c) = false ∨ rgdOk (r c) (ys c).partw = false) → ends 1 0x05) ∧
        ((∀ c ∈ all, rgdEn (r c) = true ∧ rgdOk (r c) (ys c).partw = true) →
          ((∃ c ∈ p.mcCores core, s.ringBanksOk p.world c (ys c) p.ring = false) → ends 1 0x15) ∧
          ((∀ c ∈ p.mcCores core, s.ringBanksOk p.world c (ys c) p.ring = true) →
            (s.ringTurn core p = false ∨ (∃ c ∈ all, rgdFull (r c) = true) → go = .next s) ∧
            (s.ringTurn core p = true → (∀ c ∈ all, rgdFull (r c) = false) → ∃ t : State, go = .next t ∧
              (∀ c ∈ p.mcCores core, t.core c = (s.core c).setCtx (some (taken c))) ∧
              t.core core = { k.setCtx (some (taken core)) with
                copies := k.copies.map fun q => if q.id = p.id then { p with slots := all.map slot, allocated := true } else q }))))

/-- COPY_QUEUE_PUSH: a copy of fill bytes into xq or mq appends its next entries, as many as the queue has room for; while an earlier
copy of the task is to push into that queue first, nothing happens. -/
def Spec.queuePushes : Prop :=
  ∀ (s : State) (core id : Nat) (p : Copy) (x : Ctx), s.liveCopy core id = some p → p.early = none → p.mc = false →
    p.descOk core = true → p.task = some x.disp → p.dk = 2 ∨ p.dk = 3 →
    let k := s.core core
    let c := if p.dk = 2 then 14 else 15
    let size := if p.dk = 2 then 32 else 64
    let total := p.rows * p.rowlen / size
    let n := min (total - p.pushed) (queueDepth c - (x.queue c).rows.length)
    let entry (i : Nat) : Row :=
      { bytes := (List.range size).map fun j => byteOf p.fillv.toNat ((size * i + j) % p.rowlen % 8), arrived := true }
    p.isFill = true → p.trBytes = 0 → p.cvt = false → p.qmx = false → p.wg = false → p.asks = [] → k.task x.disp = some x →
      p.pushed < total →
      (k.queueTurn p = false → exec (.copyQueuePush core id) s = .next s) ∧
      (k.queueTurn p = true → ∃ t y, exec (.copyQueuePush core id) s = .next t ∧ (t.core core).task x.disp = some y ∧
        (y.queue c).rows = (x.queue c).rows ++ ((List.range n).map fun i => entry (p.pushed + i)) ∧
        ∃ q ∈ (t.core core).copies, q.id = p.id ∧ q.pushed = p.pushed + n)

/-- How a copy takes its ring slots and pushes its queue entries, or waits or ends.
Model's choices it rests on: log 13. -/
def Obligations.CopyRingsAndQueues : Prop := Spec.ringAllocation ∧ Spec.queuePushes

/-! ## Vector words (R287 to R308) -/

/-- A vector word issues its next repetition once every view it uses is in range: its first captures the vector control registers
in a new pending word, where fewer than 16 wait, and a later one joins the word it belongs to. A view out of range takes
VIEW_RANGE. -/
def Spec.vectorIssue : Prop :=
  ∀ (s : State) (core : Nat) (x : Ctx) (f : FmtV) (op : VOp) (w : Insn) (rm cc : BitVec 3) (sat : Bool) (n : BitVec 2),
    s.At (.e core) x → ∀ r ∈ Spec.vectorRows rm cc sat n, encode (r f) = some w → vopOf (r f) = some (f, op) →
    (r f = .vpopq f → f.va.toNat < 8) → (r f = .vpushq f → 8 ≤ f.vd.toNat ∧ f.vd.toNat < 12) →
    x.e.rpt ≤ f.rep.toNat → (x.e.rpt = 0 → x.e.pred f.pm.toNat = true) →
    let last (k : Nat) : Bool := decide (k < f.rep.toNat)
    let p : VePend :=
      { word := w, pc := x.e.pc, next := 0, upto := 1, more := last 0, vshape := x.vshape, vksc := x.vksc,
        fpctl := x.e.fpctl, vw := x.vw }
    let issued (l : List VePend) : Host.Outcome State Fault Refusal :=
      .next (s.put (.e core) { x with e := x.e.stepped f.rep.toNat, ve := l })
    (x.e.rpt = 0 → op.ok (p.vin f 0 x.partw) = true → x.ve.length < 16 → exec (r f) s = issued (x.ve ++ [p])) ∧
    (x.e.rpt = 0 → op.ok (p.vin f 0 x.partw) = false → exec (r f) s = .next (s.stopped (.e core) x 0x04 0)) ∧
    ∀ l q, 0 < x.e.rpt → x.ve = l ++ [q] → q.word = w → q.pc = x.e.pc → q.upto = x.e.rpt → q.more = true →
      op.ok (q.vin f x.e.rpt x.partw) = true →
      exec (r f) s = issued (l ++ [{ q with upto := x.e.rpt + 1, more := last x.e.rpt }])

/-- VE_REPETITION_EXECUTE, of a repetition whose checks hold: the cells of vd, or of the slab, become what the row computes of the
elements as they were, in row-major order, each with its own draw under SR; the flags are ORed into FPSTAT, and the word leaves the VE
after its last repetition. VACC.z clears what it drained, and VQMX writes the scales of its blocks beside their elements. -/
def Spec.vectorExecute : Prop :=
  ∀ (s : State) (core : Nat) (x : Ctx) (p : VePend) (rest : List VePend) (i : Instr) (f : FmtV) (op : VOp),
    (s.core core).ctx = some x → x.phase = .running → (s.core core).startAt = none → x.ve = p :: rest → p.next < p.upto →
    decodeWord p.word = .ok (.row i) → vopOf i = some (f, op) →
    let k := s.core core
    let v := p.vin f p.next x.partw
    let t := k.sram
    let out (r : Tbl Byte × Ctx) : Prop := exec (.veRepetitionExecute core) s =
      .next (s.setCore core ({ k with sram := r.1 }.setCtx (some { r.2 with ve := Spec.executed p rest })))
    op.ok v = true →
    (∀ g, Spec.vectorGrid i = some g →
      out ((g v t).leaves (v.put f.vd) (if ∃ sat rm, i = .vaccZ sat rm f then Spec.slabCleared v t else t) x)) ∧
    (∀ g, Spec.slabGrid i = some g → out ((g v t).leaves (Spec.slabPut v) t x)) ∧
    (i = .vqmx f →
      let g := if f.t = 0 then MxFmt.int8 else .flt (Spec.fmtT v)
      let block (r j : Nat) : List Machine.Num :=
        (List.range 32).map fun n => fpValue (fmtOfType (viewType (v.view f.va))) v.ftz (v.get t f.va r (32 * j + n))
      let grid : Spec.Grid :=
        { rows := v.rows, cols := v.cols, draws := false,
          value := fun r c _ => mxElement g (mxScale g (block r (c / 32))) ((block r (c / 32)).getD (c % 32) (.fin false 0 0)) }
      let r := grid.leaves (v.put f.vd) t x
      out ((gridCells v.rows (v.cols / 32)).foldl (fun t c => v.put f.vb t c.1 c.2 (mxScale g (block c.1 c.2))) r.1, r.2))

/-- VE_REPETITION_EXECUTE of a row that moves queue rows: it waits, with no effect, for as many rows or places as the shape has rows,
and then moves them all, one per row. VPOPQ and VMAXD also write vd, and VMAXD's entries hold its decision bits. -/
def Spec.vectorQueues : Prop :=
  ∀ (s : State) (core : Nat) (x : Ctx) (p : VePend) (rest : List VePend) (i : Instr) (f : FmtV) (op : VOp),
    (s.core core).ctx = some x → x.phase = .running → (s.core core).startAt = none → x.ve = p :: rest → p.next < p.upto →
    decodeWord p.word = .ok (.row i) → vopOf i = some (f, op) →
    let k := s.core core
    let v := p.vin f p.next x.partw
    let t := k.sram
    let w := elemBits f.t.toNat
    let go := exec (.veRepetitionExecute core) s
    let out (r : Tbl Byte × Ctx) : Prop :=
      go = .next (s.setCore core ({ k with sram := r.1 }.setCtx (some { r.2 with ve := Spec.executed p rest })))
    let free (c : Nat) : Prop := (x.queue c).rows.length + v.rows ≤ queueDepth c
    op.ok v = true →
    (i = .vpopq f →
      let q := x.queue f.va.toNat
      ((q.rows.takeWhile fun r => r.arrived).length < v.rows → go = .next s) ∧
      (v.rows ≤ (q.rows.takeWhile fun r => r.arrived).length →
        out ((Spec.moved v.rows v.cols fun r c =>
          ofBytes (Spec.fit v.rowBytes ((q.rows.map fun r => r.bytes).getD r [])) / 2 ^ (w * c) % 2 ^ w).leaves (v.put f.vd) t
          (x.taken f.va.toNat v.rows)))) ∧
    (i = .vpushq f →
      (¬free f.vd.toNat → go = .next s) ∧
      (free f.vd.toNat → out (t, x.appended f.vd.toNat
        ((List.range v.rows).map fun r => Spec.packed w ((List.range v.cols).map (v.get t f.va r)))))) ∧
    ∀ n, i = .vmaxd n f →
      let less (a b : Nat) : Bool :=
        if typeSigned f.t.toNat then (BitVec.ofNat w a).slt (BitVec.ofNat w b) else decide (a < b)
      let wins (r c : Nat) : Bool := less (v.get t f.va r c) (v.get t f.vb r c)
      (¬free (8 + n.toNat) → go = .next s) ∧
      (free (8 + n.toNat) →
        out ((Spec.moved v.rows v.cols fun r c => if wins r c then v.get t f.vb r c else v.get t f.va r c).leaves (v.put f.vd) t
          (x.appended (8 + n.toNat) ((List.range v.rows).map fun r =>
            Spec.packed 1 ((List.range v.cols).map fun c => if wins r c then 1 else 0)))))

/-- Vector words as they are issued and as the vector engine executes them, each row.
Model's choices it rests on: log 30. -/
def Obligations.VectorWords : Prop := Spec.vectorIssue ∧ Spec.vectorExecute ∧ Spec.vectorQueues

/-! ## Matrix commands and semaphores (R316 to R332) -/

/-- A matrix command is checked in the order of R318 and appended to mcq with the ring slots from the ring's read position assigned to
it, the E stream's held writes having been made visible; the issue images follow. While 16 wait in mcq it waits. -/
def Spec.matrixIssue : Prop :=
  ∀ (s : State) (core : Nat) (x : Ctx) (f : FmtM) (w : Insn), s.At (.e core) x →
    let stop (cause : Nat) : Host.Outcome State Fault Refusal := .next (s.stopped (.e core) x cause 0)
    let slabs := slabOk x.partw (f.acc.toNat + (f.ks.extractLsb' 0 6).toNat)
    let cmd (slot0 nslots nxq : Nat) : MCmd :=
      { word := w, pc := x.e.pc, started := false, wsTaken := false, slabs := 0, installed := 0, slot0, nslots, nxq,
        finished := false, refused := none }
    let issued (m : MCmd) (ring : Option Nat) (a b : StatImage) : Host.Outcome State Fault Refusal :=
      .next (((s.advanced (.e core) x).dupFlush (.e core) none).put (.e core)
        { x with
          e := x.e.advance, mcq := x.mcq ++ [m], imgAct := a, imgShad := b,
          readPos := match ring with
            | some n => x.readPos.set 0 n (x.readPos.get 0 n + m.nslots)
            | none => x.readPos })
    let at_ (n : Nat) : Nat := (rgdHead (x.rgd.get 0 n) + x.readPos.get 0 n) % rgdSlots (x.rgd.get 0 n)
    (16 ≤ x.mcq.length → encode (.mswap f) = some w →
      exec (.mswap f) s = .next (s.putStream (.e core) x { x.e with wait := some .mcq })) ∧
    (x.mcq.length < 16 →
    (encode (.mswap f) = some w → exec (.mswap f) s = issued (cmd 0 0 0) none x.imgShad x.imgAct) ∧
    (encode (.mzero f) = some w →
      (slabs = false → exec (.mzero f) s = stop 0x04) ∧
      (slabs = true → exec (.mzero f) s = issued (cmd 0 0 0) none
        (if f.ks.getLsbD 7 then .empty else x.imgAct) (if f.ks.getLsbD 7 then .empty else x.imgShad))) ∧
    (encode (.mloadw f) = some w →
      let r := x.rgd.get 0 f.rb.toNat
      let n := loadSlots f r
      (rgdOk r x.partw = false → exec (.mloadw f) s = stop 0x05) ∧
      (rgdOk r x.partw = true →
        (rgdSlots r < n → exec (.mloadw f) s = stop 0x09) ∧
        (n ≤ rgdSlots r → exec (.mloadw f) s = issued (cmd (at_ f.rb.toNat) n (statXq f.fmtb)) (some f.rb.toNat) x.imgAct
          { fmt := some f.fmtb, sparse := f.ks.getLsbD 1, isSealed := f.ks.getLsbD 0 }))) ∧
    ∀ sparse, let i : Instr := if sparse then .mmuls f else .mmul f
      encode i = some w →
      let r := x.rgd.get 0 f.ra.toNat
      let n := (f.ks.extractLsb' 0 6).toNat + 1
      let k := fmtK f.fmtb
      let fits := x.imgAct.fmt = some f.fmtb ∧ x.imgAct.sparse = sparse ∧
        ¬(sparse = true ∧ f.ks.getLsbD 7 = true ∧ x.imgAct.isSealed = true) ∧ 32 * rowLen k f.fmta ≤ rgdSlotBytes r ∧
        n ≤ rgdSlots r ∧ actXq f.fmta k n ≤ 256
      (slabs = false → exec i s = stop 0x04) ∧
      (slabs = true → rgdOk r x.partw = false → exec i s = stop 0x05) ∧
      (slabs = true → rgdOk r x.partw = true →
        (¬fits → exec i s = stop 0x09) ∧
        (fits → exec i s = issued (cmd (at_ f.ra.toNat) n (actXq f.fmta k n)) (some f.ra.toNat) x.imgAct x.imgShad)))

/-- SEMSIG adds 1 and waits at 65,535. SEMWAIT takes 1 and waits at 0, and while the units do not suffice for the waits that R330
puts before it: commands of the ME, and before an A stream a waiting E stream. MFENCE waits until mcq is empty. -/
def Spec.semaphores : Prop :=
  ∀ (s : State) (ag : Agent) (x : Ctx) (f : FmtP), s.At ag x → (∀ t, ag ≠ .np t) → Spec.noneHeld s ag →
    ((∃ c, ag = .e c) → x.ve = []) →
    let n := (f.imm.extractLsb' 0 5).toNat
    let v := x.msem.get 0 n
    let ahead := x.semAhead (s.core ag.core).shad ag n
    let set_ (v : Nat) : Host.Outcome State Fault Refusal :=
      .next (s.put ag { x.setStream ag (x.stream ag).advance with msem := x.msem.set 0 n v })
    let waits (w : Wait) : Host.Outcome State Fault Refusal := .next (s.putStream ag x { x.stream ag with wait := some w })
    (v < 0xFFFF → exec (.semsig f) s = set_ (v + 1)) ∧
    (0xFFFF ≤ v → exec (.semsig f) s = waits (.signal n)) ∧
    (ahead < v → exec (.semwait f) s = set_ (v - 1)) ∧
    (v ≤ ahead → exec (.semwait f) s = waits (.sem n)) ∧
    ((∀ m ∈ x.mcq, m.f.ws.toNat ≠ n) → (∀ c, ag = .a c → x.e.wait ≠ some (.sem n)) → ahead = 0) ∧
    ∀ c, ag = .e c →
      (x.mcq = [] → exec (.mfence f) s = .next (s.advanced ag x)) ∧
      (x.mcq ≠ [] → exec (.mfence f) s = waits .matrix)

/-- Matrix and semaphore words as they are issued.
Model's choices it rests on: log 2, 30, 52. -/
def Obligations.MatrixWords : Prop := Spec.matrixIssue ∧ Spec.semaphores

/-- ME_COMMAND_START of the head of mcq: it waits on its WS unit, takes it once as it starts, and starts only where its slots and
entries lie in reach. MSWAP exchanges the stationaries; MZERO clears one slab, and with `.st` its last step empties both stationaries
and releases the slots they hold. MLOADW, but for its start, releases the slots that the shadow holds and empties it; then it takes the
values of its slots, opened block by block where they are sealed, or meets INTEGRITY at the block refused. MMULS.md first installs the
entries of mq in the plane; MMUL and MMULS accumulate one slab, each element from its row and its column alone. -/
def Spec.matrixUnits : Prop :=
  ∀ (s : State) (core : Nat) (x : Ctx) (m : MCmd) (rest : List MCmd), (s.core core).ctx = some x → x.phase = .running →
    (s.core core).startAt = none → s.sramEcc = [] → x.mcq = m :: rest → m.finished = false → m.refused = none →
    let k := s.core core
    let f := m.f
    let n := f.ws.toNat
    let v := x.msem.get 0 n
    let ready : Prop := n = 0 ∨ m.wsTaken = true ∨ 0 < v
    let go := exec (.meCommandStart core 0) s
    let leaves (k' : Core) (x' : Ctx) : Prop := go = .next (s.setCore core (k'.setCtx (some x')))
    -- what a command that is to start leaves: its unit taken
    let m' := if m.started then m else { m with started := true, wsTaken := m.wsTaken || n != 0 }
    let begun (x : Ctx) (m' : MCmd) : Ctx :=
      { x with
        msem := if n = 0 ∨ m.wsTaken = true ∨ m.started = true then x.msem else x.msem.set 0 n (v - 1), mcq := m' :: rest }
    let does (k' : Core) (m' : MCmd) : Prop := leaves k' (begun x m')
    let md : Bool := f.ks.getLsbD 7
    (¬ready → go = .next s) ∧
    (ready → m.started = false → x.xqInReach 0 m = false → go = .next s) ∧
    (ready → m.started = false → m.fn ≠ 0 → x.inReach 0 m = false → go = .next s) ∧
    (ready → m.fn = 0 → m.started = false → x.xqInReach 0 m = true →
      let y := x.releaseHeld k.shad
      (y.inReach 0 m = false → leaves { k with shad := .empty } y) ∧
      (y.inReach 0 m = true → leaves { k with shad := .empty } (begun y m'))) ∧
    (ready → m.fn = 0 → m.started = true →
      let there : Prop :=
        (∀ j, j < m.nslots → x.slotFilled f.rb.toNat (x.ringDist f.rb.toNat 0 + j) = true) ∧ x.xqReady 0 m.nxq = true
      let read := x.slotBytes k.sram f.rb.toNat m.slot0 m.nslots
      let loaded (vals : List Byte) (plane : Tbl (BitVec 512)) : Prop := does
        { k with shad :=
          { fmt := some f.fmtb, sparse := f.ks.getLsbD 1, isSealed := f.ks.getLsbD 0, vals, scales := x.xqBytes 0 m.nxq, plane,
            source := some (f.rb.toNat, m.slot0, m.nslots) } }
        { m with finished := true }
      (¬there → go = .next s) ∧
      (there → f.ks.getLsbD 0 = false → loaded (Spec.fit (streamLen f.fmtb false (f.ks.getLsbD 1)) read) []) ∧
      (there → f.ks.getLsbD 0 = true →
        (∀ vals plane, readStream (s.world x.world).wkGens f.fmtb true (f.ks.getLsbD 1) read = .ok (vals, plane) →
          loaded vals plane) ∧
        ∀ b, readStream (s.world x.world).wkGens f.fmtb true (f.ks.getLsbD 1) read = .error b →
          does k { m with refused := some (0x40, b) })) ∧
    (ready → m.started = true ∨ x.inReach 0 m = true →
      (m.fn = 1 → does { k with act := k.shad, shad := k.act } { m' with finished := true }) ∧
      (m.fn = 4 →
        let cleared := zeroSlab x.partw (f.acc.toNat + m.slabs) k.sram
        let m'' := { m' with slabs := m.slabs + 1, finished := decide (slabCount f ≤ m.slabs + 1) }
        (f.ks.getLsbD 7 = false ∨ m.slabs + 1 < slabCount f → does { k with sram := cleared } m'') ∧
        (f.ks.getLsbD 7 = true → slabCount f ≤ m.slabs + 1 → leaves { k with sram := cleared, act := .empty, shad := .empty }
          (((begun x m'').releaseHeld k.act).releaseHeld k.shad))) ∧
      (m.fn = 3 → md = true → m.installed < k.act.k / 2 →
        ((x.queue 15).rows = [] → does k m') ∧
        ∀ r l, (x.queue 15).rows = r :: l →
          leaves { k with act := { k.act with plane := k.act.plane.set 0 m.installed (BitVec.ofNat 512 (ofBytes r.bytes)) } }
            ((begun x { m' with installed := m.installed + 1 }).setQueue 15 { head := ((x.queue 15).head + 1) % 64, rows := l })) ∧
      (m.fn = 2 ∨ m.fn = 3 ∧ (md = true → k.act.k / 2 ≤ m.installed) →
        let per := if matIsMx f.fmta.toNat then k.act.k / 32 else 0
        let ring := f.ra.toNat
        let there : Prop := x.slotFilled ring (x.ringDist ring 0 + m.slabs) = true ∧ x.xqReady (m.slabs * per) per = true
        let acc := k.act.accSlab x.partw (f.acc.toNat + m.slabs) f.fmta (x.slotBytes k.sram ring (m.slot0 + m.slabs) 1)
          (x.xqBytes (m.slabs * per) per) k.sram
        (¬there → does k m') ∧
        (there → leaves { k with sram := acc.1 }
          { begun x { m' with slabs := m.slabs + 1, finished := decide (slabCount f ≤ m.slabs + 1) } with
            mxstat := x.mxstat ||| (acc.2 &&& 0x1D).setWidth 64 }))) ∧
    (∀ (t : Stationary) (slab : Nat) (rows scales : List Byte) (pool : Tbl Byte), ∀ r c, r < 32 → c < 256 →
      let row := (unpackElems (matBits f.fmta.toNat) t.k ((rows.drop (r * rowLen t.k f.fmta)).take (rowLen t.k f.fmta))).map
        (matElem f.fmta.toNat).value
      let xa (b : Nat) : Nat := if matIsMx f.fmta.toNat then (scales.getD (r * (t.k / 32) + b) 0).toNat else 0x7F
      let a := slabAddr x.partw slab r c
      poolRead (t.accSlab x.partw slab f.fmta rows scales pool).1 a 4 = (t.accElem row xa c (poolRead pool a 4)).1 % 2 ^ 32)

/-- ME_COMMAND_RETIRE: the head of mcq, once finished, leaves with its xq entries and signals its SS unit, which it awaits at
65,535; an array command releases its slots, and HEAD advances over the leading released ones. A command that met a fault faults the
task with its cause, its PC and its payload D. -/
def Spec.matrixRetirement : Prop :=
  ∀ (s : State) (core : Nat) (x : Ctx) (m : MCmd) (rest : List MCmd), (s.core core).ctx = some x → x.phase = .running →
    (s.core core).startAt = none → x.mcq = m :: rest →
    let k := s.core core
    let n := m.f.ss.toNat
    let v := x.msem.get 0 n
    let go := exec (.meCommandRetire core) s
    (∀ cause d, m.refused = some (cause, d) → go = .next (s.raise (.core core) 3
      { cause, c := w64 (pcField m.pc), d := w64 d, defer := false, log := none } 0)) ∧
    (m.refused = none → (m.finished = false ∨ n ≠ 0 ∧ v = 0xFFFF) → go = .next s) ∧
    (m.refused = none → m.finished = true → (n = 0 ∨ v ≠ 0xFFFF) →
      let q := x.queue 14
      let gone := { x with mcq := rest }
      let y := if m.fn = 2 ∨ m.fn = 3 then gone.releaseSlots m.f.ra.toNat m.slot0 m.nslots else gone
      go = .next (s.setCore core (k.setCtx (some
        { y with
          msem := if n = 0 then x.msem else x.msem.set 0 n (v + 1),
          queues := if m.nxq = 0 then x.queues
            else x.queues.set .empty 14 { head := (q.head + m.nxq) % 256, rows := q.rows.drop m.nxq } })))) ∧
    ∀ ring used, rgdUsed (x.rgd.get 0 ring) = used → 0 < m.nslots → m.nslots ≤ used → used ≤ rgdSlots (x.rgd.get 0 ring) →
      rgdHead (x.rgd.get 0 ring) < rgdSlots (x.rgd.get 0 ring) →
      (rgdFull (x.rgd.get 0 ring) = true → rgdTail (x.rgd.get 0 ring) = rgdHead (x.rgd.get 0 ring)) → (∀ j, x.released.get false (slotKey ring j) = false) → ring < 8 →
      let r := x.rgd.get 0 ring
      let y := x.releaseSlots ring (rgdHead r) m.nslots
      y.rgd.get 0 ring = rgdWith r ((rgdHead r + m.nslots) % rgdSlots r) (rgdTail r) false ∧
      y.readPos.get 0 ring = x.readPos.get 0 ring - m.nslots ∧
      ∀ j, x.released.get false (slotKey ring j) = y.released.get false (slotKey ring j)

/-- What the matrix engine's units do with a command, and how it retires.
Model's choices it rests on: log 14, 51. -/
def Obligations.MatrixExecution : Prop := Spec.matrixUnits ∧ Spec.matrixRetirement

/-! ## Fences, atomics, exact cells and barriers (R337 to R349) -/

/-- No fence stalls its stream, but for an XFENCE within whose scope a store is on its way to another module. FENCE, of device memory,
and MARK make the stream's own writes that duplicated pages hold visible, and XFENCE then those of every stream of the world in its
scope; OFENCE, and a FENCE of the scratchpad, change nothing. -/
def Spec.fenceWords : Prop :=
  ∀ (s : State) (ag : Agent) (x : Ctx) (f : FmtS), s.At ag x → (x.stream ag).pred f.pg.toNat = true →
    let t := s.advanced ag x
    let flushed := t.dupFlush ag none
    let out := s.storesOut ag x.world (scopeOf f.mod)
    let inScope (o : Agent) : Bool := flushed.agentWorld o == some x.world && withinScope ag (scopeOf f.mod) o
    let fenced := flushed.dupReleaseIf fun d => d.held.any fun h => h.ag.any inScope
    exec (.ofence f) s = .next t ∧
    exec (.fence f) s = .next (if storOf f.mod = 0 then t else flushed) ∧
    exec (.mark f) s = .next flushed ∧
    (out = true → exec (.xfence f) s = .next (s.putStream ag x { x.stream ag with wait := some .fence })) ∧
    (out = false → exec (.xfence f) s = .next fenced) ∧
    Spec.noneHeld flushed ag ∧ (Spec.noneHeld s ag → flushed = t) ∧
    (∀ o, o = ag ∨ s.agentWorld o = some x.world ∧ withinScope ag (scopeOf f.mod) o = true → Spec.noneHeld fenced o) ∧
    (s.dup = [] → fenced = t)

/-- What a stream's held writes leave when they become visible: on a duplicated page on which it holds a write, every held write, one
after another in order of arrival; a held byte then reads as it was written. Nothing else changes, and of memory only granules of held
bytes, where no unit moves and no block is dead. -/
def Spec.heldWrites : Prop :=
  ∀ (s : State) (ag : Agent),
    let u := s.dupFlush ag none
    (∀ d, s.dup = [d] → d.holdsFor ag = true → u = d.held.foldl State.applyHeld { s with dup := [] }) ∧
    (∀ (d : DupPage) (pa : Nat) (b : Byte) (tag : Option EncTag), s.dup = [d] →
      d.held = [{ ag := some ag, bytes := [(pa, b)], tag }] → u.readByte pa tag = b) ∧
    (∀ o, Spec.noneHeld s o → Spec.noneHeld u o) ∧
    { u with mem := s.mem, enc := s.enc, dead := s.dead, ecc := s.ecc, sramEcc := s.sramEcc, dup := s.dup } = s ∧
    (s.motions = [] → s.dead = [] → ∀ p : DupPage → Bool,
      let u := s.dupReleaseIf p
      u.dead = [] ∧ ∀ a v, (∀ d ∈ s.dup, ∀ h ∈ d.held, ∀ q ∈ h.bytes, q.1 / 64 ≠ a / 64) → u.readByte a v = s.readByte a v)

/-- The fences, and what they make visible.
Model's choices it rests on: log 2, 52. -/
def Obligations.Fences : Prop := Spec.fenceWords ∧ Spec.heldWrites

/-- An atomic reads, computes and writes its bytes in one step and gives their old value, in a page with AT; ACAS writes only
where it finds z. An address that is not a multiple of the width takes MISALIGNED. -/
def Spec.atomicWords : Prop :=
  ∀ (s : State) (ag : Agent) (x : Ctx) (f : FmtS) (ord : BitVec 2), s.At ag x → (x.stream ag).pred f.pg.toNat = true →
    let st := x.stream ag
    let n := bytesOf f.sz
    let ea := st.reg f.a.toNat
    ∀ r ∈ Spec.atomics,
      (ea.toNat % n ≠ 0 → exec (r.1 ord f) s =
        .next (s.raise ag.place ag.code { cause := 0x06, c := ea, d := 0, defer := false, log := none } 0)) ∧
      ∀ e, ea.toNat % n = 0 → Spec.AtomicPage s (Spec.unitOf ag) x.world (storOf f.mod) ea n e →
        let pa := e.paOf ea.toNat
        let old := ofBytes (s.loadBytes x.world ea.toNat pa n)
        let w := 8 * n
        let t := s.putStream ag x (st.advance.setReg f.d.toNat (w64 old))
        exec (r.1 ord f) s = .next
          (match r.2 w (BitVec.ofNat w old) (Spec.low w (st.reg f.b.toNat)) (Spec.low w (st.reg f.c.toNat)) with
            | some v => t.storeBytes x.world ea.toNat pa (leBytes n v.toNat)
            | none => t)

/-- The exact cells: AFXINIT writes an empty cell with its exponent, AFXADD adds a value, AFXRD gives the rounded value and the
flags and with `.clr` empties the cell, each in one step on 32 bytes. Additions commute. -/
def Spec.exactCells : Prop :=
  (∀ (c : Cell) (u v : Machine.Num), (c.add u).add v = (c.add v).add u) ∧
  ∀ (s : State) (ag : Agent) (x : Ctx) (f : FmtS) (ord : BitVec 2) (e : TlbEntry), s.At ag x →
    (x.stream ag).pred f.pg.toNat = true →
    let st := x.stream ag
    let ea := st.reg f.a.toNat
    ea.toNat % 32 = 0 → Spec.AtomicPage s (Spec.unitOf ag) x.world 1 ea 32 e →
    let pa := e.paOf ea.toNat
    let c := Cell.ofBits (BitVec.ofNat 256 (ofBytes (s.loadBytes x.world ea.toNat pa 32)))
    let put (st : Stream) (c : Cell) : Host.Outcome State Fault Refusal :=
      .next ((s.putStream ag x st).storeBytes x.world ea.toNat pa (leBytes 32 c.toBits.toNat))
    let v := st.reg f.b.toNat
    let fm := fmtOf f.sz
    let read := (st.advance.setReg f.d.toNat (w64 (fpPut fm false .rne false 0 c.value.exact).1)).setReg f.c.toNat
      (c.flags.setWidth 64)
    exec (.afxinit ord f) s = put st.advance { s := 0, e := v.setWidth 32, flags := 0 } ∧
    (f.sz = 1 → exec (.afxadd ord f) s = put st.advance (c.add (fpDecode .bf16 (v.toNat % 2 ^ 16)))) ∧
    (f.sz = 2 → exec (.afxadd ord f) s = put st.advance (c.add (fpDecode .fp32 (v.toNat % 2 ^ 32)))) ∧
    exec (.afxrd ord f) s = put read c ∧
    exec (.afxrdClr ord f) s = put read { c with s := 0, flags := 0 }

/-- Atomics and exact accumulator cells.
Model's choices it rests on: log 6, 52. -/
def Obligations.AtomicAccesses : Prop := Spec.atomicWords ∧ Spec.exactCells

/-- BARINIT makes an aligned word of device memory live, with its count and no arrival, where its network has room, and the word then
reads as R345 lays it out; a live word
that nothing has arrived at it makes anew, its own place counting as room only where level and instance stay, or retires where the
count is 0; and it refuses with STATE where something has arrived. A count of 65,536 or more takes BAD_OPERAND. -/
def Spec.barrierWords : Prop :=
  ∀ (s : State) (ag : Agent) (x : Ctx) (f : FmtP) (e : TlbEntry), s.At ag x →
    let st := x.stream ag
    let ea := st.reg f.a.toNat
    let n := (st.reg f.b.toNat).toNat
    (65536 ≤ n → exec (.barinit f) s = .next (s.stopped ag x 0x0A 0)) ∧
    (n < 65536 → ea.toNat % 8 = 0 → Spec.PlainPage { s with barriers := [] } (Spec.unitOf ag) x.world 1 ea 8 e →
      let pa := e.paOf ea.toNat
      let key := pa / 8
      let level := f.imm.extractLsb' 0 3
      let who := instanceOf s ag x.world level.toNat
      let net := networkOf level.toNat who.1 who.2
      let answer (v : W64) : State := s.putStream ag x (st.advance.setReg f.d.toNat v)
      let set_ (b : Option Barrier) (v : W64) : Host.Outcome State Fault Refusal :=
        .next { (answer 0).storeBytes x.world ea.toNat pa (leBytes 8 v.toNat) with barriers := s.barriers.set none key b }
      let room (own : Option Nat) : Prop := s.netCount net own < networkCap net.1
      (s.liveAt pa = none →
        (n = 0 → exec (.barinit f) s = .next (answer 0)) ∧
        (n ≠ 0 → ¬room none → exec (.barinit f) s = .next (answer 5)) ∧
        (n ≠ 0 → room none →
          let b : Barrier :=
            { world := x.world, va := ea.toNat, level := level.toNat, count := n, arrived := 0, phase := 0, inst := who.1,
              thread := who.2 }
          exec (.barinit f) s = set_ (some b) b.shown ∧
          ((answer 0).storeBytes x.world ea.toNat pa (leBytes 8 b.shown.toNat)).loadBytes x.world ea.toNat pa 8 =
            leBytes 8 b.shown.toNat)) ∧
      ∀ b, s.liveAt pa = some b →
        (b.arrived ≠ 0 → exec (.barinit f) s = .next (answer 6)) ∧
        (b.arrived = 0 → n = 0 → ∃ v, exec (.barinit f) s = set_ none v) ∧
        (b.arrived = 0 → n ≠ 0 →
          let own := if b.level = level.toNat ∧ b.inst = who.1 ∧ b.thread = who.2 then some key else none
          let c := { b with level := level.toNat, count := n, inst := who.1, thread := who.2 }
          (¬room own → exec (.barinit f) s = .next (answer 5)) ∧ (room own → exec (.barinit f) s = set_ (some c) c.shown)))

/-- BAR arrives at a live word of its instance: short of the count the word counts it, and the stream waits or with `.nw` goes on
with the phase; the last arrival begins the next phase and releases every stream that waits for it; a word that is not live takes
BARRIER_STATE. A waiting BAR goes on once the phase has passed. -/
def Spec.barrierArrival : Prop :=
  ∀ (s : State) (ag : Agent) (x : Ctx) (f : FmtP) (e : TlbEntry), s.At ag x →
    let st := x.stream ag
    let ea := st.reg f.a.toNat
    (∀ r, st.bar = some r →
      (s.phasePassed r = true → exec (.bar f) s =
        .next (s.putStream ag x { st.advance.setReg f.d.toNat (w64 (r.phase + 1).toNat) with bar := none })) ∧
      (s.phasePassed r = false → exec (.bar f) s =
        .next (s.putStream ag x { st.advance with pc := st.pc, bar := some { r with d := f.d }, wait := some .bar }))) ∧
    (st.bar = none → ea.toNat % 8 = 0 → Spec.PlainPage { s with barriers := [] } (Spec.unitOf ag) x.world 1 ea 8 e →
      let pa := e.paOf ea.toNat
      let key := pa / 8
      (s.liveAt pa = none → exec (.bar f) s = .next (s.stopped ag x 0x36 0)) ∧
      ∀ b, s.liveAt pa = some b → b.level < 8 → b.count < 65536 → b.arrived < b.count →
        let who := instanceOf s ag x.world b.level
        let counted := { b with arrived := b.arrived + 1 }
        let turned := { b with arrived := 0, phase := b.phase + 1 }
        let set_ (st : Stream) (b : Barrier) : State :=
          { (s.putStream ag x st).storeBytes x.world ea.toNat pa (leBytes 8 b.shown.toNat) with
            barriers := s.barriers.set none key (some b) }
        (who ≠ (b.inst, b.thread) → exec (.bar f) s = .next (s.stopped ag x 0x36 0)) ∧
        (who = (b.inst, b.thread) → b.arrived + 1 < b.count →
          exec (.bar f) s = .next (set_ (if f.imm.getLsbD 0 then st.advance.setReg f.d.toNat (w64 b.phase.toNat) else
            { st.advance with
              pc := st.pc, wait := some .bar, bar := some { va := ea, pa := key * 8, phase := b.phase, d := f.d } }) counted)) ∧
        (who = (b.inst, b.thread) → b.arrived + 1 = b.count → ∃ t y, exec (.bar f) s = .next t ∧
          t.liveAt pa = some turned ∧ t.loadBytes x.world ea.toNat pa 8 = leBytes 8 turned.shown.toNat ∧
          t.ctx ag.place = some y ∧
          y.stream ag = st.advance.setReg f.d.toNat (w64 (if f.imm.getLsbD 0 then b.phase else b.phase + 1).toNat) ∧
          ∀ o z r, o ≠ ag → s.ctx o.place = some z → z.phase = .running → (z.stream o).bar = some r →
            ∃ z', t.ctx o.place = some z' ∧ z'.stream o =
              if (z.stream o).wait = some .bar ∧ r.pa = key * 8 ∧ r.phase = b.phase then
                { (z.stream o).advance.setReg r.d.toNat (w64 (r.phase + 1).toNat) with bar := none }
              else z.stream o))

/-- Barrier words: made, read, retired and arrived at.
Model's choices it rests on: log 30, 38, 39. -/
def Obligations.Barriers : Prop := Spec.barrierWords ∧ Spec.barrierArrival

/-! ## Counters, tags, submissions, events and triggers (R57 to R91, R350 to R361) -/

/-- CTRADD adds its immediate to a counter of the world, which satisfies the waits that its value reaches, and CTRRD reads one; an
index that no counter has takes BAD_OPERAND and another world's counter NOT_OWNED. TMARM sets a timer of the world, all ones
disarm it, and TMRD reads its deadline. -/
def Spec.countersAndTimers : Prop :=
  ∀ (s : State) (ag : Agent) (x : Ctx) (f : FmtP), s.At ag x →
    let st := x.stream ag
    let a := st.reg f.a.toNat
    let i := a.toNat
    let ctr := s.counter i
    let mine : Prop := x.world = 0 ∨ ctr.alloc = true ∧ ctr.owner = x.world
    let set_ (v : W64) : State := s.putStream ag x (st.advance.setReg f.d.toNat v)
    (262144 ≤ i → ∀ j ∈ [Instr.ctradd f, .ctrrd f], exec j s = .next (s.stopped ag x 0x0A 0)) ∧
    (i < 262144 → ¬mine → ∀ j ∈ [Instr.ctradd f, .ctrrd f], exec j s = .next (s.stopped ag x 0x34 0)) ∧
    (i < 262144 → mine →
      exec (.ctrrd f) s = .next (set_ ctr.value) ∧
      (s.dup = [] →
        let v := ctr.value + (f.imm.extractLsb' 0 6).setWidth 64
        ∃ t, exec (.ctradd f) s = .next t ∧ t.ctx ag.place = some (x.setStream ag st.advance) ∧ t.mem = s.mem ∧
          (t.counter i).value = v ∧ (∀ j, j ≠ i → (t.counter j).value = (s.counter j).value) ∧
          ∀ (k : Nat) (r : PoolRec), s.pool[k]? = some r → ∃ r' : PoolRec, t.pool[k]? = some r' ∧ ∀ n, n < 11 →
            r'.sat.getLsbD n = (r.sat.getLsbD n ||
              (readSlot (wd (recSlots r.words r.ext) n) == .ctr i && decide (wd r.thr n ≤ v))))) ∧
    ∀ k, ag = .np k →
      let n := bits a 0 12
      let d := st.reg f.b.toNat
      let tm := s.timer x.world n
      (s.quota x.world 3 ≤ n → ∀ j ∈ [Instr.tmarm f, .tmrd f], exec j s = .next (s.stopped ag x 0x0A 0)) ∧
      (n < s.quota x.world 3 →
        exec (.tmrd f) s = .next (set_ (if tm.armed then w64 tm.deadline else BitVec.allOnes 64)) ∧
        exec (.tmarm f) s = .next ((s.advanced ag x).setTimer x.world n
          (if d = BitVec.allOnes 64 then Timer.empty else
            { armed := true, deadline := d.toNat, period := bits a 25 39, cls := bits a 12 3, oqn := bits a 15 10,
              due := none })))

/-- TAGALLOC takes the lowest free tag for the world and gives its handle, and without room the fallback handle of its counter;
PUBL publishes an allocated tag, once the copies that it covers are complete, or adds 1 to a fallback's counter; TAGQRY reads; TAGFREE frees a tag with the next generation, or
retires it while records refer to it. A stale handle takes STALE_TAG. -/
def Spec.tags : Prop :=
  ∀ (s : State) (ag : Agent) (x : Ctx) (f : FmtP), s.At ag x →
    let st := x.stream ag
    let a := st.reg f.a.toNat
    let b := st.reg f.b.toNat
    let w := x.world
    let set_ (v : W64) : State := s.putStream ag x (st.advance.setReg f.d.toNat v)
    (a.extractLsb' 0 6 = 0 → a.extractLsb' 56 8 = 0 → b.extractLsb' 50 14 = 0 → bits b 0 25 % 64 = 0 → 64 ≤ bits b 0 25 →
      bits b 0 25 ≤ 2 ^ 24 → bits b 25 3 ≤ 5 → w < 64 → s.mayCount w f.imm.toNat = true → s.tags.wf .empty = true →
      (s.quota w 0 ≤ s.tagCount w → exec (.tagalloc f) s = .next (set_
        ((Config.moduleNumber : BitVec 10) ++ f.imm.setWidth 18 ++ b.extractLsb' 28 22 ++ (1 : BitVec 1) ++
          BitVec.ofNat 6 w ++ (0 : BitVec 7)))) ∧
      ∀ i, i < 131072 → s.tagCount w < s.quota w 0 → (s.tag i).st = .free → (∀ j, j < i → (s.tag j).st ≠ .free) →
        exec (.tagalloc f) s = .next ((set_ ((Config.moduleNumber : BitVec 10) ++ BitVec.ofNat 17 i ++ (s.tag i).gen ++
          BitVec.ofNat 6 w ++ (0 : BitVec 7))).setTag i
            { gen := (s.tag i).gen, world := w, st := .allocated, scope := bits b 25 3, pv := false, pcore := 0, base := a.toNat,
              refs := 0, len := bits b 0 25 })) ∧
    (a.getLsbD 13 = false → s.liveTag a w = none →
      ∀ j ∈ [Instr.publ f, .tagqry f, .tagfree f], exec j s = .next (s.stopped ag x 0x30 0)) ∧
    (∀ i, a.getLsbD 13 = false → s.liveTag a w = some i →
      let t := s.tag i
      exec (.tagqry f) s = .next (set_ t.word0) ∧
      (t.st = .allocated → s.dup = [] → st.wait = none → (∀ c, ag.place = .core c → s.coveredBy c x.disp a w = []) →
        ∃ u, exec (.publ f) s = .next u ∧ u.ctx ag.place = some (x.setStream ag st.advance) ∧
          u.tag i = { t with
            st := .published, pcore := ag.core, pv := match ag with | .np _ => false | _ => true } ∧
          ∀ r ∈ s.pool, (∀ v ∈ recSlots r.words r.ext, readSlot v = .empty ∨ readSlot v = .tag i t.gen.toNat) → r.ready = none →
            ∃ r' ∈ u.pool, r'.recva = r.recva ∧ r'.ready = some s.now) ∧
      (∀ c, ag.place = .core c → t.st = .allocated → st.wait = none →
        let ids := (s.advanced ag x).coveredBy c x.disp a w
        (s.advanced ag x).coverPending c ids a w = true →
          exec (.publ f) s = .next (s.putStream ag x { st with wait := some (.publ ids) })) ∧
      (t.st = .published → exec (.publ f) s = .next (s.stopped ag x 0x33 0)) ∧
      (t.st = .published → t.refs = 0 →
        exec (.tagfree f) s = .next ((s.advanced ag x).setTag i { Tag.empty with gen := t.gen + 2 })) ∧
      (t.st = .published → t.refs ≠ 0 →
        exec (.tagfree f) s = .next ((s.advanced ag x).setTag i { t with gen := t.gen + 2, st := .retired })) ∧
      (t.st = .allocated → ∃ u, exec (.tagfree f) s = .next u ∧ u.tag i = { Tag.empty with gen := t.gen + 2 } ∧
        ∀ r ∈ u.pool, ∀ v ∈ recSlots r.words r.ext, readSlot v ≠ .tag i t.gen.toNat)) ∧
    (a.getLsbD 13 = true → handleHere a w = true → s.mayCount w (handleFctr a) = true → s.dup = [] →
      let c := s.counter (handleFctr a)
      exec (.tagqry f) s = .next (set_ c.value) ∧ exec (.tagfree f) s = .next (s.advanced ag x) ∧
      ∃ u, exec (.publ f) s = .next u ∧ (u.counter (handleFctr a)).value = c.value + 1)

/-- Counters, timers and readiness tags.
Model's choices it rests on: log 13, 26, 30, 46, 47. -/
def Obligations.CountersTagsAndTimers : Prop := Spec.countersAndTimers ∧ Spec.tags

/-- SPAWN, of a record that its reader's page gives, that stands alone and that no case of R31 refuses, and that none of its world waits
before: with room in the pool beyond what returns to it from the overflow queue, the record is admitted, ready at once when no wait slot
holds it back, and d is ADMITTED; without room it goes to the tail of the overflow queue, and d is SPILLED; without room there it waits.
A refused record enters no pool and d holds REFUSED with the cause. With `.nw` d is 0. SPAWN.w names the world that reads the record, in
world 0 alone. -/
def Spec.submissions : Prop :=
  ∀ (s : State) (ag : Agent) (x : Ctx) (f : FmtP) (e : TlbEntry) (world : Nat), s.At ag x →
    let st := x.stream ag
    let va := st.reg f.a.toNat
    let go (i : Instr) (expect : Option Nat) : Prop :=
      Spec.PlainPage s .poleth world 1 va 64 e →
      let words := wordsOf 8 (s.loadBytes world va.toNat (e.paOf va.toNat) 64)
      let q : Submission := { recva := va.toNat, readWorld := world, expect }
      let d (v : Nat) : W64 := if f.imm.getLsbD 0 then 0 else w64 v
      let w := hdrWorld (wd words 0)
      hdrChain (wd words 0) = 0 →
      (refusal s q words [] = none → (∀ t ∈ recTags words [], (s.tag t).refs < 2 ^ 32 - 1) → (∀ o ∈ s.submits, o.world ≠ w) →
        let r := s.newRec q words []
        let u := s.addRefs r.refs
        let returning := s.spilled.countP fun e => e.world == w && !e.dropped
        (s.resident w + returning < s.quota w 1 →
          exec i s = .next { u.putStream ag x (st.advance.setReg f.d.toNat (d 0x10)) with pool := s.pool ++ [r] } ∧
          ((∀ v ∈ (words.drop 4).take 4, readSlot v = .empty) → r.ready = some s.now)) ∧
        (s.quota w 1 ≤ s.resident w + returning →
          (s.ovqRoom w = false → exec i s = .next (s.putStream ag x { st with wait := some .spawn })) ∧
          ∀ base lg, (s.world w).ovq = some (base, lg) → (s.world w).ovCount < 2 ^ lg →
            let at_ := base + 256 * (((s.world w).ovHead + (s.world w).ovCount) % 2 ^ lg)
            ∃ t : State, exec i s = .next t ∧ t.pool = s.pool ∧
              t.spilled = s.spilled ++ [{ recva := va.toNat, readWorld := world, world := w, lastCore := r.lastCore, refs := r.refs,
                                          dropped := false }] ∧
              (t.world w).ovCount = (s.world w).ovCount + 1 ∧
              t.ctx ag.place = some (x.setStream ag (st.advance.setReg f.d.toNat (d 0x11))) ∧
              ∀ e', at_ < 2 ^ 56 → Spec.PlainPage s .poleth w 1 (w64 at_) 256 e' →
                t.loadBytes w at_ (e'.paOf at_) 256 = s.spillEntry at_ r)) ∧
      ∀ cause own, refusal s q words [] = some (cause, own) → ∃ t, exec i s = .next t ∧ t.pool = s.pool ∧
        t.ctx ag.place = some (x.setStream ag (st.advance.setReg f.d.toNat (d (0x12 + cause * 256))))
    (world = x.world → go (.spawn f) (if world = 0 then none else some world)) ∧
    (x.world = 0 → world = (f.imm.extractLsb' 2 6).toNat → go (.spawnW f) (some world)) ∧
    (x.world ≠ 0 → exec (.spawnW f) s = .next (s.stopped ag x 0x01 0))

/-- EVWAIT takes the earliest posted event of the lowest class of its mask and writes its eight words; without one it waits, or
with `.nb` writes zeros. A thread that holds an event ends it with EVDONE, locks its queue with OLOCK once every earlier event of
the queue is released or done, and gives the lock back with OREL; a word 0 that names no event it holds takes EVENT_STATE. -/
def Spec.eventOwnership : Prop :=
  ∀ (s : State) (k : Nat) (x : Ctx) (f : FmtP), s.At (.np k) x → s.dup = [] →
    let ag := Agent.np k
    let st := x.e
    let v := st.reg f.a.toNat
    let eight (l : List W64) : Stream :=
      (List.range 8).foldl (fun st i => st.setReg (f.d.toNat + i) (wd l i)) st.advance
    let posted (e : Event) (c : Nat) : Bool := e.st == .posted && e.world == x.world && e.cls == c
    let bad : Host.Outcome State Fault Refusal := .next (s.stopped ag x 0x35 0)
    let waits (w : Wait) : Host.Outcome State Fault Refusal := .next (s.putStream ag x { st with wait := some w })
    (s.heldCount k < 16 →
      (∀ l e r, s.events = l ++ e :: r → f.imm.getLsbD e.cls = true → e.cls < 8 → posted e e.cls = true →
        (∀ o ∈ l, posted o e.cls = false) → (∀ o ∈ s.events, ∀ c, c < e.cls → f.imm.getLsbD c = true → posted o c = false) →
        exec (.evwait f) s = .next { s.putStream ag x (eight e.words) with
          events := l ++ { e with st := .taken, holder := some k } :: r }) ∧
      ((∀ o ∈ s.events, ∀ c, c < 8 → f.imm.getLsbD c = true → posted o c = false) →
        (f.imm.getLsbD 8 = true → exec (.evwait f) s = .next (s.putStream ag x (eight []))) ∧
        (f.imm.getLsbD 8 = false → exec (.evwait f) s = waits .event))) ∧
    (16 ≤ s.heldCount k → exec (.evwait f) s = bad) ∧
    ((∀ e ∈ s.events, e.named k v = false) → ∀ i ∈ [Instr.evdone f, .olock f, .orel f], exec i s = bad) ∧
    ∀ l e r, s.events = l ++ e :: r → e.named k v = true → (∀ o ∈ l, o.named k v = false) →
      let with_ (l' : List Event) : State := { s.advanced ag x with events := l' }
      (s.held = [] → exec (.evdone f) s = .next (with_ (l ++ r))) ∧
      (let mine := s.events.any fun o => o.heldBy k && o.st == .locked && o.world == e.world && o.oqn == e.oqn;
        (e.st ≠ .taken ∨ mine = true → exec (.olock f) s = bad) ∧
        (e.st = .taken → mine = false →
          (s.grantable e = true → exec (.olock f) s = .next (with_ (l ++ { e with st := .locked } :: r))) ∧
          (s.grantable e = false → exec (.olock f) s = waits .olock))) ∧
      (e.st ≠ .locked → exec (.orel f) s = bad) ∧
      (e.st = .locked → exec (.orel f) s = .next (with_ (l ++ { e with st := .released } :: r)))

/-- SPAWN, and the events and ordering locks of NP threads.
Model's choices it rests on: log 21, 30, 61. -/
def Obligations.SubmissionsAndEvents : Prop := Spec.submissions ∧ Spec.eventOwnership

/-- NOTIFY writes a notify register of another module, or of this one: what the lanterns up to the register's can post by then is posted,
and then the write's own event, with its value and count 1, where the event path runs and the world's quota has room; else the
register's lantern takes the write. Where EN = 0 the write is discarded and reported. PKSEND starts the message of a well-formed
descriptor of its world, waits while 131,072 are outstanding, and answers BAD_DESC, with a report, for another descriptor and for one that
does not stand at a multiple of 64.
Model's choices it rests on: log 27, 30, 43, 46. -/
def Obligations.NotifyAndSend : Prop :=
  ∀ (s : State) (k : Nat) (x : Ctx) (f : FmtP) (e e' : TlbEntry), s.At (.np k) x → s.dup = [] →
    let ag := Agent.np k
    let st := x.e
    let a := st.reg f.a.toNat
    let v := st.reg f.b.toNat
    let reg := bits a 0 12
    let m := bits a 12 10
    let b := s.nbind.get 0 reg
    let set_ (v : W64) (t : State) : State := t.putStream ag x (st.advance.setReg f.d.toNat v)
    (a.extractLsb' 22 42 ≠ 0 → exec (.notify f) s = .next (s.stopped ag x 0x0A 0)) ∧
    (a.extractLsb' 22 42 = 0 →
      let u := (s.lanterns.keys.filter fun r => decide (r ≤ reg)).foldl State.lanternPost (s.advanced ag x)
      let may := u.gate = .running ∧ u.eventRoom (bits b 1 6) (bits b 7 3) = true
      ((∀ r, r ≤ reg → (s.lanterns.get Lantern.empty r).pending = false) → u = s.advanced ag x) ∧
      (m = moduleNo → b.getLsbD 20 = true → may → exec (.notify f) s =
        .next (u.post 0x07 (bits b 1 6) (bits b 7 3) (bits b 10 10) [v, w64 (reg * 2 ^ 16 + 1)])) ∧
      (m = moduleNo → b.getLsbD 20 = true → ¬may → exec (.notify f) s =
        .next { u with lanterns := u.lanterns.set .empty reg ((u.lanterns.get Lantern.empty reg).take v) }.wake) ∧
      (m = moduleNo → b.getLsbD 20 = false → exec (.notify f) s =
        .next ((s.advanced ag x).notifyDiscard (w64 (reg + moduleNo * 2 ^ 12)))) ∧
      (m ≠ moduleNo → s.secureDomain x.world = none → exec (.notify f) s =
        .next { s.advanced ag x with outbox := s.outbox ++ [.notify m reg v] })) ∧
    (a.toNat % 64 ≠ 0 → exec (.pksend f) s =
      .next (set_ 2 (s.dieReport 0 0x26 a 0 (some x.world)))) ∧
    (a.toNat % 64 = 0 → Spec.PlainPage s .poleth x.world 1 a 64 e →
      let l := wordsOf 8 (s.loadBytes x.world a.toNat (e.paOf a.toNat) 64)
      let lva := sdLva l
      let n := sdLen l
      (sdOk s x.world l = false → exec (.pksend f) s = .next (set_ 2 (s.dieReport 0 0x26 a 0 (some x.world)))) ∧
      (sdOk s x.world l = true → s.outbound.length < 131072 → s.linkKeys = [] →
        let sent (bytes : List Byte) : Host.Outcome State Fault Refusal :=
          .next { set_ 0 s with
            nextId := s.nextId + 1, outbound := s.outbound ++ [{ id := s.nextId, world := x.world, desc := l }],
            outbox := s.outbox ++ [.message s.nextId l bytes] }
        (2 ≤ sdOpk l ∨ n = 0 → exec (.pksend f) s = sent []) ∧
        (sdOpk l < 2 → n ≠ 0 → Spec.PlainPage s .poleth x.world 1 (w64 lva) n e' → Spec.onePage s .poleth x.world lva n e' → e'.log2 ≤ 32 →
          exec (.pksend f) s = sent (s.loadBytes x.world lva (e'.paOf lva) n))) ∧
      (sdOk s x.world l = true → 131072 ≤ s.outbound.length →
        exec (.pksend f) s = .next (s.putStream ag x { st with wait := some .outbound })))

/-- TRGARM arms the lowest free entry or descriptor with the image its page gives, where the image may be armed and there is room,
and gives its index in b; without room it answers FULL, and an entry whose counter has reached its threshold fires at once. TRGDIS frees
one of the world and gives what it was; TRGRD reads a word of one.
Model's choices it rests on: log 30, 45. -/
def Obligations.Triggers : Prop :=
  ∀ (s : State) (k : Nat) (x : Ctx) (f : FmtP) (e : TlbEntry), s.At (.np k) x → s.dup = [] →
    let ag := Agent.np k
    let st := x.e
    let a := st.reg f.a.toNat
    let i := a.toNat
    let w := x.world
    let word := (f.imm.extractLsb' 1 3).toNat
    let set_ (v : W64) : State := s.putStream ag x (st.advance.setReg f.d.toNat v)
    let armed (j : Nat) (v : W64) : State := s.putStream ag x ((st.advance.setReg f.d.toNat v).setReg f.b.toNat (w64 j))
    let bytes (n : Nat) : List Byte := s.loadBytes w i (e.paOf i) n
    let mine (o : Nat) : Prop := w = 0 ∨ w = o
    let misaligned : Host.Outcome State Fault Refusal := .next (s.raise (.thread k) 5
      { cause := 0x06, c := a, d := 0, defer := false, log := none } 0)
    (i % 64 ≠ 0 → exec (.trgarmEntry f) s = misaligned) ∧ (i % 32 ≠ 0 → exec (.trgarmDesc f) s = misaligned) ∧
    (i % 64 = 0 → Spec.PlainPage s .poleth w 1 a 64 e →
      let l := trigImage (wordsOf 8 (bytes 64))
      let n := trigCidx l
      let c := s.counter n
      (trigOk s w l = false → exec (.trgarmEntry f) s = .next (set_ 3)) ∧
      (trigOk s w l = true → (wd l 0).getLsbD 0 = true → 64 ≤ c.nwatch → exec (.trgarmEntry f) s = .next (set_ 4)) ∧
      (trigOk s w l = true → ((wd l 0).getLsbD 0 = true → c.nwatch < 64) → s.triggers.wf .empty = true →
        s.quota (trigWorld l) 2 ≤ s.trigCount (trigWorld l) ∨ (∀ o, o < 32768 → (s.trigger o).st ≠ .free) →
        exec (.trgarmEntry f) s = .next (set_ 5)) ∧
      ∀ j, s.triggers.wf .empty = true → (s.trigger j).st = .free → (∀ o, o < j → (s.trigger o).st ≠ .free) → j < 32768 →
        s.trigCount (trigWorld l) < s.quota (trigWorld l) 2 → trigOk s w l = true →
        let t : Trigger := { st := .armed, missed := 0, fires := 0, hits := 0, words := l, arm := s.nextId }
        let u := { armed j 0 with nextId := s.nextId + 1 }.setTrigger j t
        ((wd l 0).getLsbD 0 = false → exec (.trgarmEntry f) s = .next u) ∧
        ((wd l 0).getLsbD 0 = true → c.nwatch < 64 → c.value.toNat < trigThr t →
          exec (.trgarmEntry f) s = .next (u.setCounter n { c with nwatch := c.nwatch + 1 })) ∧
        ((wd l 0).getLsbD 0 = true → c.nwatch < 64 → trigThr t ≤ c.value.toNat → trigAct l ≠ 0 →
          exec (.trgarmEntry f) s = .next
            { (u.setCounter n { c with nwatch := c.nwatch + 1 }).setTrigger j { t with st := .firing, fires := 1 } with
              fired := s.fired ++ [{ entry := j, arm := s.nextId, words := l, value := c.value }] })) ∧
    (i % 32 = 0 → Spec.PlainPage s .poleth w 1 a 32 e →
      let l := wordsOf 4 (bytes 32)
      (ddOk s w l = false → exec (.trgarmDesc f) s = .next (set_ 2)) ∧
      (ddOk s w l = true → s.ddesc.wf [] = true → (∀ o, o < 65536 → s.ddesc.get [] o ≠ []) →
        exec (.trgarmDesc f) s = .next (set_ 5)) ∧
      ∀ j, s.ddesc.wf [] = true → s.ddesc.get [] j = [] → (∀ o, o < j → s.ddesc.get [] o ≠ []) → j < 65536 → ddOk s w l = true →
        exec (.trgarmDesc f) s = .next { armed j 0 with ddesc := s.ddesc.set [] j l }) ∧
    (i < 32768 →
      let t := s.trigger i
      let c := s.counter (trigCidx t.words)
      ((t.st = .free ∨ ¬mine (trigWorld t.words)) →
        exec (.trgdisEntry f) s = .next (set_ 0) ∧ exec (.trgrdEntry f) s = .next (set_ 0)) ∧
      (t.st ≠ .free → mine (trigWorld t.words) →
        exec (.trgrdEntry f) s = .next (set_ (t.word word)) ∧
        exec (.trgdisEntry f) s = .next
          ((if t.st ≠ .disarmed ∧ trigCounter t = true then
            (set_ t.word0).setCounter (trigCidx t.words) { c with nwatch := c.nwatch - 1 } else set_ t.word0).setTrigger i
              .empty))) ∧
    (i < 65536 → ∀ l, s.ddesc.get [] i = l →
      (l = [] ∨ ¬mine (ddWorld l) → exec (.trgdisDesc f) s = .next (set_ 0) ∧ exec (.trgrdDesc f) s = .next (set_ 0)) ∧
      (l ≠ [] → mine (ddWorld l) →
        exec (.trgrdDesc f) s = .next (set_ (wd l word)) ∧
        exec (.trgdisDesc f) s = .next { set_ 1 with ddesc := s.ddesc.set [] i [] })) ∧
    (32768 ≤ i → ∀ j ∈ [Instr.trgdisEntry f, .trgrdEntry f], exec j s = .next (s.stopped ag x 0x0A 0)) ∧
    (65536 ≤ i → ∀ j ∈ [Instr.trgdisDesc f, .trgrdDesc f], exec j s = .next (s.stopped ag x 0x0A 0))

/-! ## Supervisor operations (R139, R155, R157, R362 to R366) -/

/-- MIGCMD. START takes the request that stands in device memory: refused it answers its status and does nothing else, and granted
it takes the lowest free slot, whose record copies, and sets MOT in the leaf. CANCEL and RELEASE move a record as R143 gives,
QUERY writes the record's image, LIVEMARK marks a block, HOTCFG and ERRLOG place their tables.
Model's choices it rests on: log 30, 48, 49, 50, 66. -/
def Obligations.MigrationCommands : Prop :=
  ∀ (s : State) (k : Nat) (x : Ctx) (f : FmtP), s.At (.np k) x → x.world = 0 → s.dup = [] →
    let a := (x.e.reg f.a.toNat).toNat
    let b := x.e.reg f.b.toNat
    let n := b.toNat
    let set_ (v : Nat) (t : State) : Host.Outcome State Fault Refusal :=
      .next (t.putStream (.np k) x (x.e.advance.setReg f.d.toNat (w64 v)))
    let m := s.motion a
    (b ≠ 0 → ∀ i ∈ [Instr.start f, .cancel f, .release f], exec i s = .next (s.stopped (.np k) x 0x0A 0)) ∧
    (b = 0 → a % 32 = 0 → installed a 32 = true → s.tierDown a = false → s.tierDown (a + 31) = false → s.ecc = [] → s.hotArray = none →
      let l := wordsOf 4 ((List.range 32).map fun i => s.readByte (a + i) none)
      (∀ st, s.motionRequest l = .inl st → exec (.start f) s = set_ st s) ∧
      ∀ r i lf, s.motionRequest l = .inr r → s.freeSlot = some i → r.leaves = [lf] → s.motions = [] →
        r.st = .copying ∧ r.cur = 0 ∧ r.va = bits (wd l 0) 0 56 ∧ r.world = bits (wd l 0) 56 6 ∧
          ∃ t : State, exec (.start f) s = set_ (i * 256) (t.setMotion i { r with leaves := [{ lf with value := withMot (s.read64 lf.pte) 1 }] }) ∧
            t.read64 lf.pte = withMot (s.read64 lf.pte) 1) ∧
    (b = 0 → a < 256 →
      (m.st = .free ∨ m.st = .aborting → exec (.cancel f) s = set_ 6 s) ∧
      (m.st = .committing → exec (.cancel f) s = set_ 0x0A s) ∧
      (m.st = .copying ∨ m.st = .draining → m.alone = false →
        exec (.cancel f) s = set_ 0 (s.setMotion a { m with st := .aborting, stat := 6, failed := (0, 0) })) ∧
      (m.st = .aborting → m.stat = 4 ∨ m.stat = 5 →
        exec (.release f) s = set_ 0 (s.setMotion a { m with st := .free, leaves := [] })) ∧
      (m.st ≠ .aborting → exec (.release f) s = set_ 6 s)) ∧
    (a < 256 → installed n 96 = true → s.tierDown n = false → s.tierDown (n + 95) = false → s.hotArray = none →
      exec (.query f) s = set_ 0 (s.writePa n (m.image.flatMap fun v => leBytes 8 v.toNat))) ∧
    (a % 2 ^ 21 = 0 → windowOf a = some .t0 ∨ windowOf a = some .t1 →
      (n = 0 → s.motions = [] → exec (.livemark f) s = set_ 0 { s with dead := s.dead.set false (a / 2 ^ 21) true }) ∧
      (n = 1 → ∃ t, exec (.livemark f) s = set_ 0 t ∧ t.dead.get false (a / 2 ^ 21) = false ∧
        (s.dead.get false (a / 2 ^ 21) = true → s.mem.wf 0 = true → s.enc.wf none = true → s.motions = [] →
          ∀ i v, i < 2 ^ 21 → t.readByte (a + i) v = 0))) ∧
    (n ≤ 12 → installed a 9699328 = true → ∃ t, exec (.hotcfg f) s = set_ 0 t ∧ t.hotArray = some (a, n) ∧
      (s.mem.wf 0 = true → s.enc.wf none = true → s.motions = [] → ∀ i, i < 9699328 → t.readByte (a + i) none = 0)) ∧
    (6 ≤ n → n ≤ 16 → installed a (64 + 32 * 2 ^ n) = true → exec (.errlog f) s = set_ 0 { s with errRing := some (a, n) })

/-- PMCMD on partitions and what they own. PCREATE makes a partition and PCHANGE changes its cores and threads, refused with STATE
where R15 or R98 forbids it; PRESET leaves no task, pool record or translation of the world; PDESTROY also takes the partition;
QUOTA sets a quota inside its bound; CTRALLOC gives counters of value 0 to a world and CTRFREE takes them back.
Model's choices it rests on: log 26, 29, 64. -/
def Obligations.PartitionCommands : Prop :=
  ∀ (s : State) (k : Nat) (x : Ctx) (f : FmtP) (e : TlbEntry) (l : List W64), Spec.Request s k x f e l →
    let w := (wd l 0).toNat
    let n := (wd l 1).toNat
    let m := (wd l 2).toNat
    let mask : BitVec 128 := wd l 2 ++ wd l 1
    let threads := (wd l 3).toNat
    let part := (s.world w).part
    (w < 64 → threads ≤ 192 →
      (part = none → s.secondHolder w mask = false → exec (.pcreate f) s =
        (s.setWorld w { s.world w with part := some { cores := mask, threads, failed := false, debug := false } }).answers k x f 0) ∧
      (part.isSome = true ∨ s.secondHolder w mask = true → exec (.pcreate f) s = s.answers k x f 6) ∧
      (part = none → exec (.pchange f) s = s.answers k x f 6) ∧
      ∀ p, part = some p → s.secondHolder w mask = false →
        (∀ c, c < 128 → p.cores.getLsbD c = true → mask.getLsbD c = false → (s.core c).without w) → exec (.pchange f) s =
          (s.setWorld w { s.world w with part := some { p with cores := mask, threads } }).answers k x f 0) ∧
    (w < 64 → part = none → exec (.preset f) s = s.answers k x f 6 ∧ exec (.pdestroy f) s = s.answers k x f 6) ∧
    (w < 64 → w ≠ 0 → part.isSome = true → x.a.bar = none → x.e.bar = none → ∀ i ∈ [Instr.preset f, .pdestroy f], ∃ t, exec i s = .next t ∧
      (∀ c, (t.core c).without w) ∧ (∀ r ∈ t.pool, r.world ≠ w) ∧ (∀ r ∈ t.tlb, r.world ≠ w) ∧
      t.ctx (.thread k) = some (x.setStream (.np k) ((x.e.advance.setReg f.d.toNat 0).setReg f.d.toNat 0)) ∧
      ((t.world w).part = none ↔ i = .pdestroy f)) ∧
    (∀ key bound, quotaKind n = some (key, bound) → w < 64 → ¬(w = 0 ∧ key = 16 ∧ m < 512) →
      (bound < s.otherQuotas w key + m → exec (.quota f) s = s.answers k x f 5) ∧
      (s.otherQuotas w key + m ≤ bound → s.held = [] → exec (.quota f) s =
        (s.setWorld w { s.world w with quota := (s.world w).quota.set 0 key m }).answers k x f 0)) ∧
    (w < 64 → n + m ≤ 262144 →
      ((∃ i, n ≤ i ∧ i < n + m ∧ (s.counter i).alloc = true) → exec (.ctralloc f) s = s.answers k x f 6) ∧
      ((∀ i, n ≤ i → i < n + m → (s.counter i).alloc = false) → ∃ t : State, exec (.ctralloc f) s = t.answers k x f 0 ∧
        ∀ i, t.counter i = if n ≤ i ∧ i < n + m then { value := 0, alloc := true, owner := w, nwatch := 0 } else s.counter i) ∧
      ((∃ i, n ≤ i ∧ i < n + m ∧ s.ownsCounter w i = false) → exec (.ctrfree f) s = s.answers k x f 6) ∧
      ((∀ i, n ≤ i → i < n + m → s.ownsCounter w i = true) → ∃ t : State, exec (.ctrfree f) s = t.answers k x f 0 ∧
        ∀ i, (t.counter i).alloc = if n ≤ i ∧ i < n + m then false else (s.counter i).alloc))

/-- PMCMD on words and tables: each takes its fields from the request block, where the world has a partition and the values are in
range: frames, shadow slots, watchdog, translation, debug and tracking words, invalidation, overflow queue and region, notify and
job bindings. -/
def Spec.wordCommands : Prop :=
  ∀ (s : State) (k : Nat) (x : Ctx) (f : FmtP) (e : TlbEntry) (l : List W64), Spec.Request s k x f e l →
    let w := (wd l 0).toNat
    let n := (wd l 1).toNat
    let y := s.world w
    let sets (i : Instr) (y : World) : Prop := exec i s = (s.setWorld w y).answers k x f 0
    (∀ p, w < 64 → y.part = some p →
      (bits (wd l 1) 0 5 ≤ 24 → sets (.wdog f) { y with wdog := wd l 1 &&& 0x3F }) ∧
      sets (.xlate f) { y with ttw := wd l 1 &&& 0xFFFFFFFFF8001, domw := wd l 2 &&& 0x1FFFFFF } ∧
      (n < 2 → sets (.debug f) { y with part := some { p with debug := n == 1 } }) ∧
      (n < 16 → ((wd l 2).getLsbD 0 = true → bits (wd l 3) 0 40 ≠ 0) → sets (.track f)
        { y with
          track := ((y.track.set 0 (3 * n) (wd l 2 &&& 0xFFFFFFFFFF0001)).set 0 (3 * n + 1) (wd l 3 &&& 0xFFFFFFFFFF)).set 0
            (3 * n + 2) (wd l 4 &&& 0xFFFFFFFFFFFC0) })) ∧
    (w < 64 → y.part = none → ∀ i ∈ [Instr.xlate f, .wdog f, .debug f, .track f],
      exec i s = s.answers k x f 6 ∨ exec i s = s.answers k x f 1) ∧
    (w < 64 → ∃ t : State, exec (.inval f) s = t.answers k x f 0 ∧ { t with tlb := s.tlb } = s ∧ ∀ r, r ∈ t.tlb ↔ r ∈ s.tlb ∧
      ¬(r.world = w ∧ ((wd l 2).toNat = 0 ∨
        r.base * 2 ^ r.log2 < n + (wd l 2).toNat ∧ n < (r.base + 1) * 2 ^ r.log2))) ∧
    (w < 64 → n % 256 = 0 → 10 ≤ (wd l 2).toNat → (wd l 2).toNat ≤ 24 →
      sets (.ovq f) { y with ovq := some (n, (wd l 2).toNat), ovHead := 0 }) ∧
    (w < 64 → (wd l 3).toNat < 2 ^ 13 → sets (.rxovf f)
      { y with rxovf := some (n, (wd l 2).toNat, bits (wd l 3) 10 3, bits (wd l 3) 0 10), rxFill := 0 }) ∧
    (w < 4096 →
      let t := { s with nbind := s.nbind.set 0 w (wd l 1 &&& 0x1FFFFF) }
      ((s.lanterns.get .empty w).pending = false ∨ (wd l 1).getLsbD 20 = true → exec (.nbind f) s = t.answers k x f 0) ∧
      ((s.lanterns.get .empty w).pending = true → (wd l 1).getLsbD 20 = false → exec (.nbind f) s =
        ({ t with lanterns := s.lanterns.set .empty w .empty }.notifyDiscard (w64 w)).answers k x f 0)) ∧
    (w < 2 ^ 24 →
      (n = 64 → exec (.jbind f) s = { s with jobs := s.jobs.set none w none }.answers k x f 0) ∧
      (n < 64 → s.jobs.length < 4096 → exec (.jbind f) s = { s with jobs := s.jobs.set none w (some n) }.answers k x f 0)) ∧
    (w < 128 → n < 64 → (wd l 2).toNat % 4096 = 0 → (wd l 2).toNat + (wd l 3).toNat ≤ 2 ^ 27 → (wd l 3).toNat ≠ 0 →
      exec (.shslot f) s = (s.setCore w { s.core w with
        shadow := (s.core w).shadow.set (0, 0) n ((wd l 2).toNat, (wd l 3).toNat) }).answers k x f 0) ∧
    (w < 128 → n < 16 →
      let c := s.core w
      let v := wd l 2 &&& 0xFFFFFF
      frameBad c n v = false → s.frameRefused w n v = false →
      (c.ftctl.getLsbD 6 = false → exec (.frame f) s = (s.setCore w { c with ft := c.ft.set 0 n v }).answers k x f 0) ∧
      (c.ftctl.getLsbD 6 = true → n < ftNft c.ftctl →
        exec (.frame f) s = (s.setCore w { c with ftNew := c.ftNew.set none n (some v) }).answers k x f 0))

/-- BUFRD gives and clears a buffer's counts and OWNRD gives a bank's owner tag, in words 6 and 7 of the block; DLOGSWAP replaces
the bitmap of an enabled tracked range and gives the old one, or 0 where there is none. -/
def Spec.resultCommands : Prop :=
  (∀ (s : State) (k : Nat) (x : Ctx) (f : FmtP) (e : TlbEntry) (l : List W64), Spec.Request s k x f e l →
    let w := (wd l 0).toNat
    let n := (wd l 1).toNat
    let y := s.world w
    (w < 64 → n < 256 → exec (.bufrd f) s =
      (((s.withResult x f e 6 (w64 (y.bufBytes.get 0 n))).withResult x f e 7 (w64 (y.bufStall.get 0 n))).setWorld w
        { y with bufBytes := y.bufBytes.set 0 n 0, bufStall := y.bufStall.set 0 n 0 }).answers k x f 0) ∧
    (64 ≤ w ∨ 256 ≤ n → exec (.bufrd f) s = s.answers k x f 1) ∧
    (w < 128 → n < 64 →
      exec (.ownrd f) s = (s.withResult x f e 6 (w64 ((s.core w).owner.get 0 n))).answers k x f 0) ∧
    (128 ≤ w ∨ 64 ≤ n → exec (.ownrd f) s = s.answers k x f 1)) ∧
  ∀ (s : State) (k : Nat) (x : Ctx) (f : FmtP), s.At (.np k) x → x.world = 0 → s.dup = [] →
    let a := x.e.reg f.a.toNat
    let b := x.e.reg f.b.toNat
    let w := bits a 0 6
    let i := 3 * bits a 6 4
    let y := s.world w
    (b.extractLsb' 0 6 ≠ 0 ∨ b.extractLsb' 52 12 ≠ 0 → exec (.dlogswap f) s = .next (s.stopped (.np k) x 0x0A 0)) ∧
    (b.extractLsb' 0 6 = 0 → b.extractLsb' 52 12 = 0 →
      (y.part.isSome = true → (y.track.get 0 i).getLsbD 0 = true → exec (.dlogswap f) s =
        .next ((s.setWorld w { y with track := y.track.set 0 (i + 2) b }).putStream (.np k) x
          (x.e.advance.setReg f.d.toNat (y.track.get 0 (i + 2))))) ∧
      (y.part = none ∨ (y.track.get 0 i).getLsbD 0 = false → exec (.dlogswap f) s =
        .next (s.putStream (.np k) x (x.e.advance.setReg f.d.toNat 0))))

/-- PMCMD on the words and tables of worlds, and its results.
Model's choices it rests on: log 22, 25, 26, 30. -/
def Obligations.TablesOfWorlds : Prop := Spec.wordCommands ∧ Spec.resultCommands

/-- RELCTX on a unit below 320 to which no response is still due: a held context is discarded, resumed or saved, an image is
loaded, one of orphan copies alone too, a world is stopped or started again, and a running task of a debugged world enters and leaves
debug halt; each is refused with STATE where the unit holds no such context. Images are read and written here over links that are up and
bytes without error; over a T2 port whose link is down SAVE and LOAD take TIER_DOWN.
Model's choices it rests on: log 16, 17, 18, 30, 31, 32. -/
def Obligations.ContextCommands : Prop :=
  ∀ (s : State) (k : Nat) (x : Ctx) (f : FmtP) (e : TlbEntry) (l : List W64), Spec.Request s k x f e l →
    let u := (wd l 0).toNat
    let w := (wd l 3).toNat
    let pa := (wd l 2).toNat
    let s' := s.putStream (.np k) x (x.e.advance.setReg f.d.toNat 0)
    let c := s'.core u
    let m := s'.imageAt pa
    let plain := (∀ a, s.tierDown a = false) ∧ s.sramEcc = []
    let down : Host.Outcome State Fault Refusal := .next (s.raise (.thread k) 5
      { cause := 0x23, c := w64 pa, d := 0x70, defer := false, log := none } 0)
    (320 ≤ u → ∀ i ∈ [Instr.resume f, .save f, .load f, .stopw f, .startw f, .dhalt f, .dresume f],
      exec i s = s'.answers k x f 1) ∧
    (u < 320 → u ≠ 128 + k → s'.lateAt u = false →
      (s'.heldAt u = none → exec (.resume f) s = s'.answers k x f 6 ∧
        (f.imm.extractLsb' 0 8 = 0x14 → wd l 1 = 0 → exec (.discard f) s = s'.answers k x f 6) ∧
        (s'.haltedAt u = none → exec (.save f) s = s'.answers k x f 6)) ∧
      (∀ y n, u < 128 → c.ctx = some y → y.phase = .held n → c.other = none → s'.reportHeld u = false →
        (f.imm.extractLsb' 0 8 = 0x14 → wd l 1 = 0 → exec (.discard f) s =
          (s'.setCore u (({ c.orphan y.disp with act := .empty, shad := .empty }).setCtx none)).answers k x f 0) ∧
        (y.pending = none → (∀ r, y.primary = some r → r.b.getLsbD 26 = false) → y.statAct = .empty → y.statShad = .empty →
          exec (.resume f) s =
            (s'.setCore u ({ c with
                deadlock := 0, act := .empty, shad := .empty,
                startAt := if y.claimNs = 0 then c.startAt else some (c.startAt.getD s.now + y.claimNs) }.setCtx
              (some { y with primary := none, phase := .running, claimNs := 0 }))).answers k x f 0) ∧
        (pa % 4096 = 0 →
          installed pa (s'.imageOf u y.world (some y) (c.copies.filter fun p => p.task == some y.disp) false true).len = true →
          s.tierDown pa = true → exec (.save f) s = down) ∧
        (pa % 4096 = 0 → plain →
          installed pa (s'.imageOf u y.world (some y) (c.copies.filter fun p => p.task == some y.disp) false true).len = true →
          ∃ t y', exec (.save f) s = .next t ∧ (t.core u).ctx = none ∧ (∀ p ∈ (t.core u).copies, p.task ≠ some y.disp) ∧
            t.ctx (.thread k) = some y' ∧ (f.d ≠ 0 → y'.e.reg f.d.toNat = 0))) ∧
      (s'.bankFree u = false → pa % 4096 = 0 → installed pa 0x40000 = true → exec (.load f) s = s'.answers k x f 9) ∧
      (s'.bankFree u = true → pa % 4096 = 0 → installed pa 0x40000 = true → s.tierDown pa = true →
        exec (.load f) s = down) ∧
      (s'.bankFree u = true → pa % 4096 = 0 → installed pa 0x40000 = true → plain →
        (s'.imageOk m u = false → exec (.load f) s = s'.answers k x f 1) ∧
        (s'.imageOk m u = true → installed pa (imageLen m) = true → u < 128 → rdWord m 0x008 = 0 →
          exec (.load f) s = (s'.installOrphans u m).answers k x f 0) ∧
        (s'.imageOk m u = true → installed pa (imageLen m) = true → rdWord m 0x008 ≠ 0 →
          let plc := s'.loadPlace u (imgWorld m)
          let dst := s'.placePa u (imgWorld m) plc
          let v : Saved :=
            { core := u, world := imgWorld m, plc, pa := dst, ctx := some (s'.loadedBase u m), copies := [], late := [] }
          let t := s'.copyGranules pa dst (imageLen m / 64)
          let t : State := { t with nextDisp := t.nextDisp + 1, saved := t.saved ++ [v] }
          (t.mayReturn v = false → exec (.load f) s = t.answers k x f 0) ∧
          (t.mayReturn v = true → exec (.load f) s = (t.restore v).answers k x f 0))) ∧
      (∀ p, 0 < w → w < 64 → (s.world w).part = some p → x.world = 0 →
        (s'.finishing w (some k) = false → ∃ t : State, exec (.stopw f) s = .next t ∧ (t.world w).part = some { p with failed := true } ∧
          (∀ c y, (t.core c).ctx = some y → y.world = w → y.phase ≠ .running) ∧
          ∀ n y, t.ctx (.thread n) = some y → y.world = w → y.phase ≠ .running) ∧
        (p.failed = true → exec (.startw f) s =
          (s'.setWorld w { s.world w with part := some { p with failed := false } }).answers k x f 0) ∧
        (p.failed = false → exec (.startw f) s = s'.answers k x f 6)) ∧
      (w < 64 → (s.world w).part = none → ∀ i ∈ [Instr.stopw f, .startw f], exec i s = s'.answers k x f 6) ∧
      (s.ctx (placeOf u) = none → ∀ i ∈ [Instr.dhalt f, .dresume f], exec i s = s'.answers k x f 6) ∧
      ∀ y, s.ctx (placeOf u) = some y →
        (y.phase = .running → s.debugOn y.world = true → y.finishing = false → s'.chunkOut (placeOf u) = false →
          ∃ t z, exec (.dhalt f) s = .next t ∧ t.ctx (placeOf u) = some z ∧
          z.phase = .halted ∧ z.world = y.world) ∧
        (y.phase ≠ .running ∨ s.debugOn y.world = false → exec (.dhalt f) s = s'.answers k x f 6) ∧
        (y.phase ≠ .halted → exec (.dresume f) s = s'.answers k x f 6) ∧
        (y.phase = .halted →
          (s'.haltedImage u y.world = none → exec (.dresume f) s = s'.answers k x f 6) ∧
          ∀ v, s'.haltedImage u y.world = some v → plain →
            (s'.imageOk (s'.imageAt v.pa) u = false → exec (.dresume f) s = s'.answers k x f 1) ∧
            (s'.imageOk (s'.imageAt v.pa) u = true → ∃ t z, exec (.dresume f) s = .next t ∧
              t.ctx (placeOf u) = some z ∧ (z.phase = .running ∨ z.phase = .stopping))))

/-- KEYCMD: an operation whose block names nothing that it does not use is refused with BAD_REQ, ENTROPY or SIG_EXHAUSTED as its
rule gives, or accepted to finish later; WDESTROY zeroises every key of its world at once, and HEALTH says whether the random
generator has failed. -/
def Spec.keyCommands : Prop :=
  ∀ (s : State) (k : Nat) (x : Ctx) (f : FmtP) (e : TlbEntry) (l : List W64), Spec.Request s k x f e l →
    let set_ (st : Nat) (t : State) : Host.Outcome State Fault Refusal :=
      .next (t.putStream (.np k) x (x.e.advance.setReg f.d.toNat (w64 st)))
    let w := bits (wd l 0) 0 6
    let d := bits (wd l 0) 6 12
    let y := s.world w
    let accepted (op : Nat) : Host.Outcome State Fault Refusal := set_ 0 { s with keyOps := s.keyOps ++ [keyRequest op l] }
    let cur := currentGen y.wkGens
    (∀ op i n, (op, i, n) ∈ [(0, Instr.wcreate f, 2), (1, .wdestroy f, 2), (2, .linkgen f, 2), (3, .wkimport f, 5),
        (4, .wkgen f, 2), (5, .seal f, 5), (6, .attest f, 5), (7, .health f, 2)] →
      keyBlockOk n l = false ∨ (d ≠ 0 ∧ op ≠ 2) → exec i s = set_ 1 s) ∧
    (keyBlockOk 2 l = true →
      (s.domainKey w d = none → exec (.linkgen f) s = set_ 1 s) ∧
      (∀ q, s.domainKey w d = some q → y.memKey.isSome = true → nextGen q.gens ≤ 0xFFFF →
        exec (.linkgen f) s = if s.trngFailed then set_ 0x0B s else accepted 2)) ∧
    (d = 0 →
      (keyBlockOk 2 l = true →
        (y.memKey.isSome = true → exec (.wcreate f) s = set_ 1 s) ∧
        (y.memKey = none → exec (.wcreate f) s = (if s.trngFailed then set_ 0x0B s else accepted 0) ∧
          exec (.wkgen f) s = set_ 1 s) ∧
        (y.memKey.isSome = true → nextGen y.wkGens ≤ 0xFFFF →
          exec (.wkgen f) s = if s.trngFailed then set_ 0x0B s else accepted 4) ∧
        exec (.wdestroy f) s = set_ 0
          { s.setWorld w { y with memKey := none, epochs := y.epochs + 1, wkGens := [], wkNonce := [], attested := 0 } with
            stalled := s.stalled.filter fun m => m.1 != w,
            linkKeys := s.linkKeys.filter fun p => p.2.all fun q : LinkKey => q.world != w } ∧
        exec (.health f) s = set_ (if s.trngFailed then 0x100 else 0) s) ∧
      (keyBlockOk 5 l = true →
        (wd l 3 = 40 → y.memKey.isSome = true → (wd l 4).toNat ≤ 0xFFFF →
          (y.wkGens = [] ∨ cur < (wd l 4).toNat → exec (.wkimport f) s = accepted 3) ∧
          (y.wkGens ≠ [] → (wd l 4).toNat ≤ cur → exec (.wkimport f) s = set_ 1 s)) ∧
        (y.wkGens ≠ [] → (wd l 3).toNat ≤ 983040 → (wd l 4).toNat % 512 = 0 → exec (.seal f) s = accepted 5) ∧
        (y.wkGens = [] → exec (.seal f) s = set_ 1 s) ∧
        exec (.attest f) s =
          if 2 ^ 30 ≤ s.lms then set_ 0x0C s else if s.trngFailed then set_ 0x0B s else accepted 6))

/-! ## Scheduling (R30 to R37, R90 to R105, R187, R383 to R406) -/

/-- ADMISSION decides the first waiting submission: a record that cannot be read is reported, as is one that a case of R31 refuses, with
the cause of the first such case, also in its byte LASTC where the record is aligned; one that passes every case joins the pool with its
references where its world has a resident place beyond those that its overflow queue returns to, spills where it has none, and waits where
neither has room. OVERFLOW_RETURN takes the head of a world's overflow queue back: a discarded entry is dropped, a verified one is
resident again, and another, or one whose read faults, is reported and discarded. -/
def Spec.admissions : Prop :=
  (∀ (s s1 : State) (q : Submission) (rest : List Submission) (words ext : List W64), s.submits = q :: rest →
    (∀ e, s.readRecord q.readWorld q.recva = .error e →
      let t := (s.logFault e).dieReport (w64 q.recva) e.cause e.c (e.d ||| 1) (some q.readWorld)
      exec .admission s = .next { t with submits := rest }) ∧
    (s.readRecord q.readWorld q.recva = .ok (words, ext, s1) → ∀ (i : Nat) (p : Prop) (cause : Nat) (own : Bool),
      let cases := Spec.refusals s1 q words ext
      cases[i]? = some (p, cause, own) → p → (∀ j c, j < i → cases[j]? = some c → ¬c.1) →
      let written : State × Bool := if q.recva % 64 = 0 then s1.writeLastc q.readWorld q.recva cause else (s1, false)
      exec .admission s = .next { written.1.dieReport (w64 q.recva) cause 0 (if written.2 then 0 else 1)
        (some (if own then bits (wd words 0) 2 6 else q.readWorld)) with submits := rest }) ∧
    (s.readRecord q.readWorld q.recva = .ok (words, ext, s1) → (∀ c ∈ Spec.refusals s1 q words ext, ¬c.1) →
      let r := s1.newRec q words ext
      (∀ i ∈ r.refs, (s1.tag i).refs < 2 ^ 32 - 1) →
      let returning := s1.spilled.countP fun v => v.world == r.world && !v.dropped
      (s1.resident r.world + returning < s1.quota r.world 1 →
        exec .admission s = .next { s1.addRefs r.refs with pool := s1.pool ++ [r], submits := rest }) ∧
      (s1.quota r.world 1 ≤ s1.resident r.world + returning →
        (s1.ovqRoom r.world = true →
          exec .admission s = .next { (s1.addRefs r.refs).spill r r.refs with submits := rest }) ∧
        (s1.ovqRoom r.world = false → rest = [] → exec .admission s = .next s)))) ∧
  ∀ (s s1 : State) (w base lg : Nat) (e : Spilled) (rest : List Spilled) (l : List Byte), (s.world w).ovq = some (base, lg) →
    s.spilled = e :: rest → e.world = w → (s.world w).ovCount ≠ 0 → s.resident w < s.quota w 1 →
    let x := s.world w
    let va := base + 256 * (x.ovHead % 2 ^ lg)
    let s0 : State := { s.setWorld w { x with ovHead := (x.ovHead + 1) % 2 ^ lg, ovCount := x.ovCount - 1 } with spilled := rest }
    (e.dropped = true → exec (.overflowReturn w) s = .next s0) ∧
    (e.dropped = false → ∀ fault, s0.readVa 7 w va 256 = .error fault → exec (.overflowReturn w) s =
      .next ((s0.logFault fault).dieReport (w64 e.recva) 0x37 0 1 (some w))) ∧
    (e.dropped = false → s0.readVa 7 w va 256 = .ok (l, s1) →
      let mac := (Config.spillMac s1.keyEpoch va (l.take 240)).toNat
      (ofBytes (l.drop 240) = mac → ∃ r : PoolRec, exec (.overflowReturn w) s = .next { s1 with pool := s1.pool ++ [r] } ∧
        r.world = w ∧ r.readWorld = e.readWorld ∧ r.words = wordsOf 8 l ∧ r.thr = wordsOf 11 (l.drop 128)) ∧
      (ofBytes (l.drop 240) ≠ mac → ∃ a, exec (.overflowReturn w) s = .next (s1.dieReport a 0x37 0 1 (some w))))

/-- DISPATCH: of the READY records that R92 makes eligible for an idle core, or for a free thread, and that may be taken now, the one of
lowest rank starts in its launch state; where there is none nothing happens. A record may be taken that no context of its world may come
back before and, on a core, whose banks may be claimed. -/
def Spec.dispatching : Prop :=
  ∀ (s : State) (p : Place) (r : PoolRec),
    let fits (q : PoolRec) : Bool := match p with
      | .core c => s.eligible c q && s.claimable c q.world (partwBanks (wd q.words 3)) &&
          !s.saved.any fun v => v.core == c && v.world == q.world && v.ctx.isSome && s.mayReturn v
      | .thread t => s.eligibleNp t q && !s.saved.any fun v => v.world == q.world && decide (128 ≤ v.core) && s.mayReturn v
    (∀ c, p = .core c → c < 128 ∧ (s.core c).bank0 = none ∧ (s.core c).bank1 = none) → (∀ t, p = .thread t → t < 192) →
    (∀ t, p = .thread t → s.ctx p = none) →
    ((∀ q ∈ s.pool, fits q = false) → exec (.dispatch p) s = .next s) ∧
    (r ∈ s.pool → fits r = true → (∀ q ∈ s.pool, q ≠ r → fits q = true → lexLt (s.rank p r) (s.rank p q) = true) →
      wd r.words 2 = 0 → ∃ t x, exec (.dispatch p) s = .next t ∧ t.ctx p = some x ∧ x.phase = .running ∧ x.world = r.world ∧
        x.recva = r.recva ∧ x.disp = s.nextDisp ∧ x.a.pc = 8 * bits (wd r.words 1) 36 14 ∧ x.e.pc = 8 * bits (wd r.words 1) 50 14 ∧
        x.partw = wd r.words 3 ∧ x.vshape = 0x7F ∧ x.vksc = 0x3F800000 ∧ x.ctb = 0 ∧ (∀ i, x.a.reg i = 0 ∧ x.e.reg i = 0) ∧
        t.pool.length + 1 = s.pool.length)

/-- How a record comes into the pool and onto a core or thread.
Model's choices it rests on: log 2, 19, 21, 22, 23, 24, 59. -/
def Obligations.AdmissionAndDispatch : Prop := Spec.admissions ∧ Spec.dispatching

/-- A task whose streams have ended and whose work is done leaves its place, with its copies as orphans and its references
dropped, after its notice: REFS of each tag goes down by the references that the task holds, and a RETIRED tag left with none is FREE; one whose streams have suspended also has its record rewritten, with its resume entries and wait slots,
SEQ counted up, and resubmitted.
Model's choices it rests on: log 60. -/
def Obligations.TaskExits : Prop :=
  ∀ (s : State) (p : Place) (x : Ctx), s.ctx p = some x → x.phase = .running → s.started p = true → x.ve = [] →
    x.mcq = [] → x.a.out = [] → x.e.out = [] → (∀ c, p = .core c → (s.core c).other = none) →
    let dropped (i : Nat) (g : Tag) : Tag :=
      let n := x.tagRefs.count i
      if n ≠ 0 ∧ g.st = .retired ∧ g.refs ≤ n then { Tag.empty with gen := g.gen } else { g with refs := g.refs - n }
    let gone (t : State) : Prop := t.ctx p = none ∧ (∀ i, t.tag i = dropped i (s.tag i)) ∧ (∀ c, p = .core c → (t.core c).other = none ∧
      (t.core c).copies = (s.core c).copies.map fun q => if q.task = some x.disp then { q with task := none } else q)
    (x.left .ended = true → s.noticeHeld p = false → hdrSucc x.hdr = false → ∃ t, exec (.taskRetirement p) s = .next t ∧ gone t ∧
      (∀ c, p = .core c → s.quota x.world 23 = 0 → t.events = s.events) ∧
      (∀ c, p = .core c → s.quota x.world 23 ≠ 0 → s.eventRoom x.world 7 = true → s.held = [] → ∃ e, t.events = s.events ++ [e] ∧
        e.world = x.world ∧ e.cls = 7 ∧ e.oqn = c ∧ e.st = .posted ∧ wd e.words 2 = w64 x.recva)) ∧
    (x.left .ended = false ∨ s.noticeHeld p = true → exec (.taskRetirement p) s = .next s) ∧
    (x.left .suspended = false → exec (.taskSuspension p) s = .next s) ∧
    ∀ e, x.left .suspended = true → Spec.PlainPage s .poleth x.world 1 (w64 x.recva) 64 e → x.recva < 2 ^ 56 → s.dead = [] →
      let pa := e.paOf x.recva
      let l := wordsOf 8 (s.loadBytes x.world x.recva pa 64)
      let seq : BitVec 16 := (wd l 0).extractLsb' 48 16 + 1
      let h : W64 := seq ++ (wd l 0).extractLsb' 25 23 ++ (if x.extBit then 1 else 0 : BitVec 1) ++ (wd l 0).extractLsb' 0 24
      let entry : BitVec 14 := if x.control then 0 else x.a.resume
      ∃ t, exec (.taskSuspension p) s = .next t ∧ gone t ∧
        t.submits = s.submits ++
          [{ recva := x.recva, readWorld := x.world, expect := if x.world = 0 then none else some x.world }] ∧
        wordsOf 8 (t.loadBytes x.world x.recva pa 64) =
          [h, x.e.resume ++ entry ++ (wd l 1).extractLsb' 0 36, wd l 2, wd l 3] ++ (List.range 4).map fun i => x.slotw.get 0 i

/-- Faults of a task as a whole. WATCHDOG_EXPIRY stops a task whose enforced budget of 2^(16 + WDC) is used up, and
QUEUE_DEADLOCK one whose count has reached 2^20 clk; FAULT_STOP then holds the context with its fault and reports it, in class 0 of
world 0; POISON stops the core's task, and its FAULT_STOP every other running task of its world.
Model's choices it rests on: log 20, 46, 63. -/
def Obligations.TaskFaults : Prop :=
  ∀ (s : State) (p : Place) (x : Ctx), s.ctx p = some x →
    let wdog := (s.world x.world).wdog
    let budget := 2 ^ (16 + min (bits x.hdr 19 5) (bits wdog 0 5))
    let agent := match p with | .core _ => 6 | .thread _ => 5
    (x.phase = .running → x.left .ended = false → x.left .suspended = false →
      (wdog.getLsbD 5 = true → budget ≤ x.wdcnt → exec (.watchdogExpiry p) s =
        .next (s.raise p agent { cause := 0x50, c := 0, d := 0, defer := false, log := none } 0)) ∧
      (wdog.getLsbD 5 = false ∨ x.wdcnt < budget → exec (.watchdogExpiry p) s = .next s)) ∧
    (∀ c, p = .core c → x.phase = .running →
      ((s.core c).deadlock < 2 ^ 20 → exec (.queueDeadlock c) s = .next s) ∧
      (2 ^ 20 ≤ (s.core c).deadlock → exec (.queueDeadlock c) s = .next (s.raise p 6
        { cause := 0x32, c := w64 (pcField x.e.pc), d := w64 (pcField x.a.pc), defer := false, log := none } 0))) ∧
    (x.phase ≠ .stopping → exec (.faultStop p) s = .next s) ∧
    (s.stopWaits p = true → exec (.faultStop p) s = .next s) ∧
    (∀ r, x.phase = .stopping → x.primary = some r → s.stopWaits p = false → bits r.b 0 8 ≠ 0x51 →
      (∀ c, p = .core c → (s.core c).other = none) → ∃ t y, ∃ r' : FaultRec, exec (.faultStop p) s = .next t ∧
        (match p with | .core c => (t.core c).ctx = none ∧ (t.core c).other = some y | .thread _ => t.ctx p = some y) ∧
        y.phase = .held s.nextId ∧ y.primary = some r' ∧ (r'.b, r'.c, r'.d, r'.f) = (r.b, r.c, r.d, r.f) ∧ y.world = x.world ∧
        ∀ c, p = .core c → s.eventRoom 0 0 = true → s.held = [] → ∃ e, t.events = s.events ++ [e] ∧ e.world = 0 ∧ e.cls = 0 ∧
          (bits r.b 0 8 ≠ 0x50 → e.oqn = c ∧ e.words.drop 2 = [w64 x.recva, r'.b, r'.c, r'.d, r'.e, r'.f]) ∧
          (bits r.b 0 8 = 0x50 → e.oqn = 1001 ∧ wd e.words 2 = w64 x.recva ∧ wd e.words 3 = w64 (c * 2 ^ 8 + x.world))) ∧
    (∀ c, p = .core c →
      (x.phase = .running → x.primary = none → x.left .ended = false → ∃ t y r, exec (.poison c) s = .next t ∧
        t.ctx p = some y ∧ y.phase = .stopping ∧ y.primary = some r ∧ bits r.b 0 8 = 0x51)) ∧
    (∀ r q, x.phase = .stopping → x.primary = some r → bits r.b 0 8 = 0x51 → s.stopWaits p = false →
      (s.world x.world).part = some q → ∃ t, exec (.faultStop p) s = .next t ∧
        (t.world x.world).part = some { q with failed := true } ∧
        (∀ d z, (t.core d).ctx = some z → z.world = x.world → z.phase ≠ .running) ∧
        ∀ n z, t.ctx (.thread n) = some z → z.world = x.world → z.phase ≠ .running)

/-- A response lands in the register that awaits it, extended as its load says; a refusal, or an error that comes with a response,
is the stream's deferred fault with the operand in C, the kind of the access in D (for BARRIER_WORD 0) and the PCs in E, and lands
nothing. In a written image a late response lands as in the stream,
and the last one clears the stream's LATE bit. -/
def Spec.lateResponses : Prop :=
  (∀ (s : State) (id : Nat) (p : Place) (ag : Agent) (o : Outstanding) (x : Ctx), s.awaiting id = some (p, false, ag, o) →
    s.ctx p = some x →
    let st := x.stream ag
    let out := st.out.filter fun q => q.id != o.id
    let failed (i : Instr) (cause : Nat) : Prop :=
      let r : FaultRec :=
        { b := reportB cause (some p) ag.code true, c := o.operand, d := if cause = 0x31 then 0 else w64 (o.kind * 16),
          e := w64 (if x.control then pcField x.e.pc else pcField x.a.pc + 2 ^ 17 * pcField x.e.pc),
          f := w64 (pcField o.pc + o.rep % 4096 * 2 ^ 17) }
      x.primary = none → o.landing = .none → ∃ y, exec i s = .next (s.setCtx p (some y)) ∧ y.phase = .stopping ∧
        y.primary = some r ∧ (y.stream ag).out = out
    (∀ l d n sgn, o.landing = .reg d n sgn → l.length = n → n = 1 ∨ n = 2 ∨ n = 4 ∨ n = 8 → exec (.remoteResponse id (.data l)) s =
      .next (s.setCtx p (some (x.setStream ag ({ st with out }.setReg d
        (if sgn then (BitVec.ofNat (8 * n) (ofBytes l)).signExtend 64 else w64 (ofBytes l))))))) ∧
    failed (.remoteResponse id .refusal) 0x16 ∧
    (∀ cause ∈ [(0x16 : BitVec 8), 0x20, 0x31], failed (.deferredFault id cause) cause.toNat)) ∧
  ∀ (s : State) (v : Saved) (x : Ctx) (o : Outstanding) (d n : Nat) (l : List Byte) (e : Bool), s.saved = [v] → v.ctx = some x →
    v.late = [(e, o)] → o.landing = .reg d n true → d ≠ 0 → d < 64 → l.length = n → n = 4 ∨ n = 8 → s.motions = [] → s.dead = [] →
    s.enc = [] → s.dup = [] → s.ecc = [] → s.sramEcc = [] → s.hotArray = none →
    let (state, regs) : Nat × Nat := if e then (0x508, 0x300) else (0x500, 0x100)
    ∃ t : State, exec (.lateResponse o.id (.data l)) s = .next t ∧ t.saved = [{ v with late := [] }] ∧
      rdWord (t.imageAt v.pa) (regs + 8 * d) = (BitVec.ofNat (8 * n) (ofBytes l)).signExtend 64 ∧
      rdWord (t.imageAt v.pa) state = rdWord (s.imageAt v.pa) state &&& ~~~w64 (2 ^ 39)

/-- A saved context that may come back and is of a thread runs again on it, and of a core stands in one of its banks; where none may
come back nothing happens. Its image is read here over links that are up and bytes without error. -/
def Spec.contextsReturn : Prop :=
  ∀ (s : State) (u : Nat),
    (s.restorable u = none → exec (.contextRestore u) s = .next s) ∧
    ((∀ a, s.tierDown a = false) → s.ecc = [] → s.sramEcc = [] → s.hotArray = none →
    ∀ v old, s.restorable u = some v → v.ctx = some old →
      let y := s.readContext (s.imageAt v.pa) old
      old.phase ≠ .halted → (128 ≤ u → y.primary = none → y.pending = none → ∃ t z, exec (.contextRestore u) s = .next t ∧
        t.ctx (placeOf u) = some z ∧ z.phase = .running ∧ (z.a, z.e, z.world) = (y.a, y.e, y.world) ∧ t.saved = s.saved.erase v) ∧
      (u < 128 → y.phase = .preempted → (s.core u).bank0 = none → (s.core u).bank1 = none → y.primary = none → y.pending = none →
        y.statAct = .empty → y.statShad = .empty → ∃ t z, exec (.contextRestore u) s = .next t ∧ (t.core u).ctx = some z ∧
          z.phase = .running ∧ (z.a, z.e, z.world) = (y.a, y.e, y.world)))

/-- What comes back after a task's word or a task's stop.
Model's choices it rests on: log 12, 24, 30, 33. -/
def Obligations.LateResponsesAndRestores : Prop := Spec.lateResponses ∧ Spec.contextsReturn

/-- FRAME_EDGE, due at the end of the current entry once no copy of the core is writing a chunk, comes after what ends or suspends in
the same clk: pending writes are taken, and the entry that holds the instant's offset into the period begins. Between entries of one
world, and where frames end to apply, there is no edge. In a sealed frame everything but the SRAM banks leaves the core, whose work
starts exactly 5 µs after the edge, and 256 ns later for each bank that it claims; its world's context comes back or its first record is
dispatched. In a shared frame of another world a standby task of a third leaves its bank, and the active one goes where a context or an
eligible record of the world waits, which then runs. SEALED_FRAME_START lets the work start when its instant has come.
Model's choices it rests on: log 24, 25. -/
def Obligations.FrameEdges : Prop :=
  ∀ (s : State) (c : Nat),
    let s0 := s.beforeEdge c
    let k := s0.core c
    let t := k.nextEdge
    let ctl := (k.ftNew.get none 16).getD k.ftctl
    let epoch := ((k.ftNew.get none 17).getD k.ftepoch).toNat
    let n := bits ctl 0 5
    let k' := ((k.takeWrite 16).takeWrite 17).enter t
    let s1 := s0.setCore c { k' with claimed := [] }
    let due := (s.core c).ftctl.getLsbD 6 = true ∧ (s.core c).nextEdge ≤ s.now ∧ ∀ p ∈ (s.core c).copies, p.writing = false
    let banks (p : Ctx → Prop) : Prop := ∀ y, k.bank0 = some y ∨ k.bank1 = some y → p y
    let still := ∀ e ∈ s0.cores, ∀ p ∈ e.2.copies, p.writing = false
    (¬due → exec (.frameEdge c) s = .next s) ∧
    (due → ctl.getLsbD 6 = false →
      k'.ftctl = ctl ∧ k'.cur = 0 ∧ k'.nextEdge = 0 ∧ k'.startAt = none ∧ (∀ m, m < 16 → k'.ftNew.get none m = none) ∧
      exec (.frameEdge c) s = .next ((s0.setCore c k').setCore c { k' with claimed := [] })) ∧
    (due → ctl.getLsbD 6 = true → n ≤ 16 → ∀ i end0 j end_, Spec.frameAt k.ft n epoch t i end0 → Spec.frameAt k'.ft n epoch t j end_ →
      let edge := k'.frameWorld ≠ k.frameWorld ∨ (k.ftctl.getLsbD 5 = false ∧ ctl.getLsbD 5 = true)
      Spec.tableAfter k k' n i ∧ k'.cur = j ∧ k'.nextEdge = end_ ∧
      (¬edge → exec (.frameEdge c) s = .next s1) ∧
      (edge → ctl.getLsbD 5 = true →
        let empty := k.bank0 = none ∧ k.bank1 = none ∧ k.copies = []
        let ours (u : TlbUnit) : Bool := match u with
          | .scalar (.a x) | .scalar (.e x) | .stream x _ => x == c
          | _ => false
        let s2 : State := { s1.setCore c (Spec.cleared k' t) with tlb := s0.tlb.filter fun e => !ours e.unit }
        let clear (w : Nat) : Prop := s0.pool = [] ∧ (∀ v ∈ s0.saved, v.world ≠ w) ∧ (∀ p ∈ k.copies, p.world ≠ w) ∧
          banks fun y => y.world ≠ w
        (∃ u m, exec (.frameEdge c) s = .next u ∧ (u.core c).startAt = some m ∧ t + 5000 ≤ m ∧ (u.core c).sealTill = t + 5000 ∧
          (u.core c).cur = j ∧ (u.core c).nextEdge = end_ ∧ Spec.noTlb u c ∧
          ((∀ w, k'.frameWorld = some w → clear w) → m = t + 5000 ∧ (u.core c).bank0 = none ∧ (u.core c).bank1 = none ∧
            (u.core c).copies = [] ∧ (u.core c).act = .empty ∧ (u.core c).shad = .empty)) ∧
        (empty → k'.frameWorld = none → exec (.frameEdge c) s = .next s2) ∧
        ∀ w, k'.frameWorld = some w →
          let returns := s2.saved.find? fun v => v.core == c && v.world == w && s2.mayReturn v
          (empty → ∀ v, returns = some v → exec (.frameEdge c) s = .next (s2.restore v)) ∧
          (empty → returns = none → (∀ r ∈ s0.pool, r.world = w → s2.dispatchable c r = false) → exec (.frameEdge c) s = .next s2) ∧
          (banks (fun y => y.world ≠ w ∧ y.phase ≠ .stopping) → (∀ p ∈ k.copies, p.world ≠ w) → still →
            (∀ v ∈ s0.saved, v.core ≠ c ∨ v.world ≠ w) → ∀ r, Spec.firstOf s0 c w r →
            ∃ u y, exec (.frameEdge c) s = .next u ∧ u.ctx (.core c) = some y ∧ y.phase = .running ∧ y.world = w ∧ y.recva = r.recva ∧
              (u.core c).startAt = some (t + 5000 + 256 * (partwBanks (wd r.words 3)).length))) ∧
      ∀ w, k'.frameWorld = some w → k.frameWorld ≠ some w → ctl.getLsbD 5 = false →
        (∃ u, exec (.frameEdge c) s = .next u ∧ (u.core c).cur = j ∧ (u.core c).nextEdge = end_ ∧
          (s0.pool = [] → (∀ v ∈ s0.saved, v.world ≠ w) →
            ∀ y, (u.core c).other = some y → y.phase = .standby → y.world = w) ∧
          ∀ x, k.ctx = some x → x.world ≠ w → x.phase = .running → s0.awaits c w = true → ∃ v ∈ u.saved, v.core = c ∧ v.world = x.world) ∧
        ∀ x r, k.ctx = some x → x.world ≠ w → x.phase = .running → k.other = none → still → (∀ v ∈ s0.saved, v.core ≠ c ∨ v.world ≠ w) →
          Spec.firstOf s0 c w r → (partwMeet (wd r.words 3) x.partw = true → hdrOvlp x.hdr = true ∧ hdrOvlp (wd r.words 0) = true) →
          ∃ u y, exec (.frameEdge c) s = .next u ∧ u.ctx (.core c) = some y ∧ y.phase = .running ∧ y.world = w ∧ y.recva = r.recva ∧
            ∃ v ∈ u.saved, v.core = c ∧ v.world = x.world) ∧
    let k := s.core c
    (∀ n, k.startAt = some n →
      (n ≤ s.now → exec (.sealedFrameStart c) s = .next (s.setCore c { k with startAt := none })) ∧
      (s.now < n → exec (.sealedFrameStart c) s = .next s)) ∧
    (k.startAt = none → exec (.sealedFrameStart c) s = .next s)

/-! ## The network (R45 to R67, R112) -/

/-- A message of one packet, written through a memory key to an armed descriptor over a world's memory: its bytes land, the descriptor
counts and the sender hears of it. A tagged send does the same through the entry that takes it, which counts a hit or fires; without one
it lands in the world's overflow region and posts its event. An unsupported packet, an unbound JobID, a context too many, a key that
does not match and bytes past the region are turned away; under ROD a send that comes before its turn has to come again.
Model's choices it rests on: log 28, 43, 46. -/
def Obligations.MessageArrivals : Prop :=
  ∀ (s : State) (w va cm idx ddi : Nat) (d : List W64) (e : TlbEntry), s.inbound = [] →
    ddDk d = 2 → ddWorld d = w → d ≠ [] → va < 2 ^ 56 → (wd d 1).toNat = va → ddCm d = cm → ddCidx d = idx →
    let told (msg : Nat) (t : State) : State := { t with outbox := t.outbox ++ [.answer msg []] }
    let nack (msg : Nat) (why : Nack) (t : State) : State := { t with outbox := t.outbox ++ [.nack msg why] }
    let counted (len : Nat) (t : State) : State :=
      if cm = 1 then t.counterAdd idx 1 else if cm = 2 ∧ len ≠ 0 then t.counterAdd idx ((len + 63) / 64) else t
    let place (job src ddi : Nat) : W64 := w64 (job % 2 ^ 24 + src % 2 ^ 10 * 2 ^ 24 + ddi % 2 ^ 16 * 2 ^ 34)
    let landedAt (o : Nat) (l : List Byte) (t : State) : State := t.storeBytes w (va + o) (e.paOf (va + o)) l
    let landed (l : List Byte) (t : State) : State := landedAt 0 l t
    let mayLandAt (o len : Nat) : Prop := va + o < 2 ^ 56 ∧ o + len ≤ ddLen d ∧ (len = 0 ∨ Spec.PlainPage s .poleth w 1 (w64 (va + o)) len e)
    let mayLand (len : Nat) : Prop := mayLandAt 0 len
    let turnedAway (i : Instr) (h : Transport) (off len n : Nat) : Prop :=
      (h.unsupported = true ∨ 4096 < n ∨ n < 64 ∧ off + n < len → exec i s = .next (nack h.msg .unsupported s)) ∧
      (h.unsupported = false → n ≤ 4096 → 64 ≤ n ∨ len ≤ off + n →
        (h.crcOk = false → exec i s = .next s) ∧
        (h.crcOk = true → s.jobWorld h.job = none →
          exec i s = .next (nack h.msg .invalidJob (s.dieReport 0 0x25 0 (place h.job h.src 65535) none))) ∧
        (h.crcOk = true → s.jobWorld h.job = some w → ¬Spec.pdcRoom h s → exec i s = .next (nack h.msg .resource s)))
    let taken (h : Transport) (n : Nat) : Prop := h.unsupported = false ∧ n ≤ 4096 ∧ h.crcOk = true ∧ s.jobWorld h.job = some w ∧
      Spec.pdcRoom h s
    (∀ p : DataPacket, turnedAway (.uetPacketArrival p) p.toTransport p.off p.len p.bytes.length ∧
      (taken p.toTransport p.bytes.length → p.off = 0 → p.bytes.length = p.len →
        let does (f : State → State) : Prop := exec (.uetPacketArrival p) s = .next (Spec.inPdc p.toTransport s f)
        (p.key = none → does id) ∧
        ∀ key roff, p.key = some (key, roff) → s.ddesc.get [] (bits key 0 16) = d →
          (ddRmaw d = false ∨ bits key 16 48 ≠ ddKey d → does (nack p.msg .accessError)) ∧
          (ddRmaw d = true → bits key 16 48 = ddKey d →
            (ddLen d < roff + p.len → does fun t =>
              nack p.msg .accessError (t.dieReport 0 0x24 0 (place p.job p.src (bits key 0 16)) (some w))) ∧
            (mayLandAt roff p.len → does fun t => told p.msg (counted p.len (landedAt roff p.bytes t)))))) ∧
    ∀ m : TaggedSend, turnedAway (.taggedSendMatch m) m.toTransport m.off m.len m.bytes.length ∧
      (taken m.toTransport m.bytes.length → m.off = 0 → m.bytes.length = m.len →
        let does (f : State → State) : Prop := exec (.taggedSendMatch m) s = .next (Spec.inPdc m.toTransport s f)
        let next := (s.pdcs.get none m.pdc).getD 0
        let counts (t : State) : State := if m.mode = .rod then { t with pdcs := t.pdcs.set none m.pdc (some (next + 1)) } else t
        (m.mode = .rod → next < m.seq → does (nack m.msg .retry)) ∧
        (m.mode = .rod → m.seq < next → does id) ∧
        ((m.mode = .rod → m.seq = next) →
          (∀ i t, s.triggers.find? (fun p => p.2.takes w m) = some (i, t) → s.trigger i = t → bits (wd t.words 7) 0 16 = ddi →
            s.ddesc.get [] ddi = d → ddTsd d = true → mayLand m.len →
            (t.hits + 1 < bits (wd t.words 4) 0 20 → does fun u =>
              counts (told m.msg (counted m.len (landed m.bytes (u.setTrigger i { t with hits := t.hits + 1 }))))) ∧
            (bits (wd t.words 4) 0 20 ≤ t.hits + 1 → t.st = .armed → trigPeriodic t = false → trigAct t.words ≠ 0 →
              does fun u =>
                let f : Fired := { entry := i, arm := t.arm, words := t.words, value := w64 (t.hits + 1) }
                let u : State := { u.setTrigger i { t with hits := t.hits + 1 } with fired := u.fired ++ [f] }
                let u := u.setTrigger i { t with hits := t.hits + 1, st := .firing, fires := t.fires + 1 }
                counts (told m.msg (counted m.len (landed m.bytes u))))) ∧
          ((∀ p ∈ s.triggers, p.2.takes w m = false) →
            ((s.world w).rxovf = none → does (nack m.msg .retry)) ∧
            ∀ len cls oqn, (s.world w).rxovf = some (va, len, cls, oqn) → m.len ≤ len → s.eventRoom w cls = true →
              (∀ o ∈ s.events, o.world = w → bits (wd o.words 0) 0 8 ≠ 1) →
              m.len = 0 ∨ Spec.PlainPage s .poleth w 1 (w64 va) m.len e → does fun u =>
                counts (told m.msg ((landed m.bytes (u.setWorld w { u.world w with rxFill := m.len })).post 1 w cls oqn
                  [m.bits, w64 (m.job % 2 ^ 24 * 2 ^ 40 + m.src % 2 ^ 10 * 2 ^ 30 + m.len % 2 ^ 30), w64 va])))))

/-- An RMA operation on the descriptor that its memory key names: a write lands and counts, a read answers the bytes, an atomic answers
the old 8 bytes and writes the new ones; a key that names none that allows it is refused, bytes outside the region are reported, and an
operation that the module has no place for or does not support is turned away. A peer's access through the domain window goes to the
VA under the world that its JobID is bound to.
Model's choices it rests on: log 6, 43, 44. -/
def Obligations.RemoteAccesses : Prop :=
  ∀ (s : State) (w : Nat) (e : TlbEntry),
    let told (msg : Nat) (b : List Byte) (t : State) : State := { t with outbox := t.outbox ++ [.answer msg b] }
    let nack (msg : Nat) (why : Nack) (t : State) : State := { t with outbox := t.outbox ++ [.nack msg why] }
    let read (va n : Nat) : List Byte := s.loadBytes w va (e.paOf va) n
    let write (va : Nat) (l : List Byte) (t : State) : State := t.storeBytes w va (e.paOf va) l
    let page (va n : Nat) : Prop := n = 0 ∨ Spec.PlainPage s .poleth w 1 (w64 va) n e
    let atomic (op : AtomicOp) (width va : Nat) (x y : W64) (t : State) : State :=
      match atomicNew op width (ofBytes (read va (width / 8))) (x.toNat % 2 ^ width) (y.toNat % 2 ^ width) with
      | some v => write va (leBytes (width / 8) v) t
      | none => t
    let unbound (job src : Nat) : State := s.dieReport 0 0x25 0 (w64 (job % 2 ^ 24 + src % 2 ^ 10 * 2 ^ 24 + 65535 * 2 ^ 34)) none
    (∀ q : RmaRequest,
      let d := s.ddesc.get [] (bits q.key 0 16)
      let va := (wd d 1).toNat + q.off
      let counted (len : Nat) (t : State) : State :=
        if ddCm d = 1 then t.counterAdd (ddCidx d) 1
        else if ddCm d = 2 ∧ len ≠ 0 then t.counterAdd (ddCidx d) ((len + 63) / 64) else t
      let mine : Prop := d ≠ [] ∧ bits q.key 16 48 = ddKey d ∧ ddWorld d = w
      let i := match q.kind with | .atomic _ _ _ _ => Instr.rmaAtomic q | _ => .rmaAccess q
      let does (f : State → State) : Prop := exec i s = .next (Spec.inPdc q.toTransport s f)
      (∀ l, q.kind = .write l ∧ l.length ≤ 4096 ∨ q.kind = .read l.length ∨ (∃ op x y, q.kind = .atomic op 64 x y) →
        (q.unsupported = true → exec i s = .next (nack q.msg .unsupported s)) ∧
        (q.unsupported = false → q.crcOk = false → exec i s = .next s) ∧
        (q.unsupported = false → q.crcOk = true →
          (s.jobWorld q.job = none → exec i s = .next (nack q.msg .invalidJob (unbound q.job q.src))) ∧
          (s.jobWorld q.job = some w → ¬Spec.pdcRoom q.toTransport s → exec i s = .next (nack q.msg .resource s)) ∧
          (s.jobWorld q.job = some w → Spec.pdcRoom q.toTransport s → 131072 ≤ s.inbound.countP (fun m => !m.failed) →
            does (nack q.msg .retry)))) ∧
      (∀ op width x y, q.kind = .atomic op width x y → width ≠ 64 → exec i s = .next (nack q.msg .unsupported s)) ∧
      (∀ l, q.kind = .write l → 4096 < l.length → exec i s = .next (nack q.msg .unsupported s)) ∧
      (q.unsupported = false → q.crcOk = true → s.jobWorld q.job = some w → Spec.pdcRoom q.toTransport s →
        s.inbound.countP (fun m => !m.failed) < 131072 →
        (∀ l, q.kind = .write l → l.length ≤ 4096 →
          (¬(mine ∧ ddRmaw d = true) → does (nack q.msg .accessError)) ∧
          (mine → ddRmaw d = true → ddLen d < q.off + l.length → does fun t => nack q.msg .accessError
            (t.dieReport 0 0x24 0 (w64 (q.job % 2 ^ 24 + q.src % 2 ^ 10 * 2 ^ 24 + bits q.key 0 16 * 2 ^ 34)) (some w))) ∧
          (mine → ddRmaw d = true → ddDk d = 2 → va < 2 ^ 56 → q.off + l.length ≤ ddLen d → page va l.length →
            does fun t => told q.msg [] (counted l.length (write va l t)))) ∧
        (∀ n, q.kind = .read n → mine → ddRmar d = true → ddDk d = 2 → va < 2 ^ 56 → q.off + n ≤ ddLen d → page va n →
          s.secureDomain w = none → does (told q.msg (read va n))) ∧
        (∀ op x y, q.kind = .atomic op 64 x y → mine → ddRmaa d = true → ddDk d = 2 → va < 2 ^ 56 →
          (va % 8 ≠ 0 → does (nack q.msg .accessError)) ∧
          (va % 8 = 0 → q.off + 8 ≤ ddLen d → Spec.AtomicPage s .poleth w 1 (w64 va) 8 e → s.secureDomain w = none →
            does fun t => told q.msg (read va 8) (counted 8 (atomic op 64 va x y t)))))) ∧
    ∀ q : DomainRequest,
      (s.jobWorld q.job = none → exec (.domainRemoteAccess q) s = .next (nack q.msg .invalidJob (unbound q.job q.src))) ∧
      (s.jobWorld q.job = some w → q.va < 2 ^ 54 →
        (∀ l, q.kind = .write l → page q.va l.length →
          exec (.domainRemoteAccess q) s = .next (told q.msg [] (write q.va l s))) ∧
        (∀ n, q.kind = .read n → page q.va n → s.secureDomain w = none →
          exec (.domainRemoteAccess q) s = .next (told q.msg (read q.va n) s)) ∧
        ∀ op width x y, q.kind = .atomic op width x y →
          (width ≠ 32 ∧ width ≠ 64 ∨ q.va % (width / 8) ≠ 0 → exec (.domainRemoteAccess q) s = .next (nack q.msg .accessError s)) ∧
          (width = 32 ∨ width = 64 → q.va % (width / 8) = 0 → Spec.AtomicPage s .poleth w 1 (w64 q.va) (width / 8) e →
            s.secureDomain w = none →
            exec (.domainRemoteAccess q) s = .next (told q.msg (read q.va (width / 8)) (atomic op width q.va x y s))))

/-- The action of a fired entry, for each kind: the record at OPND is submitted, the trigger copy block there is handed to the core's
copy engine, the message described there starts, or the event is posted; the action is then issued, and a one-shot entry is DISARMED.
A completed send counts, and a read's bytes land.
Model's choices it rests on: log 43, 45. -/
def Obligations.TriggerActions : Prop :=
  (∀ (s : State) (i : Nat) (a : Fired) (t : Trigger),
    let w := trigWorld a.words
    let va := trigOpnd a.words
    let c := trigCore a.words
    let issued (u : State) : Host.Outcome State Fault Refusal :=
      .next ({ u with fired := u.fired.erase a }.setTrigger i { t with st := .disarmed })
    let ours (u : State) : Prop := u.trigger i = t
    a.entry = i → t.arm = a.arm → t.st = .firing → trigPeriodic t = false → trigCounter t = false →
    (∀ j ∈ [(1, Instr.triggerLaunch i), (2, .triggerCopy i), (3, .triggerSend i), (4, .triggerEvent i)],
      s.firedFor i j.1 = none → exec j.2 s = .next s) ∧
    (∀ o u, s.firedFor i 1 = some a → s.submit { recva := va, readWorld := w, expect := some w } s.submits = (o, u) →
      (o = .full → exec (.triggerLaunch i) s = .next s) ∧
      (o ≠ .full → ours u → exec (.triggerLaunch i) s = issued u)) ∧
    (∀ b u, s.firedFor i 2 = some a → (s.core c).copies.countP (fun p => p.task.isNone) < 64 → va % 64 = 0 →
      s.readVa 7 w va 128 = .ok (b, u) → ours u →
      exec (.triggerCopy i) s = issued (u.addCopy c (triggerCopyOf u.nextId w i ((s.core c).partwFor w) (wordsOf 16 b)))) ∧
    (∀ b u, s.firedFor i 3 = some a → va % 64 = 0 → s.readVa 7 w va 64 = .ok (b, u) → ours u →
      let l := wordsOf 8 b
      u.linkKeys = [] → u.outbound.length < 131072 → sdOk u w l = true → (2 ≤ sdOpk l ∨ sdLen l = 0) →
      exec (.triggerSend i) s = issued { u with
        nextId := u.nextId + 1, outbound := u.outbound ++ [{ id := u.nextId, world := w, desc := l }],
        outbox := u.outbox ++ [.message u.nextId l []] }) ∧
    (s.firedFor i 4 = some a → ours s →
      (s.eventRoom w (trigClass a.words) = true → exec (.triggerEvent i) s =
        issued (s.post 0x02 w (trigClass a.words) (trigOqn a.words) [w64 va, w64 i, a.value])) ∧
      (s.eventRoom w (trigClass a.words) = false → exec (.triggerEvent i) s = .next s))) ∧
  ∀ (s : State) (m : OutMsg) (e : TlbEntry), s.outbound = [m] →
    let n := sdLen m.desc
    let t : State := { s with outbound := [] }
    let counted (t : State) : State :=
      if sdCcm m.desc = 1 then t.counterAdd (sdCcidx m.desc) 1
      else if sdCcm m.desc = 2 ∧ n ≠ 0 then t.counterAdd (sdCcidx m.desc) ((n + 63) / 64) else t
    exec (.sendCompletion m.id .refusal) s = .next t ∧
    (∀ b, sdOpk m.desc < 2 ∨ n = 0 → exec (.sendCompletion m.id (.data b)) s = .next (counted t)) ∧
    ∀ b, 2 ≤ sdOpk m.desc → n ≠ 0 → b.length = n → Spec.PlainPage s .poleth m.world 1 (w64 (sdLva m.desc)) n e →
      Spec.onePage s .poleth m.world (sdLva m.desc) n e → e.log2 ≤ 32 →
      exec (.sendCompletion m.id (.data b)) s =
        .next (counted (t.storeBytes m.world (sdLva m.desc) (e.paOf (sdLva m.desc)) b))

/-! ## Notices, timers and the host (R6, R73 to R78, R408) -/

/-- A write to a notify register posts its event where the path can post, joins its lantern otherwise, or is discarded with a report;
what the lanterns up to its own can post by then is posted before it. A pending lantern posts its ORed value with its count. A timer posts
its deadline and a periodic one goes on; one whose event is held posts one event, with the latest deadline passed. A step of more than
1 ms moves module time. A store of
a number below 64 to the doorbell raises its vector, and a plain register takes its RW fields.
Model's choices it rests on: log 46, 57, 58. -/
def Obligations.NoticesAndTimers : Prop :=
  ∀ s : State,
    (∀ w : NotifyWrite,
      let b := s.nbind.get 0 w.reg
      let u := (s.lanterns.keys.filter fun r => decide (r ≤ w.reg)).foldl State.lanternPost s
      let l := u.lanterns.get .empty w.reg
      let may : Prop := u.gate = .running ∧ u.eventRoom (bits b 1 6) (bits b 7 3) = true
      let allowed : Prop := b.getLsbD 20 = true ∧ (w.peer ≠ none → b.getLsbD 0 = true)
      let from_ : Nat := match w.peer with | none => 0 | some m => m % 2 ^ 10 * 2 ^ 12 + 2 ^ 22
      let discarded (d : Nat) : Host.Outcome State Fault Refusal :=
        .next ({ s with gate := .running }.dieReport 0 0x27 0 (w64 (d + from_)) none)
      let kept (l : Lantern) : Host.Outcome State Fault Refusal :=
        .next { u with lanterns := u.lanterns.set .empty w.reg l }.wake
      ((∀ r, r ≤ w.reg → (s.lanterns.get .empty r).pending = false) → u = s) ∧
      (w.read = true → exec (.notifyWrite w) s = .next { s with outbox := s.outbox ++ [.notifyRead w.reg 0] }) ∧
      (w.read = false → w.wellFormed = false ∨ 4096 ≤ w.reg → exec (.notifyWrite w) s = discarded (w.reg % 4096 + 2 ^ 23)) ∧
      (w.read = false → w.reg < 4096 → w.wellFormed = true →
        (¬allowed → exec (.notifyWrite w) s = discarded w.reg) ∧
        (allowed → may → exec (.notifyWrite w) s =
          .next (u.post 0x07 (bits b 1 6) (bits b 7 3) (bits b 10 10) [w.value, w64 (w.reg * 2 ^ 16 + 1)])) ∧
        (allowed → l.pending = false → ¬may → exec (.notifyWrite w) s = kept { value := w.value, count := 1, pending := true }) ∧
        (allowed → l.pending = true → ¬may → exec (.notifyWrite w) s =
          kept { value := l.value ||| w.value, count := min (l.count + 1) 65535, pending := true }))) ∧
    (s.gate ≠ .gated → s.wake = s) ∧
    (s.gate = .gated → ∃ n, s.now ≤ n ∧ n ≤ s.now + 20000 ∧ s.wake = { s with gate := .waking n }) ∧
    (∀ r, let b := s.nbind.get 0 r
      let l := s.lanterns.get .empty r
      let cleared : State := { s with lanterns := s.lanterns.set .empty r .empty }
      let room := s.eventRoom (bits b 1 6) (bits b 7 3)
      (l.pending = false ∨ s.gate ≠ .running → exec (.lanternPost r) s = .next s) ∧
      (l.pending = true → s.gate = .running →
        (b.getLsbD 20 = false → exec (.lanternPost r) s = .next (cleared.dieReport 0 0x27 0 (w64 r) none)) ∧
        (b.getLsbD 20 = true → room = true → exec (.lanternPost r) s =
          .next (cleared.post 0x07 (bits b 1 6) (bits b 7 3) (bits b 10 10) [l.value, w64 (r * 2 ^ 16 + l.count)])) ∧
        (b.getLsbD 20 = true → room = false → exec (.lanternPost r) s = .next s))) ∧
    (∀ w n, let t := s.timers.get .empty (w * 4096 + n)
      let set_ (t : Timer) : State := { s with timers := s.timers.set .empty (w * 4096 + n) t }
      let posts (u : Timer) (d : Nat) : Prop := exec (.timerExpiry w n) s =
        .next ((set_ { u with due := none }).post 0x06 w t.cls t.oqn [w64 n, w64 d])
      let gone : Timer := { t with armed := false }
      let again : Timer := { t with deadline := t.deadline + t.period }
      (∀ d, t.due = some d → s.eventRoom w t.cls = true →
        (t.armed = false ∨ s.now < t.deadline → posts t d) ∧
        (t.armed = true → t.deadline ≤ s.now → (t.period = 0 → posts gone t.deadline) ∧
          ∀ k, t.period ≠ 0 → t.deadline + k * t.period ≤ s.now → s.now < t.deadline + (k + 1) * t.period →
            posts { t with deadline := t.deadline + (k + 1) * t.period } (t.deadline + k * t.period))) ∧
      (t.due = none ∨ s.eventRoom w t.cls = false →
        (t.armed = false ∨ s.now < t.deadline → exec (.timerExpiry w n) s = .next s) ∧
        (t.armed = true → t.deadline ≤ s.now →
          (s.eventRoom w t.cls = true → (t.period = 0 → posts gone t.deadline) ∧ (t.period ≠ 0 → posts again t.deadline)) ∧
          (s.eventRoom w t.cls = false →
            (t.period = 0 → exec (.timerExpiry w n) s = .next (set_ { gone with due := some t.deadline })) ∧
            (t.period ≠ 0 → exec (.timerExpiry w n) s = .next (set_ { again with due := some t.deadline })))))) ∧
    (∀ ns, (ns ≤ 1000000 → exec (.timeStep ns) s = .next s) ∧
      (1000000 < ns → s.timers = [] → (∀ p ∈ s.cores, p.2.ftctl.getLsbD 6 = false) → exec (.timeStep ns) s = .next { s with now := s.now + ns })) ∧
    (∀ v : W64, exec (.msixDoorbell v) s =
      .next (if v.toNat < 64 then { s with outbox := s.outbox ++ [.msix v.toNat] } else s)) ∧
    (∀ w v, w < 64 → exec (.registerWrite (.ttw w) v) s =
      .next (s.setWorld w { s.world w with ttw := v &&& 0xFFFFFFFFF8001 })) ∧
    ∀ ag x v, s.ctx ag.place = some x →
      exec (.registerWrite (.fpstat ag) v) s = .next (s.putStream ag x { x.stream ag with fpstat := v &&& 0x7F })

/-! ## Motion, links and scrubbing (R128, R137 to R147, R156, R159) -/

/-- The motion state table (R143): a crumb's stored bytes move as they are; a DRAINING record whose leaves are as it left them commits,
one that firmware has rewritten aborts; a COMMITTING one is freed with its notice, an ABORTING one restores MOT and is freed; a failure of
the destination aborts, and one of the source marks the leaves LOST or lets motion go on from the destination. -/
def Spec.motionTable : Prop :=
  ∀ (s : State) (i : Nat) (lf : MotionLeaf),
    let m := s.motion i
    let notice (m : Motion) (blk crumb : Nat) : List W64 :=
      [w64 m.spa, w64 (m.stat + i * 2 ^ 8 + crumb * 2 ^ 16 + blk * 2 ^ 25)]
    (m.st ≠ .copying → exec (.crumbCopy i) s = .next s) ∧
    (∀ c, m.st = .copying → m.nextCrumb = some c →
      (m.crumb m.cur c = none → exec (.crumbCopy i) s =
        .next (s.setMotion i { m with bitmap := m.bitmap ||| BitVec.ofNat 512 (2 ^ c) }.advance)) ∧
      ∀ src dst, m.crumb m.cur c = some (src, dst) → m.inj ≠ some (m.cur, c) → s.linkDown = [] → s.ecc = [] → s.dead = [] →
        s.dup = [] → src + 4096 ≤ dst ∨ dst + 4096 ≤ src → src % 4096 = 0 → dst % 4096 = 0 → s.mem.wf 0 = true → s.enc.wf none = true →
        ∃ t : State, exec (.crumbCopy i) s = .next t ∧
          t.motion i = { m with bitmap := m.bitmap ||| BitVec.ofNat 512 (2 ^ c) }.advance ∧
          (∀ k, k < 4096 → t.mem.get 0 (dst + k) = s.mem.get 0 (src + k)) ∧
          (∀ g, g < 64 → t.enc.get none (dst / 64 + g) = s.enc.get none (src / 64 + g)) ∧
          ∀ a, a < dst ∨ dst + 4096 ≤ a → t.mem.get 0 a = s.mem.get 0 a) ∧
    (m.st ≠ .draining → exec (.motionCommit i) s = .next s) ∧
    (m.st = .draining → m.leaves = [lf] → s.dup = [] →
      (sansAD (s.read64 lf.pte) = sansAD lf.value →
        let v := withMot (withPa (s.read64 lf.pte) lf.dst) 0
        exec (.motionCommit i) s =
          .next ((s.write64 lf.pte v).setMotion i { m with st := .committing, leaves := [{ lf with value := v }] })) ∧
      (sansAD (s.read64 lf.pte) ≠ sansAD lf.value → m.alone = false → exec (.motionCommit i) s =
        .next (s.setMotion i { m with st := .aborting, stat := 3, failed := (0, 0) }))) ∧
    (m.st ≠ .committing → exec (.motionComplete i) s = .next s) ∧
    (m.st = .committing → s.eventRoom 0 0 = true → s.held = [] → s.dup = [] → ∃ t : State, exec (.motionComplete i) s = .next t ∧
      t.motion i = { m with st := .free, stat := 0, leaves := [], alone := false } ∧ t.mem = s.mem ∧
      (∃ e, t.events = s.events ++ [e] ∧ e.world = 0 ∧ e.oqn = 1000 ∧
        (e.words.drop 2).take 2 = notice { m with stat := 0 } 0 0) ∧
      ∀ r ∈ t.tlb, r ∈ s.tlb ∧ ¬(r.world = m.world ∧ r.base * 2 ^ r.log2 < m.va + m.size ∧ m.va < (r.base + 1) * 2 ^ r.log2)) ∧
    (∀ at_ : Option (Nat × Nat),
      (m.st = .free ∨ m.st = .aborting → exec (.motionDestFailure i at_) s = .next s) ∧
      (m.st = .copying ∨ m.st = .draining → m.alone = false → exec (.motionDestFailure i at_) s = .next (s.setMotion i
        (match at_ with
          | none => { m with st := .aborting, stat := 2, failed := (m.cur, m.nextCrumb.getD 0) }
          | some (blk, crumb) => { m with st := .aborting, stat := 1, failed := (blk % 2 ^ 11, crumb % 2 ^ 9) })))) ∧
    let leaf : Prop := m.leaves = [lf] ∧ sansAD (s.read64 lf.pte) = sansAD lf.value ∧ lf.pte % 8 = 0 ∧ s.dup = [] ∧
      ∀ r ∈ s.motions, ∀ j, j < 8 → r.2.place (lf.pte + j) = none
    (∀ crumb : Option Nat,
      let at_ := match crumb with | none => m.nextCrumb.getD 0 | some c => c % 2 ^ 9
      let copied : Prop := ∃ c, crumb = some c ∧ m.bitmap.getLsbD (c % 2 ^ 9) = true
      (m.st = .free → exec (.motionSourceFailure i crumb) s = .next s) ∧
      (m.st = .copying → copied → exec (.motionSourceFailure i crumb) s = .next s) ∧
      (m.st = .copying ∧ ¬copied ∨ m.st = .aborting ∧ m.stat ≠ 4 ∧ m.stat ≠ 5 → leaf →
        ∃ t : State, exec (.motionSourceFailure i crumb) s = .next t ∧ (t.motion i).st = .aborting ∧
          (t.motion i).stat = (if crumb = none then 5 else 4) ∧ (t.motion i).fcr = at_ ∧ (t.motion i).failed = (m.cur, at_) ∧
          t.read64 lf.pte = withMot (s.read64 lf.pte) 3) ∧
      (m.st = .draining → m.alone = false → ∃ t : State, exec (.motionSourceFailure i crumb) s = .next t ∧
        t.motion i = { m with alone := true } ∧ t.mem = s.mem)) ∧
    (m.st ≠ .aborting ∨ m.stat = 4 ∨ m.stat = 5 → exec (.motionAbortComplete i) s = .next s) ∧
    (m.st = .aborting → m.stat ≠ 4 → m.stat ≠ 5 → leaf →
      ∃ t : State, exec (.motionAbortComplete i) s = .next t ∧ t.motion i = { m with st := .free, leaves := [] } ∧
        t.read64 lf.pte = withMot (s.read64 lf.pte) 0)

/-- A link that goes down is logged and aborts the motions towards it; one that comes up serves again. Scrubbing logs a standing error of
a live block and clears a corrected one, and touches no dead block. The writes held for a duplicated page become visible in order once
its holders have acknowledged. -/
def Spec.linksAndScrubbing : Prop :=
  ∀ (s : State),
    (∀ p, 2 ≤ p ∨ s.linkDown.get false p = true → exec (.t2LinkDown p) s = .next s) ∧
    (∀ p, p < 2 → s.linkDown.get false p = false → s.motions = [] → ∃ t : State, exec (.t2LinkDown p) s = .next t ∧
      t.linkDown = s.linkDown.set false p true ∧ (s.errRing = none → t.mem = s.mem) ∧
      ∀ pa lg, s.errRing = some (pa, lg) → s.dup = [] → s.dead = [] → s.enc = [] → s.read64 pa = 0 → s.read64 (pa + 8) = 0 →
        t.read64 pa = 1 ∧ bits (t.read64 (pa + 72)) 0 8 = 4) ∧
    (∀ p i, p < 2 → s.linkDown.get false p = false → s.errRing = none → (∀ j, (s.motion j).st ≠ .free → j = i) →
      s.motions.wf .empty = true → (s.motion i).st = .copying → (s.motion i).alone = false → behind p (s.motion i).dpa = true →
      (∀ l ∈ (s.motion i).leaves, behind p l.src = false) → ∃ t : State, exec (.t2LinkDown p) s = .next t ∧
        (t.motion i).st = .aborting ∧ (t.motion i).stat = 2 ∧ (t.motion i).failed = (s.motion i).here) ∧
    (∀ p, exec (.t2LinkUp p) s = .next { s with linkDown := s.linkDown.set false p false }) ∧
    (∀ g, s.dead.get false (g * 64 / 2 ^ 21) = true ∨ s.ecc.get 0 g = 0 → exec (.memoryScrub g) s = .next s) ∧
    (∀ g, s.dead.get false (g * 64 / 2 ^ 21) = false →
      (s.ecc.get 0 g = 1 → exec (.memoryScrub g) s = .next { s.logError g 1 with ecc := s.ecc.set 0 g 0 }) ∧
      (s.ecc.get 0 g = 2 → exec (.memoryScrub g) s = .next (s.logError g 3))) ∧
    (∀ p, (∀ d ∈ s.dup, d.page ≠ p) → exec (.dupWriteRelease p) s = .next s) ∧
    ∀ d h pa b, s.dup = [d] → d.held = [h] → h.bytes = [(pa, b)] →
      exec (.dupWriteRelease d.page) s = .next ({ s with dup := [] }.writeByte pa h.tag b)

/-- The events of motion, links, scrubbing and duplicated pages.
Model's choices it rests on: log 48, 50, 52, 66. -/
def Obligations.MotionAndLinks : Prop := Spec.motionTable ∧ Spec.linksAndScrubbing

/-! ## Keys, resets and boot (R7, R170 to R174, R410 to R413) -/

/-- An accepted key operation finishes with an event to world 0: WCREATE gives the world a key of a new epoch and its first weight
generation, LINKGEN and WKGEN install the next generation and keep one before it. The generator fails and recovers. -/
def Spec.keyOperations : Prop :=
  ∀ (s : State),
    exec .trngHealthFail s = .next { s with trngFailed := true } ∧ exec .trngRecovery s = .next { s with trngFailed := false } ∧
    (∀ n, s.keyOps.length ≤ n → exec (.securityCompletion n) s = .next s) ∧
    ∀ q, s.keyOps = [q] → s.eventRoom 0 q.cls = true → s.held = [] →
      let x := s.world q.world
      let done (st : Nat) (t : State) : Host.Outcome State Fault Refusal :=
        .next ({ t with keyOps := [] }.post 0x09 0 q.cls q.oqn [q.tag, w64 st])
      (s.trngFailed = true →
        (q.op = 0 → x.memKey = none → exec (.securityCompletion 0) s = done 0x0B s) ∧
        (q.op = 4 → x.memKey.isSome = true → nextGen x.wkGens ≤ 0xFFFF → exec (.securityCompletion 0) s = done 0x0B s)) ∧
      (s.trngFailed = false →
        (q.op = 0 → x.memKey = none → exec (.securityCompletion 0) s = done 0 (s.setWorld q.world
          { x with
            memKey := some (x.epochs + 1), epochs := x.epochs + 1, wkGens := [(0, (Config.weightKey s.seq).toNat)],
            wkNonce := [] })) ∧
        (q.op = 2 → s.stalled = [] → ∀ k, s.domainKey q.world q.domain = some k → x.memKey.isSome = true → nextGen k.gens ≤ 0xFFFF →
          ∃ t : State, exec (.securityCompletion 0) s = done 0 t ∧ { t with linkKeys := s.linkKeys } = s ∧
            ∃ k', t.linkKeys.get none q.domain = some k' ∧ k'.world = k.world ∧ currentGen k'.gens = nextGen k.gens) ∧
        (q.op = 4 → x.memKey.isSome = true → nextGen x.wkGens ≤ 0xFFFF →
          let g := nextGen x.wkGens
          exec (.securityCompletion 0) s = done 0 (s.setWorld q.world { x with
            wkGens := (g, (Config.weightKey s.seq).toNat) :: x.wkGens.filter (fun p => p.1 + 1 == g),
            wkNonce := x.wkNonce.filter fun p => p.1 + 1 == g })))

/-- KEYCMD, and how its operations finish.
Model's choices it rests on: log 7, 53. -/
def Obligations.KeyManagement : Prop := Spec.keyCommands ∧ Spec.keyOperations

/-- A reset boots, and leaves every core, thread, queue and structure as after power-on, but that an accepted image then runs as world 0:
its bytes stand in T0, world 0 translates, and its control task runs on NP thread 0. A cold reset empties memory, a warm one keeps the
tiers, the time and the error ring, and a maintenance one the tiers behind the CXL ports. The mailbox takes the host's bytes, and the
module's points and temperatures change nothing but their own report.
Model's choices it rests on: log 1, 4, 5, 6, 8, 54, 55, 56. -/
def Obligations.Resets : Prop :=
  ∀ (s : State),
    let accepted := imageAccepted s.flashA = true ∨ imageAccepted s.flashB = true
    let img := if imageAccepted s.flashA = true then s.flashA else s.flashB
    let kept (a : Nat) : Prop := accepted → ∀ b ∈ Config.bootLoad img, b.1 % 2 ^ 39 / 64 ≠ a / 64
    let runs (t : State) : Prop :=
      (¬accepted → t.boot = .recovery ∧ t.threads = [] ∧ (t.world 0).ttw = 0) ∧
      (accepted → t.boot = .running ∧ (t.world 0).ttw = Config.bootTtw img &&& 0xFFFFFFFFF8001 ∧
        ∃ x, t.threads = [(0, some x)] ∧ x.phase = .running ∧ x.control = true ∧ x.world = 0 ∧ x.place = .thread 0 ∧
          x.code = Config.bootCode img ∧ x.e.pc = 8 * bits (Config.bootCode img) 50 14 ∧ x.e.exit = .running)
    let fresh (t : State) : Prop := runs t ∧ t.cores = [] ∧ t.saved = [] ∧ t.tlb = [] ∧ t.counters = [] ∧
      t.triggers = [] ∧ t.ddesc = [] ∧ t.tags = [] ∧ t.pool = [] ∧ t.events = [] ∧ t.timers = [] ∧ t.motions = [] ∧ t.dead = [] ∧
      t.nbind = [] ∧ t.lanterns = [] ∧ t.jobs = [] ∧ t.inbound = [] ∧ t.outbound = [] ∧ t.linkKeys = [] ∧ t.keyOps = [] ∧
      t.barriers = [] ∧ t.stalled = [] ∧ t.pdcs = [] ∧ t.cur = none ∧ t.lms = s.lms ∧
      ∀ w, w < 64 → (t.world w).part = none ∧ (w ≠ 0 → (t.world w).ttw = 0) ∧ (t.world w).memKey = none ∧ (t.world w).wkGens = []
    (∃ t, exec .coldReset s = .next t ∧ fresh t ∧ t.now = 0 ∧ t.errRing = none ∧ t.enc = [] ∧
      (s.mem.wf 0 = true → ∀ a, a < 2 ^ 45 → kept a → t.mem.get 0 a = 0)) ∧
    (∃ t, exec .warmReset s = .next t ∧ fresh t ∧ t.now = s.now ∧ t.errRing = s.errRing ∧
      (s.mem.wf 0 = true → s.dead = [] → ∀ a, tiered a = true → kept a → t.mem.get 0 a = s.mem.get 0 a)) ∧
    (∀ rows, ∃ t, exec (.maintReset rows) s = .next t ∧ fresh t ∧ t.now = s.now ∧
      (s.mem.wf 0 = true → s.dead = [] → ∀ a, a < 2 ^ 45 → kept a → t.mem.get 0 a =
        match windowOf a with
        | some (.t2 _) => s.mem.get 0 a
        | _ => 0)) ∧
    (∀ p : BitVec 2, p ≠ 3 → ∃ n, n ≤ 20000 ∧ exec (.opPointChange p) s = .next { s with point := p, fetchAt := s.now + n }) ∧
    (∀ d c, d.toNat < 5 →
      let above := decide (105 ≤ c.toNat)
      let t : State := { s with hot := s.hot.set false d.toNat above }
      exec (.thermalAlarm d c) s =
        .next (if above && !s.hot.get false d.toNat then t.dieReport 0 0x53 0 (w64 (d.toNat + c.toNat * 2 ^ 8)) none else t)) ∧
    (∀ d, d.toNat < 5 → exec (.thermalShutdown d) s = exec .warmReset s) ∧
    ∀ off l, off + l.length ≤ 2 ^ 26 →
      (s.boot ≠ .recovery → exec (.firmwareMailboxWrite off l) s = .next (s.poke (0xFFC0000000000 + off) l)) ∧
      (s.boot = .recovery → ∃ t, exec (.firmwareMailboxWrite off l) s = .next t ∧ t.boot ≠ .pending ∧ t.cores = s.cores ∧
        ∀ i, i < l.length → t.flashA.get 0 (off + i) = l.getD i 0)

/-! ## The machine as a whole (R7, R191, R198) -/

/-- A STEP RUNS THE DECODED INSTRUCTION: where a stream that may run has the next turn, and the word it has begun, or the one it
fetches, decodes to an instruction, the step is exec of it, after which no word executes and the step's time passes. A word of
RELCTX runs the row of the action that its request block names.
Model's choices it rests on: log 2, 16, 35. -/
def Obligations.StepRunsDecodedWord : Prop :=
  ∀ (s : State) (ag : Agent) (l : List Turn) (i : Instr) (w : Insn) (t : State), s.boot = .running → s.agenda = .run ag :: l →
    let u : State := { s with agenda := l, cur := some ag }
    let begun (x : Ctx) : Prop := u.ctx ag.place = some x ∧ (x.stream ag).ir = some w ∧ t = u
    let fetched (x : Ctx) : Prop := u.ctx ag.place = some x ∧ (x.stream ag).ir = none ∧ ∃ v y, fetchInsn u = .ok (w, v) ∧
      v.cur = some ag ∧ v.ctx ag.place = some y ∧ t = v.putStream ag y { y.stream ag with ir := some w }
    let after (o : Host.Outcome State Fault Refusal) : Host.Outcome State Fault Refusal :=
      match o with
      | .next v => .next ({ v.keepWord ag w with cur := none } : State).tick
      | o => o
    { s with agenda := l }.canRun ag = true → decode w = .ok i → (∃ x, begun x ∨ fetched x) →
    ((∀ f, i ≠ .discard f) → step s = after (exec i t)) ∧
    ∀ f, i = .discard f → f.imm.extractLsb' 0 8 = 0x14 → step s = after (exec (match relAction f t with
      | 1 => .resume f
      | 2 => .save f
      | 3 => .load f
      | 4 => .stopw f
      | 5 => .startw f
      | 6 => .dhalt f
      | 7 => .dresume f
      | _ => .discard f) t)

/-- RESET: module time 0, boot about to run, no partition and no key, every core empty and NP thread free, every counter, tag, entry,
descriptor, binding, timer and motion record free, no event, memory that lists nothing and is in its canonical form; world 0 alone has
the 512 places of class 0.
Model's choices it rests on: log 1, 4. -/
def Obligations.ResetState : Prop :=
  let s := State.reset
  s.boot = .pending ∧ s.now = 0 ∧ Memory.wf s.mem = true ∧ s.mem = [] ∧ (∀ c, s.core c = .empty) ∧ (∀ t, s.ctx (.thread t) = none) ∧
  (∀ w, (s.world w).part = none ∧ (s.world w).ttw = 0 ∧ (s.world w).memKey = none ∧ (s.world w).wdog = 0 ∧ (s.world w).ovq = none) ∧
  (∀ w k, s.quota w k = if w = 0 ∧ k = 16 then 512 else 0) ∧ (∀ i, s.counter i = .empty) ∧ (∀ i, s.trigger i = .empty) ∧
  (∀ i, s.tag i = .empty) ∧ (∀ i, s.ddesc.get [] i = []) ∧ (∀ r, s.nbind.get 0 r = 0) ∧ (∀ i, (s.motion i).st = .free) ∧
  s.events = [] ∧ s.pool = [] ∧ s.tlb = [] ∧ s.keyOps = [] ∧ s.trngFailed = false

/-- EVERY STEP KEEPS MEMORY CANONICAL: addresses strictly rising, no entry equal to what an unlisted address reads as.
Model's choices it rests on: log 1. -/
def Obligations.EveryStepKeepsMemory : Prop :=
  ∀ s t : State, Memory.wf s.mem = true → step s = .next t → Memory.wf t.mem = true
end

