-- ==== Sys2Proof/Laws/Decode.lean ====
section
/-! SUPPORT. The fields of a word read back as they were put together, and a word is put together from its fields, for each of
the ten formats (R192). -/

namespace Sys2Proof

theorem field_lo {n m : Nat} (x : BitVec n) (y : BitVec m) (lo k : Nat) (h : lo + k ≤ m) :
    (x ++ y).extractLsb' lo k = y.extractLsb' lo k := by
  apply BitVec.eq_of_getLsbD_eq
  intro i hi
  have : lo + i < m := by omega
  simp [BitVec.getLsbD_append, hi, this]

theorem field_hi {n m : Nat} (x : BitVec n) (y : BitVec m) (lo k : Nat) (h : m ≤ lo) :
    (x ++ y).extractLsb' lo k = x.extractLsb' (lo - m) k := by
  apply BitVec.eq_of_getLsbD_eq
  intro i hi
  have : ¬ lo + i < m := by omega
  have e : lo + i - m = lo - m + i := by omega
  simp [BitVec.getLsbD_append, hi, this, e]

theorem field_all {n : Nat} (x : BitVec n) : x.extractLsb' 0 n = x := by
  apply BitVec.eq_of_getLsbD_eq
  intro i hi
  simp [hi]

/-- Two fields that stand side by side are one field. -/
theorem field_join {n : Nat} (w : BitVec n) (lo k hi m : Nat) (h : hi = lo + k) :
    w.extractLsb' hi m ++ w.extractLsb' lo k = w.extractLsb' lo (m + k) := by
  subst h
  exact BitVec.extractLsb'_append_extractLsb'_eq_extractLsb' rfl

/-! ## Format S -/

theorem unpackS_packS (op : BitVec 6) (fn : BitVec 8) (f : FmtS) : unpackS (packS op fn f) = f := by
  obtain ⟨d, a, b, c, pg, sz, mod⟩ := f
  unfold unpackS packS
  congr 1 <;> change BitVec.extractLsb' (n := 6+8+6+6+6+6+3+2+5) _ _ _ = _ <;>
    simp (disch := decide) only [field_lo, field_hi, field_all, Nat.reduceSub]

theorem opOf_packS (op : BitVec 6) (fn : BitVec 8) (f : FmtS) : opOf (packS op fn f) = op := by
  unfold opOf packS
  change BitVec.extractLsb' (n := 6+8+6+6+6+6+3+2+5) _ _ _ = _
  simp (disch := decide) only [field_hi, field_all, Nat.reduceSub]

theorem fn_packS (op : BitVec 6) (fn : BitVec 8) (f : FmtS) : (packS op fn f).extractLsb' 34 8 = fn := by
  unfold packS
  change BitVec.extractLsb' (n := 6+8+6+6+6+6+3+2+5) _ _ _ = _
  simp (disch := decide) only [field_lo, field_hi, field_all, Nat.reduceSub]

theorem packS_unpackS (w : Insn) : packS (opOf w) (w.extractLsb' 34 8) (unpackS w) = w := by
  unfold packS opOf unpackS
  exact (by
    repeat rw [field_join _ _ _ _ _ (by rfl)]
    exact field_all w)

/-! ## Format I -/

theorem unpackI_packI (op : BitVec 6) (fn : BitVec 4) (f : FmtI) : unpackI (packI op fn f) = f := by
  obtain ⟨d, a, pg, imm⟩ := f
  unfold unpackI packI
  congr 1 <;> change BitVec.extractLsb' (n := 6+4+6+6+3+23) _ _ _ = _ <;>
    simp (disch := decide) only [field_lo, field_hi, field_all, Nat.reduceSub]

theorem opOf_packI (op : BitVec 6) (fn : BitVec 4) (f : FmtI) : opOf (packI op fn f) = op := by
  unfold opOf packI
  change BitVec.extractLsb' (n := 6+4+6+6+3+23) _ _ _ = _
  simp (disch := decide) only [field_hi, field_all, Nat.reduceSub]

theorem fn_packI (op : BitVec 6) (fn : BitVec 4) (f : FmtI) : (packI op fn f).extractLsb' 38 4 = fn := by
  unfold packI
  change BitVec.extractLsb' (n := 6+4+6+6+3+23) _ _ _ = _
  simp (disch := decide) only [field_lo, field_hi, field_all, Nat.reduceSub]

theorem packI_unpackI (w : Insn) : packI (opOf w) (w.extractLsb' 38 4) (unpackI w) = w := by
  unfold packI opOf unpackI
  exact (by
    repeat rw [field_join _ _ _ _ _ (by rfl)]
    exact field_all w)

/-! ## Format L -/

theorem unpackL_packL (op : BitVec 6) (fn : BitVec 2) (f : FmtL) : unpackL (packL op fn f) = f := by
  obtain ⟨d, imm⟩ := f
  unfold unpackL packL
  congr 1 <;> change BitVec.extractLsb' (n := 6+2+6+34) _ _ _ = _ <;>
    simp (disch := decide) only [field_lo, field_hi, field_all, Nat.reduceSub]

theorem opOf_packL (op : BitVec 6) (fn : BitVec 2) (f : FmtL) : opOf (packL op fn f) = op := by
  unfold opOf packL
  change BitVec.extractLsb' (n := 6+2+6+34) _ _ _ = _
  simp (disch := decide) only [field_hi, field_all, Nat.reduceSub]

theorem fn_packL (op : BitVec 6) (fn : BitVec 2) (f : FmtL) : (packL op fn f).extractLsb' 40 2 = fn := by
  unfold packL
  change BitVec.extractLsb' (n := 6+2+6+34) _ _ _ = _
  simp (disch := decide) only [field_lo, field_hi, field_all, Nat.reduceSub]

theorem packL_unpackL (w : Insn) : packL (opOf w) (w.extractLsb' 40 2) (unpackL w) = w := by
  unfold packL opOf unpackL
  exact (by
    repeat rw [field_join _ _ _ _ _ (by rfl)]
    exact field_all w)

/-! ## Format B -/

theorem unpackB_packB (op : BitVec 6) (f : FmtB) : unpackB (packB op f) = f := by
  obtain ⟨cnd, a, b, off⟩ := f
  unfold unpackB packB
  congr 1 <;> change BitVec.extractLsb' (n := 6+4+6+6+26) _ _ _ = _ <;>
    simp (disch := decide) only [field_lo, field_hi, field_all, Nat.reduceSub]

theorem opOf_packB (op : BitVec 6) (f : FmtB) : opOf (packB op f) = op := by
  unfold opOf packB
  change BitVec.extractLsb' (n := 6+4+6+6+26) _ _ _ = _
  simp (disch := decide) only [field_hi, field_all, Nat.reduceSub]

theorem packB_unpackB (w : Insn) : packB (opOf w) (unpackB w) = w := by
  unfold packB opOf unpackB
  exact (by
    repeat rw [field_join _ _ _ _ _ (by rfl)]
    exact field_all w)

/-! ## Format A -/

theorem unpackA_packA (op : BitVec 6) (fn : BitVec 6) (f : FmtA) : unpackA (packA op fn f) = f := by
  obtain ⟨q, b, step, rep⟩ := f
  unfold unpackA packA
  congr 1 <;> change BitVec.extractLsb' (n := 6+6+4+6+14+12) _ _ _ = _ <;>
    simp (disch := decide) only [field_lo, field_hi, field_all, Nat.reduceSub]

theorem opOf_packA (op : BitVec 6) (fn : BitVec 6) (f : FmtA) : opOf (packA op fn f) = op := by
  unfold opOf packA
  change BitVec.extractLsb' (n := 6+6+4+6+14+12) _ _ _ = _
  simp (disch := decide) only [field_hi, field_all, Nat.reduceSub]

theorem fn_packA (op : BitVec 6) (fn : BitVec 6) (f : FmtA) : (packA op fn f).extractLsb' 36 6 = fn := by
  unfold packA
  change BitVec.extractLsb' (n := 6+6+4+6+14+12) _ _ _ = _
  simp (disch := decide) only [field_lo, field_hi, field_all, Nat.reduceSub]

theorem packA_unpackA (w : Insn) : packA (opOf w) (w.extractLsb' 36 6) (unpackA w) = w := by
  unfold packA opOf unpackA
  exact (by
    repeat rw [field_join _ _ _ _ _ (by rfl)]
    exact field_all w)

/-! ## Format V -/

theorem unpackV_packV (op : BitVec 6) (fn : BitVec 7) (f : FmtV) : unpackV (packV op fn f) = f := by
  obtain ⟨vd, va, vb, t, stp, pm, rep⟩ := f
  unfold unpackV packV
  congr 1 <;> change BitVec.extractLsb' (n := 6+7+4+4+4+4+4+3+12) _ _ _ = _ <;>
    simp (disch := decide) only [field_lo, field_hi, field_all, Nat.reduceSub]

theorem opOf_packV (op : BitVec 6) (fn : BitVec 7) (f : FmtV) : opOf (packV op fn f) = op := by
  unfold opOf packV
  change BitVec.extractLsb' (n := 6+7+4+4+4+4+4+3+12) _ _ _ = _
  simp (disch := decide) only [field_hi, field_all, Nat.reduceSub]

theorem fn_packV (op : BitVec 6) (fn : BitVec 7) (f : FmtV) : (packV op fn f).extractLsb' 35 7 = fn := by
  unfold packV
  change BitVec.extractLsb' (n := 6+7+4+4+4+4+4+3+12) _ _ _ = _
  simp (disch := decide) only [field_lo, field_hi, field_all, Nat.reduceSub]

theorem packV_unpackV (w : Insn) : packV (opOf w) (w.extractLsb' 35 7) (unpackV w) = w := by
  unfold packV opOf unpackV
  exact (by
    repeat rw [field_join _ _ _ _ _ (by rfl)]
    exact field_all w)

/-! ## Format M -/

theorem unpackM_packM (op : BitVec 6) (fn : BitVec 4) (f : FmtM) : unpackM (packM op fn f) = f := by
  obtain ⟨ra, rb, acc, fmta, fmtb, ws, ss, ks⟩ := f
  unfold unpackM packM
  congr 1 <;> change BitVec.extractLsb' (n := 6+4+3+3+6+4+4+5+5+8) _ _ _ = _ <;>
    simp (disch := decide) only [field_lo, field_hi, field_all, Nat.reduceSub]

theorem opOf_packM (op : BitVec 6) (fn : BitVec 4) (f : FmtM) : opOf (packM op fn f) = op := by
  unfold opOf packM
  change BitVec.extractLsb' (n := 6+4+3+3+6+4+4+5+5+8) _ _ _ = _
  simp (disch := decide) only [field_hi, field_all, Nat.reduceSub]

theorem fn_packM (op : BitVec 6) (fn : BitVec 4) (f : FmtM) : (packM op fn f).extractLsb' 38 4 = fn := by
  unfold packM
  change BitVec.extractLsb' (n := 6+4+3+3+6+4+4+5+5+8) _ _ _ = _
  simp (disch := decide) only [field_lo, field_hi, field_all, Nat.reduceSub]

theorem packM_unpackM (w : Insn) : packM (opOf w) (w.extractLsb' 38 4) (unpackM w) = w := by
  unfold packM opOf unpackM
  exact (by
    repeat rw [field_join _ _ _ _ _ (by rfl)]
    exact field_all w)

/-! ## Format C -/

theorem unpackC_packC (op : BitVec 6) (f : FmtC) : unpackC (packC op f) = f := by
  obtain ⟨desc, tag, uw, sc, buf⟩ := f
  unfold unpackC packC
  congr 1 <;> change BitVec.extractLsb' (n := 6+2+6+6+16+4+8) _ _ _ = _ <;>
    simp (disch := decide) only [field_lo, field_hi, field_all, Nat.reduceSub]

theorem opOf_packC (op : BitVec 6) (f : FmtC) : opOf (packC op f) = op := by
  unfold opOf packC
  change BitVec.extractLsb' (n := 6+2+6+6+16+4+8) _ _ _ = _
  simp (disch := decide) only [field_hi, field_all, Nat.reduceSub]

theorem fn_packC (op : BitVec 6) (f : FmtC) : (packC op f).extractLsb' 40 2 = 0 := by
  unfold packC
  change BitVec.extractLsb' (n := 6+2+6+6+16+4+8) _ _ _ = _
  simp (disch := decide) only [field_lo, field_hi, field_all, Nat.reduceSub]

theorem packC_unpackC (w : Insn) (h : w.extractLsb' 40 2 = 0) : packC (opOf w) (unpackC w) = w := by
  unfold packC opOf unpackC
  rw [← h]
  exact (by
    repeat rw [field_join _ _ _ _ _ (by rfl)]
    exact field_all w)

/-! ## Format P -/

theorem unpackP_packP (op : BitVec 6) (fn : BitVec 6) (f : FmtP) : unpackP (packP op fn f) = f := by
  obtain ⟨d, a, b, imm⟩ := f
  unfold unpackP packP
  congr 1 <;> change BitVec.extractLsb' (n := 6+6+6+6+6+18) _ _ _ = _ <;>
    simp (disch := decide) only [field_lo, field_hi, field_all, Nat.reduceSub]

theorem opOf_packP (op : BitVec 6) (fn : BitVec 6) (f : FmtP) : opOf (packP op fn f) = op := by
  unfold opOf packP
  change BitVec.extractLsb' (n := 6+6+6+6+6+18) _ _ _ = _
  simp (disch := decide) only [field_hi, field_all, Nat.reduceSub]

theorem fn_packP (op : BitVec 6) (fn : BitVec 6) (f : FmtP) : (packP op fn f).extractLsb' 36 6 = fn := by
  unfold packP
  change BitVec.extractLsb' (n := 6+6+6+6+6+18) _ _ _ = _
  simp (disch := decide) only [field_lo, field_hi, field_all, Nat.reduceSub]

theorem packP_unpackP (w : Insn) : packP (opOf w) (w.extractLsb' 36 6) (unpackP w) = w := by
  unfold packP opOf unpackP
  exact (by
    repeat rw [field_join _ _ _ _ _ (by rfl)]
    exact field_all w)

/-! ## Format Q -/

theorem unpackQ_packQ (op : BitVec 6) (fn : BitVec 2) (f : FmtQ) : unpackQ (packQ op fn f) = f := by
  obtain ⟨d, a, tt, off⟩ := f
  unfold unpackQ packQ
  congr 1 <;> change BitVec.extractLsb' (n := 6+2+6+6+3+25) _ _ _ = _ <;>
    simp (disch := decide) only [field_lo, field_hi, field_all, Nat.reduceSub]

theorem opOf_packQ (op : BitVec 6) (fn : BitVec 2) (f : FmtQ) : opOf (packQ op fn f) = op := by
  unfold opOf packQ
  change BitVec.extractLsb' (n := 6+2+6+6+3+25) _ _ _ = _
  simp (disch := decide) only [field_hi, field_all, Nat.reduceSub]

theorem fn_packQ (op : BitVec 6) (fn : BitVec 2) (f : FmtQ) : (packQ op fn f).extractLsb' 40 2 = fn := by
  unfold packQ
  change BitVec.extractLsb' (n := 6+2+6+6+3+25) _ _ _ = _
  simp (disch := decide) only [field_lo, field_hi, field_all, Nat.reduceSub]

theorem packQ_unpackQ (w : Insn) : packQ (opOf w) (w.extractLsb' 40 2) (unpackQ w) = w := by
  unfold packQ opOf unpackQ
  exact (by
    repeat rw [field_join _ _ _ _ _ (by rfl)]
    exact field_all w)

end Sys2Proof
end

