-- ==== Sys2Proof/Laws/Tbl.lean ====
section
/-! SUPPORT. Tables: a key reads as it was last set, other keys as before, and the canonical form is kept. -/

namespace Sys2Proof.Machine

variable {α : Type}

@[simp] theorem Tbl.get_nil (d : α) (i : Nat) : Tbl.get d [] i = d := rfl

/-- Entries below the key that is read do not matter. -/
theorem Tbl.get_dropWhile (d : α) (t : Tbl α) {i j : Nat} (h : i < j) :
    Tbl.get d (t.dropWhile fun e => decide (e.1 ≤ i)) j = Tbl.get d t j := by
  induction t with
  | nil => rfl
  | cons e t ih =>
    obtain ⟨k, v⟩ := e
    by_cases hk : k ≤ i
    · simp only [List.dropWhile_cons, hk, decide_true, ↓reduceIte, ih, Tbl.get]
      rw [if_neg (by omega), if_neg (by omega)]
    · simp only [List.dropWhile_cons, hk, decide_false, Bool.false_eq_true, ↓reduceIte]

/-- Below the first key a table reads the default. -/
theorem Tbl.get_dropWhile_le (d : α) (t : Tbl α) {i j : Nat} (h : j ≤ i) :
    Tbl.get d (t.dropWhile fun e => decide (e.1 ≤ i)) j = d := by
  induction t with
  | nil => rfl
  | cons e t ih =>
    obtain ⟨k, v⟩ := e
    by_cases hk : k ≤ i
    · simp only [List.dropWhile_cons, hk, decide_true, ↓reduceIte, ih]
    · simp only [List.dropWhile_cons, hk, decide_false, Bool.false_eq_true, ↓reduceIte, Tbl.get]
      rw [if_neg (by omega), if_pos (by omega)]

variable [DecidableEq α]

/-- A key reads as it was last set. -/
@[simp] theorem Tbl.get_set (d : α) (t : Tbl α) (i : Nat) (x : α) : Tbl.get d (Tbl.set d t i x) i = x := by
  induction t with
  | nil => by_cases h : x = d <;> simp [Tbl.set, Tbl.get, h]
  | cons e t ih =>
    obtain ⟨k, v⟩ := e
    simp only [Tbl.set]
    by_cases h1 : i = k
    · subst h1
      by_cases h : x = d
      · simp only [↓reduceIte, h]
        rw [Tbl.get_dropWhile_le d t (Nat.le_refl i)]
      · simp [h, Tbl.get]
    · rw [if_neg h1]
      by_cases h2 : i < k
      · by_cases h : x = d
        · simp [h2, h, Tbl.get, h1]
        · simp [h2, h, Tbl.get]
      · simp [h2, Tbl.get, h1, ih]

/-- Another key reads as before. -/
theorem Tbl.get_set_ne (d : α) (t : Tbl α) {i j : Nat} (x : α) (h : j ≠ i) :
    Tbl.get d (Tbl.set d t i x) j = Tbl.get d t j := by
  induction t with
  | nil =>
    by_cases hx : x = d
    · simp [Tbl.set, hx]
    · simp [Tbl.set, hx, Tbl.get, h]
  | cons e t ih =>
    obtain ⟨k, v⟩ := e
    simp only [Tbl.set]
    by_cases h1 : i = k
    · subst h1
      rw [if_pos rfl]
      by_cases hx : x = d
      · rw [if_pos hx]
        by_cases hj : i < j
        · rw [Tbl.get_dropWhile d t hj]
          simp only [Tbl.get]
          rw [if_neg h, if_neg (by omega)]
        · rw [Tbl.get_dropWhile_le d t (by omega)]
          simp only [Tbl.get]
          rw [if_neg h, if_pos (by omega)]
      · rw [if_neg hx]
        simp only [Tbl.get]
        rw [if_neg h, if_neg h]
    · rw [if_neg h1]
      by_cases h2 : i < k
      · rw [if_pos h2]
        by_cases hx : x = d
        · rw [if_pos hx]
        · rw [if_neg hx]
          simp only [Tbl.get]
          rw [if_neg h]
          by_cases hj : j < i
          · rw [if_pos hj, if_neg (by omega), if_pos (by omega)]
          · rw [if_neg hj]
      · rw [if_neg h2]
        simp only [Tbl.get, ih]

/-- The last of two writes of a key stands, when the first was no default. -/
theorem Tbl.set_set (d : α) (t : Tbl α) (i : Nat) {x : α} (y : α) (h : x ≠ d) :
    Tbl.set d (Tbl.set d t i x) i y = Tbl.set d t i y := by
  induction t with
  | nil => simp [Tbl.set, h]
  | cons e t ih =>
    obtain ⟨k, v⟩ := e
    by_cases h1 : i = k
    · subst h1
      simp [Tbl.set, h]
    · by_cases h2 : i < k
      · by_cases hy : y = d
        · simp only [Tbl.set, h1, h2, h, hy, ↓reduceIte, List.dropWhile_cons]
          rw [if_neg (by simpa using h2)]
        · simp [Tbl.set, h1, h2, h, hy]
      · simp [Tbl.set, h1, h2, ih]

/-! ## The canonical form -/

theorem Tbl.wfAbove_mono (d : α) (t : Tbl α) {lo lo' : Option Nat}
    (h : match lo, lo' with | _, none => True | none, some _ => False | some a, some b => b ≤ a)
    (hw : Tbl.wfAbove d lo t = true) : Tbl.wfAbove d lo' t = true := by
  cases t with
  | nil => rfl
  | cons e t =>
    obtain ⟨k, v⟩ := e
    cases lo <;> cases lo' <;> simp_all [Tbl.wfAbove]
    omega

theorem Tbl.wfAbove_dropWhile (d : α) (t : Tbl α) (lo : Option Nat) (p : Nat × α → Bool)
    (hw : Tbl.wfAbove d lo t = true) : Tbl.wfAbove d lo (t.dropWhile p) = true := by
  induction t generalizing lo with
  | nil => rfl
  | cons e t ih =>
    obtain ⟨k, v⟩ := e
    rw [List.dropWhile_cons]
    split
    · apply ih
      simp only [Tbl.wfAbove, Bool.and_eq_true] at hw
      refine Tbl.wfAbove_mono d t ?_ hw.2
      cases lo <;> simp_all
      omega
    · exact hw

theorem Tbl.wfAbove_set (d : α) (t : Tbl α) (lo : Option Nat) (i : Nat) (x : α)
    (hi : match lo with | none => True | some l => l < i) (hw : Tbl.wfAbove d lo t = true) :
    Tbl.wfAbove d lo (Tbl.set d t i x) = true := by
  induction t generalizing lo with
  | nil =>
    by_cases hx : x = d
    · simp [Tbl.set, hx, Tbl.wfAbove]
    · cases lo <;> simp_all [Tbl.set, Tbl.wfAbove]
  | cons e t ih =>
    obtain ⟨k, v⟩ := e
    have hw' := hw
    simp only [Tbl.wfAbove, Bool.and_eq_true, decide_eq_true_eq] at hw
    obtain ⟨⟨hk, hv⟩, ht⟩ := hw
    simp only [Tbl.set]
    by_cases h1 : i = k
    · subst h1
      rw [if_pos rfl]
      by_cases hx : x = d
      · rw [if_pos hx]
        refine Tbl.wfAbove_mono d _ ?_ (Tbl.wfAbove_dropWhile d t (some i) _ ht)
        cases lo <;> simp_all
        omega
      · rw [if_neg hx]
        simp [Tbl.wfAbove, hk, hx, ht]
    · rw [if_neg h1]
      by_cases h2 : i < k
      · rw [if_pos h2]
        by_cases hx : x = d
        · rw [if_pos hx]; exact hw'
        · rw [if_neg hx]
          cases lo <;> simp_all [Tbl.wfAbove]
      · rw [if_neg h2]
        simp only [Tbl.wfAbove, Bool.and_eq_true, decide_eq_true_eq]
        exact ⟨⟨hk, hv⟩, ih (some k) (by simp; omega) ht⟩

/-- Setting a key keeps the canonical form. -/
theorem Tbl.wf_set (d : α) (t : Tbl α) (i : Nat) (x : α) (hw : t.wf d = true) : (Tbl.set d t i x).wf d = true :=
  Tbl.wfAbove_set d t none i x trivial hw

theorem Tbl.wfAbove_filter (d : α) (t : Tbl α) (lo : Option Nat) (p : Nat × α → Bool)
    (hw : Tbl.wfAbove d lo t = true) : Tbl.wfAbove d lo (t.filter p) = true := by
  induction t generalizing lo with
  | nil => rfl
  | cons e t ih =>
    obtain ⟨k, v⟩ := e
    have hw' := hw
    simp only [Tbl.wfAbove, Bool.and_eq_true, decide_eq_true_eq] at hw
    rw [List.filter_cons]
    split
    · simp only [Tbl.wfAbove, Bool.and_eq_true, decide_eq_true_eq]
      exact ⟨hw.1, ih (some k) hw.2⟩
    · apply ih
      refine Tbl.wfAbove_mono d t ?_ hw.2
      cases lo <;> simp_all
      omega

/-- Dropping entries keeps the canonical form. -/
theorem Tbl.wf_filter (d : α) (t : Tbl α) (p : Nat × α → Bool) (hw : t.wf d = true) : Tbl.wf d (t.filter p) = true :=
  Tbl.wfAbove_filter d t none p hw

end Sys2Proof.Machine
end

