-- ==== Sys2Proof/Laws/State.lean ====
section
/-! SUPPORT. What each update of the state leaves as it was: one lemma for each field and update. -/

namespace Sys2Proof.Machine

/-! ## State -/

@[simp] theorem State.setCore_agenda (s : State) (c : Nat) (k : Core) : (s.setCore c k).agenda = s.agenda := rfl
@[simp] theorem State.setCore_rr (s : State) (c : Nat) (k : Core) : (s.setCore c k).rr = s.rr := rfl
@[simp] theorem State.setCore_seq (s : State) (c : Nat) (k : Core) : (s.setCore c k).seq = s.seq := rfl
@[simp] theorem State.setCore_cur (s : State) (c : Nat) (k : Core) : (s.setCore c k).cur = s.cur := rfl
@[simp] theorem State.setCore_nextDisp (s : State) (c : Nat) (k : Core) : (s.setCore c k).nextDisp = s.nextDisp := rfl
@[simp] theorem State.setCore_nextId (s : State) (c : Nat) (k : Core) : (s.setCore c k).nextId = s.nextId := rfl
@[simp] theorem State.setCore_cores (s : State) (c : Nat) (k : Core) : (s.setCore c k).cores = s.cores.set .empty c k := rfl
@[simp] theorem State.setCore_threads (s : State) (c : Nat) (k : Core) : (s.setCore c k).threads = s.threads := rfl
@[simp] theorem State.setCore_worlds (s : State) (c : Nat) (k : Core) : (s.setCore c k).worlds = s.worlds := rfl
@[simp] theorem State.setCore_saved (s : State) (c : Nat) (k : Core) : (s.setCore c k).saved = s.saved := rfl
@[simp] theorem State.setCore_evicted (s : State) (c : Nat) (k : Core) : (s.setCore c k).evicted = s.evicted := rfl
@[simp] theorem State.setCore_mem (s : State) (c : Nat) (k : Core) : (s.setCore c k).mem = s.mem := rfl
@[simp] theorem State.setCore_enc (s : State) (c : Nat) (k : Core) : (s.setCore c k).enc = s.enc := rfl
@[simp] theorem State.setCore_ecc (s : State) (c : Nat) (k : Core) : (s.setCore c k).ecc = s.ecc := rfl
@[simp] theorem State.setCore_sramEcc (s : State) (c : Nat) (k : Core) : (s.setCore c k).sramEcc = s.sramEcc := rfl
@[simp] theorem State.setCore_tlb (s : State) (c : Nat) (k : Core) : (s.setCore c k).tlb = s.tlb := rfl
@[simp] theorem State.setCore_dup (s : State) (c : Nat) (k : Core) : (s.setCore c k).dup = s.dup := rfl
@[simp] theorem State.setCore_barriers (s : State) (c : Nat) (k : Core) : (s.setCore c k).barriers = s.barriers := rfl
@[simp] theorem State.setCore_counters (s : State) (c : Nat) (k : Core) : (s.setCore c k).counters = s.counters := rfl
@[simp] theorem State.setCore_triggers (s : State) (c : Nat) (k : Core) : (s.setCore c k).triggers = s.triggers := rfl
@[simp] theorem State.setCore_fired (s : State) (c : Nat) (k : Core) : (s.setCore c k).fired = s.fired := rfl
@[simp] theorem State.setCore_ddesc (s : State) (c : Nat) (k : Core) : (s.setCore c k).ddesc = s.ddesc := rfl
@[simp] theorem State.setCore_tags (s : State) (c : Nat) (k : Core) : (s.setCore c k).tags = s.tags := rfl
@[simp] theorem State.setCore_pool (s : State) (c : Nat) (k : Core) : (s.setCore c k).pool = s.pool := rfl
@[simp] theorem State.setCore_spilled (s : State) (c : Nat) (k : Core) : (s.setCore c k).spilled = s.spilled := rfl
@[simp] theorem State.setCore_submits (s : State) (c : Nat) (k : Core) : (s.setCore c k).submits = s.submits := rfl
@[simp] theorem State.setCore_events (s : State) (c : Nat) (k : Core) : (s.setCore c k).events = s.events := rfl
@[simp] theorem State.setCore_oseq (s : State) (c : Nat) (k : Core) : (s.setCore c k).oseq = s.oseq := rfl
@[simp] theorem State.setCore_held (s : State) (c : Nat) (k : Core) : (s.setCore c k).held = s.held := rfl
@[simp] theorem State.setCore_nbind (s : State) (c : Nat) (k : Core) : (s.setCore c k).nbind = s.nbind := rfl
@[simp] theorem State.setCore_lanterns (s : State) (c : Nat) (k : Core) : (s.setCore c k).lanterns = s.lanterns := rfl
@[simp] theorem State.setCore_gate (s : State) (c : Nat) (k : Core) : (s.setCore c k).gate = s.gate := rfl
@[simp] theorem State.setCore_now (s : State) (c : Nat) (k : Core) : (s.setCore c k).now = s.now := rfl
@[simp] theorem State.setCore_timers (s : State) (c : Nat) (k : Core) : (s.setCore c k).timers = s.timers := rfl
@[simp] theorem State.setCore_motions (s : State) (c : Nat) (k : Core) : (s.setCore c k).motions = s.motions := rfl
@[simp] theorem State.setCore_hotArray (s : State) (c : Nat) (k : Core) : (s.setCore c k).hotArray = s.hotArray := rfl
@[simp] theorem State.setCore_hotReqs (s : State) (c : Nat) (k : Core) : (s.setCore c k).hotReqs = s.hotReqs := rfl
@[simp] theorem State.setCore_hotSamples (s : State) (c : Nat) (k : Core) : (s.setCore c k).hotSamples = s.hotSamples := rfl
@[simp] theorem State.setCore_dead (s : State) (c : Nat) (k : Core) : (s.setCore c k).dead = s.dead := rfl
@[simp] theorem State.setCore_errRing (s : State) (c : Nat) (k : Core) : (s.setCore c k).errRing = s.errRing := rfl
@[simp] theorem State.setCore_linkDown (s : State) (c : Nat) (k : Core) : (s.setCore c k).linkDown = s.linkDown := rfl
@[simp] theorem State.setCore_trngFailed (s : State) (c : Nat) (k : Core) : (s.setCore c k).trngFailed = s.trngFailed := rfl
@[simp] theorem State.setCore_keyOps (s : State) (c : Nat) (k : Core) : (s.setCore c k).keyOps = s.keyOps := rfl
@[simp] theorem State.setCore_linkKeys (s : State) (c : Nat) (k : Core) : (s.setCore c k).linkKeys = s.linkKeys := rfl
@[simp] theorem State.setCore_keyEpoch (s : State) (c : Nat) (k : Core) : (s.setCore c k).keyEpoch = s.keyEpoch := rfl
@[simp] theorem State.setCore_lms (s : State) (c : Nat) (k : Core) : (s.setCore c k).lms = s.lms := rfl
@[simp] theorem State.setCore_jobs (s : State) (c : Nat) (k : Core) : (s.setCore c k).jobs = s.jobs := rfl
@[simp] theorem State.setCore_outbound (s : State) (c : Nat) (k : Core) : (s.setCore c k).outbound = s.outbound := rfl
@[simp] theorem State.setCore_inbound (s : State) (c : Nat) (k : Core) : (s.setCore c k).inbound = s.inbound := rfl
@[simp] theorem State.setCore_outbox (s : State) (c : Nat) (k : Core) : (s.setCore c k).outbox = s.outbox := rfl
@[simp] theorem State.setCore_stalled (s : State) (c : Nat) (k : Core) : (s.setCore c k).stalled = s.stalled := rfl
@[simp] theorem State.setCore_pdcs (s : State) (c : Nat) (k : Core) : (s.setCore c k).pdcs = s.pdcs := rfl
@[simp] theorem State.setCore_boot (s : State) (c : Nat) (k : Core) : (s.setCore c k).boot = s.boot := rfl
@[simp] theorem State.setCore_flashA (s : State) (c : Nat) (k : Core) : (s.setCore c k).flashA = s.flashA := rfl
@[simp] theorem State.setCore_flashB (s : State) (c : Nat) (k : Core) : (s.setCore c k).flashB = s.flashB := rfl
@[simp] theorem State.setCore_point (s : State) (c : Nat) (k : Core) : (s.setCore c k).point = s.point := rfl
@[simp] theorem State.setCore_fetchAt (s : State) (c : Nat) (k : Core) : (s.setCore c k).fetchAt = s.fetchAt := rfl
@[simp] theorem State.setCore_hot (s : State) (c : Nat) (k : Core) : (s.setCore c k).hot = s.hot := rfl
@[simp] theorem State.setWorld_agenda (s : State) (w : Nat) (x : World) : (s.setWorld w x).agenda = s.agenda := rfl
@[simp] theorem State.setWorld_rr (s : State) (w : Nat) (x : World) : (s.setWorld w x).rr = s.rr := rfl
@[simp] theorem State.setWorld_seq (s : State) (w : Nat) (x : World) : (s.setWorld w x).seq = s.seq := rfl
@[simp] theorem State.setWorld_cur (s : State) (w : Nat) (x : World) : (s.setWorld w x).cur = s.cur := rfl
@[simp] theorem State.setWorld_nextDisp (s : State) (w : Nat) (x : World) : (s.setWorld w x).nextDisp = s.nextDisp := rfl
@[simp] theorem State.setWorld_nextId (s : State) (w : Nat) (x : World) : (s.setWorld w x).nextId = s.nextId := rfl
@[simp] theorem State.setWorld_cores (s : State) (w : Nat) (x : World) : (s.setWorld w x).cores = s.cores := rfl
@[simp] theorem State.setWorld_threads (s : State) (w : Nat) (x : World) : (s.setWorld w x).threads = s.threads := rfl
@[simp] theorem State.setWorld_worlds (s : State) (w : Nat) (x : World) : (s.setWorld w x).worlds = s.worlds.set .empty w x := rfl
@[simp] theorem State.setWorld_saved (s : State) (w : Nat) (x : World) : (s.setWorld w x).saved = s.saved := rfl
@[simp] theorem State.setWorld_evicted (s : State) (w : Nat) (x : World) : (s.setWorld w x).evicted = s.evicted := rfl
@[simp] theorem State.setWorld_mem (s : State) (w : Nat) (x : World) : (s.setWorld w x).mem = s.mem := rfl
@[simp] theorem State.setWorld_enc (s : State) (w : Nat) (x : World) : (s.setWorld w x).enc = s.enc := rfl
@[simp] theorem State.setWorld_ecc (s : State) (w : Nat) (x : World) : (s.setWorld w x).ecc = s.ecc := rfl
@[simp] theorem State.setWorld_sramEcc (s : State) (w : Nat) (x : World) : (s.setWorld w x).sramEcc = s.sramEcc := rfl
@[simp] theorem State.setWorld_tlb (s : State) (w : Nat) (x : World) : (s.setWorld w x).tlb = s.tlb := rfl
@[simp] theorem State.setWorld_dup (s : State) (w : Nat) (x : World) : (s.setWorld w x).dup = s.dup := rfl
@[simp] theorem State.setWorld_barriers (s : State) (w : Nat) (x : World) : (s.setWorld w x).barriers = s.barriers := rfl
@[simp] theorem State.setWorld_counters (s : State) (w : Nat) (x : World) : (s.setWorld w x).counters = s.counters := rfl
@[simp] theorem State.setWorld_triggers (s : State) (w : Nat) (x : World) : (s.setWorld w x).triggers = s.triggers := rfl
@[simp] theorem State.setWorld_fired (s : State) (w : Nat) (x : World) : (s.setWorld w x).fired = s.fired := rfl
@[simp] theorem State.setWorld_ddesc (s : State) (w : Nat) (x : World) : (s.setWorld w x).ddesc = s.ddesc := rfl
@[simp] theorem State.setWorld_tags (s : State) (w : Nat) (x : World) : (s.setWorld w x).tags = s.tags := rfl
@[simp] theorem State.setWorld_pool (s : State) (w : Nat) (x : World) : (s.setWorld w x).pool = s.pool := rfl
@[simp] theorem State.setWorld_spilled (s : State) (w : Nat) (x : World) : (s.setWorld w x).spilled = s.spilled := rfl
@[simp] theorem State.setWorld_submits (s : State) (w : Nat) (x : World) : (s.setWorld w x).submits = s.submits := rfl
@[simp] theorem State.setWorld_events (s : State) (w : Nat) (x : World) : (s.setWorld w x).events = s.events := rfl
@[simp] theorem State.setWorld_oseq (s : State) (w : Nat) (x : World) : (s.setWorld w x).oseq = s.oseq := rfl
@[simp] theorem State.setWorld_held (s : State) (w : Nat) (x : World) : (s.setWorld w x).held = s.held := rfl
@[simp] theorem State.setWorld_nbind (s : State) (w : Nat) (x : World) : (s.setWorld w x).nbind = s.nbind := rfl
@[simp] theorem State.setWorld_lanterns (s : State) (w : Nat) (x : World) : (s.setWorld w x).lanterns = s.lanterns := rfl
@[simp] theorem State.setWorld_gate (s : State) (w : Nat) (x : World) : (s.setWorld w x).gate = s.gate := rfl
@[simp] theorem State.setWorld_now (s : State) (w : Nat) (x : World) : (s.setWorld w x).now = s.now := rfl
@[simp] theorem State.setWorld_timers (s : State) (w : Nat) (x : World) : (s.setWorld w x).timers = s.timers := rfl
@[simp] theorem State.setWorld_motions (s : State) (w : Nat) (x : World) : (s.setWorld w x).motions = s.motions := rfl
@[simp] theorem State.setWorld_hotArray (s : State) (w : Nat) (x : World) : (s.setWorld w x).hotArray = s.hotArray := rfl
@[simp] theorem State.setWorld_hotReqs (s : State) (w : Nat) (x : World) : (s.setWorld w x).hotReqs = s.hotReqs := rfl
@[simp] theorem State.setWorld_hotSamples (s : State) (w : Nat) (x : World) : (s.setWorld w x).hotSamples = s.hotSamples := rfl
@[simp] theorem State.setWorld_dead (s : State) (w : Nat) (x : World) : (s.setWorld w x).dead = s.dead := rfl
@[simp] theorem State.setWorld_errRing (s : State) (w : Nat) (x : World) : (s.setWorld w x).errRing = s.errRing := rfl
@[simp] theorem State.setWorld_linkDown (s : State) (w : Nat) (x : World) : (s.setWorld w x).linkDown = s.linkDown := rfl
@[simp] theorem State.setWorld_trngFailed (s : State) (w : Nat) (x : World) : (s.setWorld w x).trngFailed = s.trngFailed := rfl
@[simp] theorem State.setWorld_keyOps (s : State) (w : Nat) (x : World) : (s.setWorld w x).keyOps = s.keyOps := rfl
@[simp] theorem State.setWorld_linkKeys (s : State) (w : Nat) (x : World) : (s.setWorld w x).linkKeys = s.linkKeys := rfl
@[simp] theorem State.setWorld_keyEpoch (s : State) (w : Nat) (x : World) : (s.setWorld w x).keyEpoch = s.keyEpoch := rfl
@[simp] theorem State.setWorld_lms (s : State) (w : Nat) (x : World) : (s.setWorld w x).lms = s.lms := rfl
@[simp] theorem State.setWorld_jobs (s : State) (w : Nat) (x : World) : (s.setWorld w x).jobs = s.jobs := rfl
@[simp] theorem State.setWorld_outbound (s : State) (w : Nat) (x : World) : (s.setWorld w x).outbound = s.outbound := rfl
@[simp] theorem State.setWorld_inbound (s : State) (w : Nat) (x : World) : (s.setWorld w x).inbound = s.inbound := rfl
@[simp] theorem State.setWorld_outbox (s : State) (w : Nat) (x : World) : (s.setWorld w x).outbox = s.outbox := rfl
@[simp] theorem State.setWorld_stalled (s : State) (w : Nat) (x : World) : (s.setWorld w x).stalled = s.stalled := rfl
@[simp] theorem State.setWorld_pdcs (s : State) (w : Nat) (x : World) : (s.setWorld w x).pdcs = s.pdcs := rfl
@[simp] theorem State.setWorld_boot (s : State) (w : Nat) (x : World) : (s.setWorld w x).boot = s.boot := rfl
@[simp] theorem State.setWorld_flashA (s : State) (w : Nat) (x : World) : (s.setWorld w x).flashA = s.flashA := rfl
@[simp] theorem State.setWorld_flashB (s : State) (w : Nat) (x : World) : (s.setWorld w x).flashB = s.flashB := rfl
@[simp] theorem State.setWorld_point (s : State) (w : Nat) (x : World) : (s.setWorld w x).point = s.point := rfl
@[simp] theorem State.setWorld_fetchAt (s : State) (w : Nat) (x : World) : (s.setWorld w x).fetchAt = s.fetchAt := rfl
@[simp] theorem State.setWorld_hot (s : State) (w : Nat) (x : World) : (s.setWorld w x).hot = s.hot := rfl
@[simp] theorem State.setCtx_agenda (s : State) (p : Place) (x : Option Ctx) : (s.setCtx p x).agenda = s.agenda := by cases p <;> rfl
@[simp] theorem State.setCtx_rr (s : State) (p : Place) (x : Option Ctx) : (s.setCtx p x).rr = s.rr := by cases p <;> rfl
@[simp] theorem State.setCtx_seq (s : State) (p : Place) (x : Option Ctx) : (s.setCtx p x).seq = s.seq := by cases p <;> rfl
@[simp] theorem State.setCtx_cur (s : State) (p : Place) (x : Option Ctx) : (s.setCtx p x).cur = s.cur := by cases p <;> rfl
@[simp] theorem State.setCtx_nextDisp (s : State) (p : Place) (x : Option Ctx) : (s.setCtx p x).nextDisp = s.nextDisp := by cases p <;> rfl
@[simp] theorem State.setCtx_nextId (s : State) (p : Place) (x : Option Ctx) : (s.setCtx p x).nextId = s.nextId := by cases p <;> rfl
@[simp] theorem State.setCtx_worlds (s : State) (p : Place) (x : Option Ctx) : (s.setCtx p x).worlds = s.worlds := by cases p <;> rfl
@[simp] theorem State.setCtx_saved (s : State) (p : Place) (x : Option Ctx) : (s.setCtx p x).saved = s.saved := by cases p <;> rfl
@[simp] theorem State.setCtx_evicted (s : State) (p : Place) (x : Option Ctx) : (s.setCtx p x).evicted = s.evicted := by cases p <;> rfl
@[simp] theorem State.setCtx_mem (s : State) (p : Place) (x : Option Ctx) : (s.setCtx p x).mem = s.mem := by cases p <;> rfl
@[simp] theorem State.setCtx_enc (s : State) (p : Place) (x : Option Ctx) : (s.setCtx p x).enc = s.enc := by cases p <;> rfl
@[simp] theorem State.setCtx_ecc (s : State) (p : Place) (x : Option Ctx) : (s.setCtx p x).ecc = s.ecc := by cases p <;> rfl
@[simp] theorem State.setCtx_sramEcc (s : State) (p : Place) (x : Option Ctx) : (s.setCtx p x).sramEcc = s.sramEcc := by cases p <;> rfl
@[simp] theorem State.setCtx_tlb (s : State) (p : Place) (x : Option Ctx) : (s.setCtx p x).tlb = s.tlb := by cases p <;> rfl
@[simp] theorem State.setCtx_dup (s : State) (p : Place) (x : Option Ctx) : (s.setCtx p x).dup = s.dup := by cases p <;> rfl
@[simp] theorem State.setCtx_barriers (s : State) (p : Place) (x : Option Ctx) : (s.setCtx p x).barriers = s.barriers := by cases p <;> rfl
@[simp] theorem State.setCtx_counters (s : State) (p : Place) (x : Option Ctx) : (s.setCtx p x).counters = s.counters := by cases p <;> rfl
@[simp] theorem State.setCtx_triggers (s : State) (p : Place) (x : Option Ctx) : (s.setCtx p x).triggers = s.triggers := by cases p <;> rfl
@[simp] theorem State.setCtx_fired (s : State) (p : Place) (x : Option Ctx) : (s.setCtx p x).fired = s.fired := by cases p <;> rfl
@[simp] theorem State.setCtx_ddesc (s : State) (p : Place) (x : Option Ctx) : (s.setCtx p x).ddesc = s.ddesc := by cases p <;> rfl
@[simp] theorem State.setCtx_tags (s : State) (p : Place) (x : Option Ctx) : (s.setCtx p x).tags = s.tags := by cases p <;> rfl
@[simp] theorem State.setCtx_pool (s : State) (p : Place) (x : Option Ctx) : (s.setCtx p x).pool = s.pool := by cases p <;> rfl
@[simp] theorem State.setCtx_spilled (s : State) (p : Place) (x : Option Ctx) : (s.setCtx p x).spilled = s.spilled := by cases p <;> rfl
@[simp] theorem State.setCtx_submits (s : State) (p : Place) (x : Option Ctx) : (s.setCtx p x).submits = s.submits := by cases p <;> rfl
@[simp] theorem State.setCtx_events (s : State) (p : Place) (x : Option Ctx) : (s.setCtx p x).events = s.events := by cases p <;> rfl
@[simp] theorem State.setCtx_oseq (s : State) (p : Place) (x : Option Ctx) : (s.setCtx p x).oseq = s.oseq := by cases p <;> rfl
@[simp] theorem State.setCtx_held (s : State) (p : Place) (x : Option Ctx) : (s.setCtx p x).held = s.held := by cases p <;> rfl
@[simp] theorem State.setCtx_nbind (s : State) (p : Place) (x : Option Ctx) : (s.setCtx p x).nbind = s.nbind := by cases p <;> rfl
@[simp] theorem State.setCtx_lanterns (s : State) (p : Place) (x : Option Ctx) : (s.setCtx p x).lanterns = s.lanterns := by cases p <;> rfl
@[simp] theorem State.setCtx_gate (s : State) (p : Place) (x : Option Ctx) : (s.setCtx p x).gate = s.gate := by cases p <;> rfl
@[simp] theorem State.setCtx_now (s : State) (p : Place) (x : Option Ctx) : (s.setCtx p x).now = s.now := by cases p <;> rfl
@[simp] theorem State.setCtx_timers (s : State) (p : Place) (x : Option Ctx) : (s.setCtx p x).timers = s.timers := by cases p <;> rfl
@[simp] theorem State.setCtx_motions (s : State) (p : Place) (x : Option Ctx) : (s.setCtx p x).motions = s.motions := by cases p <;> rfl
@[simp] theorem State.setCtx_hotArray (s : State) (p : Place) (x : Option Ctx) : (s.setCtx p x).hotArray = s.hotArray := by cases p <;> rfl
@[simp] theorem State.setCtx_hotReqs (s : State) (p : Place) (x : Option Ctx) : (s.setCtx p x).hotReqs = s.hotReqs := by cases p <;> rfl
@[simp] theorem State.setCtx_hotSamples (s : State) (p : Place) (x : Option Ctx) : (s.setCtx p x).hotSamples = s.hotSamples := by cases p <;> rfl
@[simp] theorem State.setCtx_dead (s : State) (p : Place) (x : Option Ctx) : (s.setCtx p x).dead = s.dead := by cases p <;> rfl
@[simp] theorem State.setCtx_errRing (s : State) (p : Place) (x : Option Ctx) : (s.setCtx p x).errRing = s.errRing := by cases p <;> rfl
@[simp] theorem State.setCtx_linkDown (s : State) (p : Place) (x : Option Ctx) : (s.setCtx p x).linkDown = s.linkDown := by cases p <;> rfl
@[simp] theorem State.setCtx_trngFailed (s : State) (p : Place) (x : Option Ctx) : (s.setCtx p x).trngFailed = s.trngFailed := by cases p <;> rfl
@[simp] theorem State.setCtx_keyOps (s : State) (p : Place) (x : Option Ctx) : (s.setCtx p x).keyOps = s.keyOps := by cases p <;> rfl
@[simp] theorem State.setCtx_linkKeys (s : State) (p : Place) (x : Option Ctx) : (s.setCtx p x).linkKeys = s.linkKeys := by cases p <;> rfl
@[simp] theorem State.setCtx_keyEpoch (s : State) (p : Place) (x : Option Ctx) : (s.setCtx p x).keyEpoch = s.keyEpoch := by cases p <;> rfl
@[simp] theorem State.setCtx_lms (s : State) (p : Place) (x : Option Ctx) : (s.setCtx p x).lms = s.lms := by cases p <;> rfl
@[simp] theorem State.setCtx_jobs (s : State) (p : Place) (x : Option Ctx) : (s.setCtx p x).jobs = s.jobs := by cases p <;> rfl
@[simp] theorem State.setCtx_outbound (s : State) (p : Place) (x : Option Ctx) : (s.setCtx p x).outbound = s.outbound := by cases p <;> rfl
@[simp] theorem State.setCtx_inbound (s : State) (p : Place) (x : Option Ctx) : (s.setCtx p x).inbound = s.inbound := by cases p <;> rfl
@[simp] theorem State.setCtx_outbox (s : State) (p : Place) (x : Option Ctx) : (s.setCtx p x).outbox = s.outbox := by cases p <;> rfl
@[simp] theorem State.setCtx_stalled (s : State) (p : Place) (x : Option Ctx) : (s.setCtx p x).stalled = s.stalled := by cases p <;> rfl
@[simp] theorem State.setCtx_pdcs (s : State) (p : Place) (x : Option Ctx) : (s.setCtx p x).pdcs = s.pdcs := by cases p <;> rfl
@[simp] theorem State.setCtx_boot (s : State) (p : Place) (x : Option Ctx) : (s.setCtx p x).boot = s.boot := by cases p <;> rfl
@[simp] theorem State.setCtx_flashA (s : State) (p : Place) (x : Option Ctx) : (s.setCtx p x).flashA = s.flashA := by cases p <;> rfl
@[simp] theorem State.setCtx_flashB (s : State) (p : Place) (x : Option Ctx) : (s.setCtx p x).flashB = s.flashB := by cases p <;> rfl
@[simp] theorem State.setCtx_point (s : State) (p : Place) (x : Option Ctx) : (s.setCtx p x).point = s.point := by cases p <;> rfl
@[simp] theorem State.setCtx_fetchAt (s : State) (p : Place) (x : Option Ctx) : (s.setCtx p x).fetchAt = s.fetchAt := by cases p <;> rfl
@[simp] theorem State.setCtx_hot (s : State) (p : Place) (x : Option Ctx) : (s.setCtx p x).hot = s.hot := by cases p <;> rfl

/-! ## Contexts and streams -/

@[simp] theorem Ctx.setStream_recva (x : Ctx) (ag : Agent) (st : Stream) : (x.setStream ag st).recva = x.recva := by cases ag <;> rfl
@[simp] theorem Ctx.setStream_readWorld (x : Ctx) (ag : Agent) (st : Stream) : (x.setStream ag st).readWorld = x.readWorld := by cases ag <;> rfl
@[simp] theorem Ctx.setStream_hdr (x : Ctx) (ag : Agent) (st : Stream) : (x.setStream ag st).hdr = x.hdr := by cases ag <;> rfl
@[simp] theorem Ctx.setStream_code (x : Ctx) (ag : Agent) (st : Stream) : (x.setStream ag st).code = x.code := by cases ag <;> rfl
@[simp] theorem Ctx.setStream_argp (x : Ctx) (ag : Agent) (st : Stream) : (x.setStream ag st).argp = x.argp := by cases ag <;> rfl
@[simp] theorem Ctx.setStream_partw (x : Ctx) (ag : Agent) (st : Stream) : (x.setStream ag st).partw = x.partw := by cases ag <;> rfl
@[simp] theorem Ctx.setStream_ext (x : Ctx) (ag : Agent) (st : Stream) : (x.setStream ag st).ext = x.ext := by cases ag <;> rfl
@[simp] theorem Ctx.setStream_world (x : Ctx) (ag : Agent) (st : Stream) : (x.setStream ag st).world = x.world := by cases ag <;> rfl
@[simp] theorem Ctx.setStream_place (x : Ctx) (ag : Agent) (st : Stream) : (x.setStream ag st).place = x.place := by cases ag <;> rfl
@[simp] theorem Ctx.setStream_disp (x : Ctx) (ag : Agent) (st : Stream) : (x.setStream ag st).disp = x.disp := by cases ag <;> rfl
@[simp] theorem Ctx.setStream_mxstat (x : Ctx) (ag : Agent) (st : Stream) : (x.setStream ag st).mxstat = x.mxstat := by cases ag <;> rfl
@[simp] theorem Ctx.setStream_vshape (x : Ctx) (ag : Agent) (st : Stream) : (x.setStream ag st).vshape = x.vshape := by cases ag <;> rfl
@[simp] theorem Ctx.setStream_vksc (x : Ctx) (ag : Agent) (st : Stream) : (x.setStream ag st).vksc = x.vksc := by cases ag <;> rfl
@[simp] theorem Ctx.setStream_vw (x : Ctx) (ag : Agent) (st : Stream) : (x.setStream ag st).vw = x.vw := by cases ag <;> rfl
@[simp] theorem Ctx.setStream_swait (x : Ctx) (ag : Agent) (st : Stream) : (x.setStream ag st).swait = x.swait := by cases ag <;> rfl
@[simp] theorem Ctx.setStream_slotw (x : Ctx) (ag : Agent) (st : Stream) : (x.setStream ag st).slotw = x.slotw := by cases ag <;> rfl
@[simp] theorem Ctx.setStream_extBit (x : Ctx) (ag : Agent) (st : Stream) : (x.setStream ag st).extBit = x.extBit := by cases ag <;> rfl
@[simp] theorem Ctx.setStream_rgd (x : Ctx) (ag : Agent) (st : Stream) : (x.setStream ag st).rgd = x.rgd := by cases ag <;> rfl
@[simp] theorem Ctx.setStream_filled (x : Ctx) (ag : Agent) (st : Stream) : (x.setStream ag st).filled = x.filled := by cases ag <;> rfl
@[simp] theorem Ctx.setStream_released (x : Ctx) (ag : Agent) (st : Stream) : (x.setStream ag st).released = x.released := by cases ag <;> rfl
@[simp] theorem Ctx.setStream_readPos (x : Ctx) (ag : Agent) (st : Stream) : (x.setStream ag st).readPos = x.readPos := by cases ag <;> rfl
@[simp] theorem Ctx.setStream_imgAct (x : Ctx) (ag : Agent) (st : Stream) : (x.setStream ag st).imgAct = x.imgAct := by cases ag <;> rfl
@[simp] theorem Ctx.setStream_imgShad (x : Ctx) (ag : Agent) (st : Stream) : (x.setStream ag st).imgShad = x.imgShad := by cases ag <;> rfl
@[simp] theorem Ctx.setStream_queues (x : Ctx) (ag : Agent) (st : Stream) : (x.setStream ag st).queues = x.queues := by cases ag <;> rfl
@[simp] theorem Ctx.setStream_mcq (x : Ctx) (ag : Agent) (st : Stream) : (x.setStream ag st).mcq = x.mcq := by cases ag <;> rfl
@[simp] theorem Ctx.setStream_ve (x : Ctx) (ag : Agent) (st : Stream) : (x.setStream ag st).ve = x.ve := by cases ag <;> rfl
@[simp] theorem Ctx.setStream_msem (x : Ctx) (ag : Agent) (st : Stream) : (x.setStream ag st).msem = x.msem := by cases ag <;> rfl
@[simp] theorem Ctx.setStream_ctb (x : Ctx) (ag : Agent) (st : Stream) : (x.setStream ag st).ctb = x.ctb := by cases ag <;> rfl
@[simp] theorem Ctx.setStream_ctStatus (x : Ctx) (ag : Agent) (st : Stream) : (x.setStream ag st).ctStatus = x.ctStatus := by cases ag <;> rfl
@[simp] theorem Ctx.setStream_ttd (x : Ctx) (ag : Agent) (st : Stream) : (x.setStream ag st).ttd = x.ttd := by cases ag <;> rfl
@[simp] theorem Ctx.setStream_tt (x : Ctx) (ag : Agent) (st : Stream) : (x.setStream ag st).tt = x.tt := by cases ag <;> rfl
@[simp] theorem Ctx.setStream_tagRefs (x : Ctx) (ag : Agent) (st : Stream) : (x.setStream ag st).tagRefs = x.tagRefs := by cases ag <;> rfl
@[simp] theorem Ctx.setStream_wdcnt (x : Ctx) (ag : Agent) (st : Stream) : (x.setStream ag st).wdcnt = x.wdcnt := by cases ag <;> rfl
@[simp] theorem Ctx.setStream_claimNs (x : Ctx) (ag : Agent) (st : Stream) : (x.setStream ag st).claimNs = x.claimNs := by cases ag <;> rfl
@[simp] theorem Ctx.setStream_primary (x : Ctx) (ag : Agent) (st : Stream) : (x.setStream ag st).primary = x.primary := by cases ag <;> rfl
@[simp] theorem Ctx.setStream_pending (x : Ctx) (ag : Agent) (st : Stream) : (x.setStream ag st).pending = x.pending := by cases ag <;> rfl
@[simp] theorem Ctx.setStream_statAct (x : Ctx) (ag : Agent) (st : Stream) : (x.setStream ag st).statAct = x.statAct := by cases ag <;> rfl
@[simp] theorem Ctx.setStream_statShad (x : Ctx) (ag : Agent) (st : Stream) : (x.setStream ag st).statShad = x.statShad := by cases ag <;> rfl
@[simp] theorem Ctx.setStream_phase (x : Ctx) (ag : Agent) (st : Stream) : (x.setStream ag st).phase = x.phase := by cases ag <;> rfl
@[simp] theorem Ctx.stream_setStream (x : Ctx) (ag : Agent) (st : Stream) : (x.setStream ag st).stream ag = st := by cases ag <;> rfl
@[simp] theorem Ctx.setStream_setStream (x : Ctx) (ag : Agent) (st st' : Stream) : (x.setStream ag st).setStream ag st' = x.setStream ag st' := by cases ag <;> rfl
@[simp] theorem Ctx.setStream_stream (x : Ctx) (ag : Agent) : x.setStream ag (x.stream ag) = x := by cases ag <;> rfl
@[simp] theorem Ctx.control_setStream (x : Ctx) (ag : Agent) (st : Stream) : (x.setStream ag st).control = x.control := by cases ag <;> rfl
@[simp] theorem Stream.setReg_preds (st : Stream) (n : Nat) (v : W64) : (st.setReg n v).preds = st.preds := by unfold Stream.setReg; split <;> rfl
@[simp] theorem Stream.setReg_pc (st : Stream) (n : Nat) (v : W64) : (st.setReg n v).pc = st.pc := by unfold Stream.setReg; split <;> rfl
@[simp] theorem Stream.setReg_rpt (st : Stream) (n : Nat) (v : W64) : (st.setReg n v).rpt = st.rpt := by unfold Stream.setReg; split <;> rfl
@[simp] theorem Stream.setReg_exit (st : Stream) (n : Nat) (v : W64) : (st.setReg n v).exit = st.exit := by unfold Stream.setReg; split <;> rfl
@[simp] theorem Stream.setReg_resume (st : Stream) (n : Nat) (v : W64) : (st.setReg n v).resume = st.resume := by unfold Stream.setReg; split <;> rfl
@[simp] theorem Stream.setReg_fpctl (st : Stream) (n : Nat) (v : W64) : (st.setReg n v).fpctl = st.fpctl := by unfold Stream.setReg; split <;> rfl
@[simp] theorem Stream.setReg_fpstat (st : Stream) (n : Nat) (v : W64) : (st.setReg n v).fpstat = st.fpstat := by unfold Stream.setReg; split <;> rfl
@[simp] theorem Stream.setReg_lfsr (st : Stream) (n : Nat) (v : W64) : (st.setReg n v).lfsr = st.lfsr := by unfold Stream.setReg; split <;> rfl
@[simp] theorem Stream.setReg_wait (st : Stream) (n : Nat) (v : W64) : (st.setReg n v).wait = st.wait := by unfold Stream.setReg; split <;> rfl
@[simp] theorem Stream.setReg_bar (st : Stream) (n : Nat) (v : W64) : (st.setReg n v).bar = st.bar := by unfold Stream.setReg; split <;> rfl
@[simp] theorem Stream.setReg_yield (st : Stream) (n : Nat) (v : W64) : (st.setReg n v).yield = st.yield := by unfold Stream.setReg; split <;> rfl
@[simp] theorem Stream.setReg_out (st : Stream) (n : Nat) (v : W64) : (st.setReg n v).out = st.out := by unfold Stream.setReg; split <;> rfl
@[simp] theorem Stream.setReg_ir (st : Stream) (n : Nat) (v : W64) : (st.setReg n v).ir = st.ir := by unfold Stream.setReg; split <;> rfl
@[simp] theorem Stream.setPred_regs (st : Stream) (n : Nat) (b : Bool) : (st.setPred n b).regs = st.regs := by unfold Stream.setPred; split <;> rfl
@[simp] theorem Stream.setPred_pc (st : Stream) (n : Nat) (b : Bool) : (st.setPred n b).pc = st.pc := by unfold Stream.setPred; split <;> rfl
@[simp] theorem Stream.setPred_rpt (st : Stream) (n : Nat) (b : Bool) : (st.setPred n b).rpt = st.rpt := by unfold Stream.setPred; split <;> rfl
@[simp] theorem Stream.setPred_exit (st : Stream) (n : Nat) (b : Bool) : (st.setPred n b).exit = st.exit := by unfold Stream.setPred; split <;> rfl
@[simp] theorem Stream.setPred_resume (st : Stream) (n : Nat) (b : Bool) : (st.setPred n b).resume = st.resume := by unfold Stream.setPred; split <;> rfl
@[simp] theorem Stream.setPred_fpctl (st : Stream) (n : Nat) (b : Bool) : (st.setPred n b).fpctl = st.fpctl := by unfold Stream.setPred; split <;> rfl
@[simp] theorem Stream.setPred_fpstat (st : Stream) (n : Nat) (b : Bool) : (st.setPred n b).fpstat = st.fpstat := by unfold Stream.setPred; split <;> rfl
@[simp] theorem Stream.setPred_lfsr (st : Stream) (n : Nat) (b : Bool) : (st.setPred n b).lfsr = st.lfsr := by unfold Stream.setPred; split <;> rfl
@[simp] theorem Stream.setPred_wait (st : Stream) (n : Nat) (b : Bool) : (st.setPred n b).wait = st.wait := by unfold Stream.setPred; split <;> rfl
@[simp] theorem Stream.setPred_bar (st : Stream) (n : Nat) (b : Bool) : (st.setPred n b).bar = st.bar := by unfold Stream.setPred; split <;> rfl
@[simp] theorem Stream.setPred_yield (st : Stream) (n : Nat) (b : Bool) : (st.setPred n b).yield = st.yield := by unfold Stream.setPred; split <;> rfl
@[simp] theorem Stream.setPred_out (st : Stream) (n : Nat) (b : Bool) : (st.setPred n b).out = st.out := by unfold Stream.setPred; split <;> rfl
@[simp] theorem Stream.setPred_ir (st : Stream) (n : Nat) (b : Bool) : (st.setPred n b).ir = st.ir := by unfold Stream.setPred; split <;> rfl
@[simp] theorem Stream.advance_regs (st : Stream) : st.advance.regs = st.regs := rfl
@[simp] theorem Stream.advance_preds (st : Stream) : st.advance.preds = st.preds := rfl
@[simp] theorem Stream.advance_pc (st : Stream) : st.advance.pc = st.pc + 1 := rfl
@[simp] theorem Stream.advance_rpt (st : Stream) : st.advance.rpt = 0 := rfl
@[simp] theorem Stream.advance_exit (st : Stream) : st.advance.exit = st.exit := rfl
@[simp] theorem Stream.advance_resume (st : Stream) : st.advance.resume = st.resume := rfl
@[simp] theorem Stream.advance_fpctl (st : Stream) : st.advance.fpctl = st.fpctl := rfl
@[simp] theorem Stream.advance_fpstat (st : Stream) : st.advance.fpstat = st.fpstat := rfl
@[simp] theorem Stream.advance_lfsr (st : Stream) : st.advance.lfsr = st.lfsr := rfl
@[simp] theorem Stream.advance_wait (st : Stream) : st.advance.wait = none := rfl
@[simp] theorem Stream.advance_bar (st : Stream) : st.advance.bar = st.bar := rfl
@[simp] theorem Stream.advance_yield (st : Stream) : st.advance.yield = st.yield := rfl
@[simp] theorem Stream.advance_out (st : Stream) : st.advance.out = st.out := rfl
@[simp] theorem Stream.advance_ir (st : Stream) : st.advance.ir = none := rfl

/-! ## Registers and predicates -/

/-- s0 reads 0. -/
@[simp] theorem Stream.reg_zero (st : Stream) : st.reg 0 = 0 := rfl
/-- p0 reads 1. -/
@[simp] theorem Stream.pred_zero (st : Stream) : st.pred 0 = true := rfl

/-- A register reads as it was written, but for s0. -/
theorem Stream.reg_setReg (st : Stream) {n : Nat} (v : W64) (h : n ≠ 0) : (st.setReg n v).reg n = v := by
  simp [Stream.setReg, Stream.reg, h]

/-- Another register reads as before. -/
theorem Stream.reg_setReg_ne (st : Stream) {n m : Nat} (v : W64) (h : m ≠ n) : (st.setReg n v).reg m = st.reg m := by
  unfold Stream.setReg Stream.reg
  split
  · rfl
  · split
    · rfl
    · exact Tbl.get_set_ne 0 st.regs v h

/-- Every register as a write of s0 leaves it. -/
@[simp] theorem Stream.setReg_zero (st : Stream) (v : W64) : st.setReg 0 v = st := rfl

/-- A predicate reads as it was written, but for p0. -/
theorem Stream.pred_setPred (st : Stream) {n : Nat} (b : Bool) (h : n ≠ 0) : (st.setPred n b).pred n = b := by
  simp [Stream.setPred, Stream.pred, h]

/-- Another predicate reads as before. -/
theorem Stream.pred_setPred_ne (st : Stream) {n m : Nat} (b : Bool) (h : m ≠ n) : (st.setPred n b).pred m = st.pred m := by
  unfold Stream.setPred Stream.pred
  split
  · rfl
  · split
    · rfl
    · exact Tbl.get_set_ne false st.preds b h

@[simp] theorem Stream.setPred_reg (st : Stream) (n m : Nat) (b : Bool) : (st.setPred n b).reg m = st.reg m := by
  simp [Stream.reg]
@[simp] theorem Stream.setReg_pred (st : Stream) (n m : Nat) (v : W64) : (st.setReg n v).pred m = st.pred m := by
  simp [Stream.pred]
@[simp] theorem Stream.advance_reg (st : Stream) (n : Nat) : st.advance.reg n = st.reg n := rfl
@[simp] theorem Stream.advance_pred (st : Stream) (n : Nat) : st.advance.pred n = st.pred n := rfl

/-! ## Places -/

theorem Core.ctx_ne_empty {k : Core} {x : Ctx} (h : k.ctx = some x) : k ≠ Core.empty := by
  intro e
  subst e
  simp [Core.ctx, Core.empty] at h

@[simp] theorem Core.ctx_setCtx (k : Core) (x : Option Ctx) : (k.setCtx x).ctx = x := by
  unfold Core.setCtx Core.ctx
  cases h : k.active <;> simp

@[simp] theorem Core.setCtx_setCtx (k : Core) (x y : Option Ctx) : (k.setCtx x).setCtx y = k.setCtx y := by
  unfold Core.setCtx
  cases h : k.active <;> simp

theorem Core.setCtx_ne_empty (k : Core) (x : Ctx) : k.setCtx (some x) ≠ Core.empty := by
  unfold Core.setCtx Core.empty
  cases h : k.active <;> simp

@[simp] theorem State.core_setCore (s : State) (c : Nat) (k : Core) : (s.setCore c k).core c = k := by
  simp [State.core]

theorem State.core_setCore_ne (s : State) {c d : Nat} (k : Core) (h : d ≠ c) : (s.setCore c k).core d = s.core d := by
  simp [State.core, Tbl.get_set_ne _ _ _ h]

@[simp] theorem State.world_setWorld (s : State) (w : Nat) (x : World) : (s.setWorld w x).world w = x := by
  simp [State.world]

theorem State.world_setWorld_ne (s : State) {w v : Nat} (x : World) (h : v ≠ w) : (s.setWorld w x).world v = s.world v := by
  simp [State.world, Tbl.get_set_ne _ _ _ h]

@[simp] theorem State.world_setCtx (s : State) (p : Place) (x : Option Ctx) (w : Nat) : (s.setCtx p x).world w = s.world w := by
  simp [State.world]

@[simp] theorem State.ctx_setCtx (s : State) (p : Place) (x : Option Ctx) : (s.setCtx p x).ctx p = x := by
  cases p <;> simp [State.setCtx, State.ctx]

/-- Another place holds what it held. -/
theorem State.ctx_setCtx_ne (s : State) {p q : Place} (x : Option Ctx) (h : q ≠ p) : (s.setCtx p x).ctx q = s.ctx q := by
  cases p <;> cases q <;> simp_all [State.setCtx, State.ctx, State.core, Tbl.get_set_ne]

/-- The last of two contexts put in one place stands. -/
@[simp] theorem State.setCtx_setCtx (s : State) (p : Place) (x : Ctx) (y : Option Ctx) :
    (s.setCtx p (some x)).setCtx p y = s.setCtx p y := by
  cases p with
  | core c =>
    simp only [State.setCtx, State.core_setCore, Core.setCtx_setCtx]
    simp only [State.setCore, State.mk.injEq, true_and, and_true]
    exact Tbl.set_set _ _ _ _ (Core.setCtx_ne_empty _ _)
  | thread t =>
    simp [State.setCtx, Tbl.set_set]

end Sys2Proof.Machine
end

