-- ==== Sys2Proof/Laws/Memory.lean ====
section
/-! SUPPORT. Memory: a byte reads as it was last written, others as before, and every operation on memory keeps its canonical
form. -/

namespace Sys2Proof.Machine

variable {s : State}

/-! ## Folds -/

/-- What every step of a fold keeps, the fold keeps. -/
theorem foldl_keeps {α β : Type} {P : α → Prop} {f : α → β → α} (hf : ∀ a b, P a → P (f a b)) (l : List β) (a : α) (h : P a) :
    P (l.foldl f a) := by
  induction l generalizing a with
  | nil => exact h
  | cons b l ih => exact ih _ (hf a b h)

/-! ## Bytes by physical address -/

/-- A byte below those poked reads as before. -/
theorem State.poke_get_lt (pa : Nat) (l : List Byte) {a : Nat} (h : a < pa) : (s.poke pa l).mem.get 0 a = s.mem.get 0 a := by
  induction l generalizing s pa with
  | nil => rfl
  | cons b l ih =>
    rw [State.poke, ih (pa + 1) (by omega)]
    exact Tbl.get_set_ne _ _ _ (by omega)

/-- So does one above them. -/
theorem State.poke_get_ge (pa : Nat) (l : List Byte) {a : Nat} (h : pa + l.length ≤ a) :
    (s.poke pa l).mem.get 0 a = s.mem.get 0 a := by
  induction l generalizing s pa with
  | nil => rfl
  | cons b l ih =>
    rw [List.length_cons] at h
    rw [State.poke, ih (pa + 1) (by omega)]
    exact Tbl.get_set_ne _ _ _ (by omega)

/-- A poked byte reads as it was poked. -/
theorem State.poke_get (pa : Nat) (l : List Byte) {i : Nat} (h : i < l.length) :
    (s.poke pa l).mem.get 0 (pa + i) = l[i] := by
  induction l generalizing s pa i with
  | nil => simp at h
  | cons b l ih =>
    rw [State.poke]
    cases i with
    | zero => rw [State.poke_get_lt _ _ (by omega)]; simp
    | succ i =>
      have := ih (s := { s with mem := s.mem.set 0 pa b }) (pa + 1) (i := i) (by simpa using h)
      rw [show pa + (i + 1) = pa + 1 + i by omega, this]
      simp

/-- Poking bytes changes memory alone. -/
theorem State.poke_frame (pa : Nat) (l : List Byte) : { s.poke pa l with mem := s.mem } = s := by
  induction l generalizing s pa with
  | nil => rfl
  | cons b l ih =>
    have := ih (s := { s with mem := s.mem.set 0 pa b }) (pa + 1)
    simp only [State.poke]
    exact congrArg (fun t : State => { t with mem := s.mem }) this

/-- A byte written in a view stands at its place. -/
theorem State.writeAt_get (pa : Nat) (v : Option EncTag) (b : Byte) : (s.writeAt pa v b).mem.get 0 pa = b := by
  simp [State.writeAt]

/-- Clearing standing errors leaves the bytes. -/
@[simp] theorem State.shadowRewritten_mem (pa n : Nat) : (s.shadowRewritten pa n).mem = s.mem := by
  unfold State.shadowRewritten; split <;> rfl
@[simp] theorem State.rewritten_mem (pa n : Nat) : (s.rewritten pa n).mem = s.mem := State.shadowRewritten_mem pa n
@[simp] theorem State.sramCorrected_mem (c off n : Nat) : (s.sramCorrected c off n).mem = s.mem := by
  unfold State.sramCorrected; split <;> rfl

/-! ## The canonical form -/

/-- What keeps the form at every step of a fold keeps it in the fold. -/
theorem foldl_wf {β : Type} {f : State → β → State} (hf : ∀ s b, Memory.wf s.mem = true → Memory.wf (f s b).mem = true) (l : List β)
    (h : Memory.wf s.mem = true) : Memory.wf (l.foldl f s).mem = true :=
  foldl_keeps (P := fun s : State => Memory.wf s.mem = true) hf l s h

/-- Both ways of a choice keep the form. -/
theorem ite_wf {c : Prop} [Decidable c] {t u : State} (ht : Memory.wf t.mem = true) (hu : Memory.wf u.mem = true) :
    Memory.wf (if c then t else u).mem = true := by
  split <;> assumption

theorem State.poke_wf (pa : Nat) (l : List Byte) (h : Memory.wf s.mem = true) : Memory.wf (s.poke pa l).mem = true := by
  induction l generalizing s pa with
  | nil => exact h
  | cons b l ih => exact ih _ (Tbl.wf_set 0 s.mem pa b h)

theorem State.poke64_wf (pa : Nat) (v : W64) (h : Memory.wf s.mem = true) : Memory.wf (s.poke64 pa v).mem = true :=
  State.poke_wf _ _ h

theorem State.clearRange_wf (pa n : Nat) (h : Memory.wf s.mem = true) : Memory.wf (s.clearRange pa n).mem = true :=
  Tbl.wf_filter 0 _ _ ((State.shadowRewritten_mem pa n).symm ▸ h)

theorem State.revive_wf (pa : Nat) (h : Memory.wf s.mem = true) : Memory.wf (s.revive pa).mem = true := by
  unfold State.revive
  split
  · exact State.clearRange_wf _ _ h
  · exact h

theorem State.retag_wf (gr : Nat) (v : Option EncTag) (h : Memory.wf s.mem = true) : Memory.wf (s.retag gr v).mem = true := by
  unfold State.retag
  split
  · exact h
  · split
    · exact h
    · exact State.poke_wf _ _ h

theorem State.writeAt_wf (pa : Nat) (v : Option EncTag) (b : Byte) (h : Memory.wf s.mem = true) :
    Memory.wf (s.writeAt pa v b).mem = true :=
  Tbl.wf_set 0 _ pa b (State.retag_wf _ _ (State.revive_wf _ h))

theorem State.writeByte_wf (pa : Nat) (v : Option EncTag) (b : Byte) (h : Memory.wf s.mem = true) :
    Memory.wf (s.writeByte pa v b).mem = true := by
  unfold State.writeByte
  split
  dsimp only
  split
  · exact State.writeAt_wf _ _ _ (State.writeAt_wf _ _ _ h)
  · exact State.writeAt_wf _ _ _ h

theorem State.applyHeld_wf (w : HeldWrite) (h : Memory.wf s.mem = true) : Memory.wf (s.applyHeld w).mem = true := by
  unfold State.applyHeld
  split
  · exact h
  · dsimp only
    split
    · rw [State.rewritten_mem]; exact foldl_wf (fun _ _ h => State.writeByte_wf _ _ _ h) _ h
    · exact foldl_wf (fun _ _ h => State.writeByte_wf _ _ _ h) _ h

theorem State.dupRelease_wf (page : Nat) (h : Memory.wf s.mem = true) : Memory.wf (s.dupRelease page).mem = true := by
  unfold State.dupRelease
  exact foldl_wf (fun _ _ h => State.applyHeld_wf _ h) _ h

theorem State.dupReleaseIf_wf (p : DupPage → Bool) (h : Memory.wf s.mem = true) : Memory.wf (s.dupReleaseIf p).mem = true :=
  foldl_wf (fun _ _ h => State.dupRelease_wf _ h) _ h

theorem State.dupSettle_wf (pa n : Nat) (h : Memory.wf s.mem = true) : Memory.wf (s.dupSettle pa n).mem = true :=
  State.dupReleaseIf_wf _ h

theorem State.writePa_wf (pa : Nat) (l : List Byte) (h : Memory.wf s.mem = true) : Memory.wf (s.writePa pa l).mem = true := by
  unfold State.writePa
  rw [State.rewritten_mem]
  exact foldl_wf (fun _ _ h => State.writeByte_wf _ _ _ h) _ (State.dupSettle_wf _ _ h)

theorem State.write64_wf (pa : Nat) (v : W64) (h : Memory.wf s.mem = true) : Memory.wf (s.write64 pa v).mem = true :=
  State.writePa_wf _ _ h

/-- A granule written whole at one place. -/
theorem State.granuleAt_wf (pa : Nat) (v : Option EncTag) (l : Tbl Byte) (h : Memory.wf s.mem = true) :
    Memory.wf (s.granuleAt pa v l).mem = true :=
  foldl_keeps (P := fun t : Tbl Byte => Memory.wf t = true) (fun t _ h => Tbl.wf_set 0 t _ _ h) _ _
    (State.clearRange_wf _ _ (State.revive_wf _ h))

theorem State.putGranule_wf (gr : Nat) (v : Option EncTag) (l : Tbl Byte) (h : Memory.wf s.mem = true) :
    Memory.wf (s.putGranule gr v l).mem = true := by
  unfold State.putGranule
  dsimp only
  split
  · exact State.granuleAt_wf _ _ _ (State.granuleAt_wf _ _ _ (State.dupSettle_wf _ _ h))
  · exact State.granuleAt_wf _ _ _ (State.dupSettle_wf _ _ h)

/-- Values of a canonical table replaced, those that become the default dropped. -/
theorem Tbl.wfAbove_map_filter {α : Type} [DecidableEq α] (d : α) (t : Tbl α) (g : Nat × α → Nat × α) (hg : ∀ e, (g e).1 = e.1)
    (lo : Option Nat) (h : Tbl.wfAbove d lo t = true) :
    Tbl.wfAbove d lo ((t.map g).filter fun e => decide (e.2 ≠ d)) = true := by
  induction t generalizing lo with
  | nil => rfl
  | cons e t ih =>
    obtain ⟨k, v⟩ := e
    simp only [Tbl.wfAbove, Bool.and_eq_true, decide_eq_true_eq] at h
    have hk : (g (k, v)).1 = k := hg _
    rw [List.map_cons, List.filter_cons]
    generalize hp : g (k, v) = p at hk ⊢
    obtain ⟨k', v'⟩ := p
    simp only at hk
    subst hk
    split
    · rename_i hv
      simp only [Tbl.wfAbove, Bool.and_eq_true, decide_eq_true_eq]
      exact ⟨⟨h.1.1, by simpa using hv⟩, ih _ h.2⟩
    · apply ih
      refine Tbl.wfAbove_mono d t ?_ h.2
      cases lo <;> simp_all
      omega

theorem State.hotHalve_wf (base ctl : Nat) (h : Memory.wf s.mem = true) : Memory.wf (s.hotHalve base ctl).mem = true := by
  have := Tbl.wfAbove_map_filter (0 : Byte) s.mem
    (fun e => if (s.hotCell base e.1).map hotController = some ctl then (e.1, e.2 >>> 1) else (e.1, e.2))
    (by intro e; split <;> rfl) none h
  simpa [State.hotHalve, Memory.wf, Tbl.wf, bne_iff_ne, Bool.beq_eq_decide_eq, bne] using this

theorem State.hotRequest_wf (pa : Nat) (h : Memory.wf s.mem = true) : Memory.wf (s.hotRequest pa).mem = true := by
  unfold State.hotRequest
  split
  · dsimp only
    split
    · exact h
    · exact ite_wf (State.hotHalve_wf _ _ (State.writePa_wf _ _ h)) (State.writePa_wf _ _ h)
  · exact h

theorem State.hotRequests_wf (pa n : Nat) (h : Memory.wf s.mem = true) : Memory.wf (s.hotRequests pa n).mem = true := by
  unfold State.hotRequests
  split
  · exact h
  · exact foldl_wf (fun _ _ h => State.hotRequest_wf _ h) _ h

theorem State.putPhys_wf (pa : Nat) (l : List Byte) (h : Memory.wf s.mem = true) : Memory.wf (s.putPhys pa l).mem = true :=
  State.hotRequests_wf _ _ (State.writePa_wf _ _ h)

/-- Pieces laid down keep the form. -/
theorem State.layPieces_wf (pa : Nat) (l : List Piece) (h : Memory.wf s.mem = true) : Memory.wf (s.layPieces pa l).mem = true :=
  foldl_wf (f := fun s (x : Piece) => s.writePa (pa + x.1) x.2) (fun _ _ h => State.writePa_wf _ _ h) _ h

/-- A context image written keeps the form. -/
theorem State.writeImage_wf (pa : Nat) (img : Image) (h : Memory.wf s.mem = true) : Memory.wf (s.writeImage pa img).mem = true :=
  State.hotRequests_wf _ _ (foldl_wf (f := fun s (x : Nat × EncTag × Tbl Byte) => s.putGranule ((pa + x.1) / 64) (some x.2.1) x.2.2)
    (fun _ _ h => State.putGranule_wf _ _ _ h) _
    (State.layPieces_wf _ _ (foldl_wf (fun _ _ h => State.putGranule_wf _ _ _ h) _ h)))

theorem State.copyGranules_wf (src dst n : Nat) (h : Memory.wf s.mem = true) : Memory.wf (s.copyGranules src dst n).mem = true := by
  refine State.hotRequests_wf _ _ (foldl_wf (fun s i h => ?_) _ h)
  unfold State.copyGranule
  split <;> exact State.putGranule_wf _ _ _ h

/-- Pieces written into an image keep the form. -/
theorem State.writePieces_wf (pa : Nat) (l : List Piece) (h : Memory.wf s.mem = true) : Memory.wf (s.writePieces pa l).mem = true :=
  foldl_wf (f := fun s (x : Piece) => s.putPhys (pa + x.1) x.2) (fun _ _ h => State.putPhys_wf _ _ h) _ h

theorem State.trackSlot_wf (w slot va n : Nat) (h : Memory.wf s.mem = true) : Memory.wf (s.trackSlot w slot va n).mem = true := by
  unfold State.trackSlot
  dsimp only
  split
  · exact h
  · refine foldl_wf (fun s _ h => ?_) _ h
    split
    · exact State.hotRequests_wf _ _ (State.writePa_wf _ _ h)
    · exact h

theorem State.track_wf (w va n : Nat) (h : Memory.wf s.mem = true) : Memory.wf (s.track w va n).mem = true := by
  unfold State.track
  split
  · exact h
  · exact foldl_wf (fun _ _ h => State.trackSlot_wf _ _ _ _ h) _ h

theorem State.logError_wf (granule kind : Nat) (h : Memory.wf s.mem = true) : Memory.wf (s.logError granule kind).mem = true := by
  unfold State.logError
  split
  · exact h
  · dsimp only
    split
    · split
      · split
        · exact h
        · exact State.write64_wf _ _ h
      · exact State.write64_wf _ _ h
    · exact State.write64_wf _ _ (State.write64_wf _ _ (State.write64_wf _ _ (State.write64_wf _ _ (State.write64_wf _ _ h))))

theorem State.corrected_wf (pa n : Nat) (h : Memory.wf s.mem = true) : Memory.wf (s.corrected pa n).mem = true := by
  unfold State.corrected
  have h : Memory.wf (if inShadow pa then s.sramCorrected 128 (pa - shadowBase) n else s).mem = true := by
    split
    · rwa [State.sramCorrected_mem]
    · exact h
  generalize (if inShadow pa then s.sramCorrected 128 (pa - shadowBase) n else s) = s at h ⊢
  show Memory.wf (if s.ecc.isEmpty then s else _).mem = true
  split
  · exact h
  · refine foldl_wf (fun s _ h => ?_) _ h
    dsimp only
    split
    · exact State.logError_wf _ _ h
    · exact h

/-- A read at home keeps the form. -/
theorem State.touched_wf (pa n : Nat) (h : Memory.wf s.mem = true) : Memory.wf (s.touched pa n).mem = true :=
  State.hotRequests_wf _ _ (State.corrected_wf _ _ h)

theorem State.orPte_wf (pa : Nat) (m : W64) (h : Memory.wf s.mem = true) : Memory.wf (s.orPte pa m).mem = true := by
  unfold State.orPte
  dsimp only
  split
  · exact State.dupSettle_wf _ _ h
  · exact State.hotRequests_wf _ _ (State.write64_wf _ _ (State.dupSettle_wf _ _ h))

theorem State.setDirty_wf (e : TlbEntry) (h : Memory.wf s.mem = true) : Memory.wf (s.setDirty e).mem = true := by
  unfold State.setDirty
  split
  · exact h
  · exact State.orPte_wf _ _ h

theorem Seg.put_wf (who : Option Agent) (skip : Bool) (g : Seg) (l : List Byte) (h : Memory.wf s.mem = true) :
    Memory.wf (g.put s who skip l).mem = true := by
  unfold Seg.put
  dsimp only
  split
  · exact h
  · have k := foldl_wf (f := fun s (y : Byte × Nat) => s.writeByte (g.pa + y.2) (g.view s y.2) y.1)
      (fun _ _ h => State.writeByte_wf _ _ _ h)
      ((g.encode l).zipIdx.filter fun (_, i) => !(skip && (s.liveAt (g.pa + i)).isSome)) (State.dupSettle_wf g.pa g.stored h)
    split
    · rw [State.rewritten_mem]; exact k
    · exact k

theorem Seg.write_wf (acc : Access) (skip : Bool) (g : Seg) (l : List Byte) (h : Memory.wf s.mem = true) :
    Memory.wf (g.write s acc skip l).mem = true := by
  have hk : Memory.wf ((g.mark s).hotRequests g.pa g.stored).mem = true :=
    State.hotRequests_wf _ _ (State.track_wf _ _ _ (State.setDirty_wf _ h))
  unfold Seg.write Seg.apply
  split
  · split
    · unfold State.ring; split <;> exact hk
    · exact hk
  · exact Seg.put_wf _ _ _ _ hk

/-- What a move of a crumb does keeps the form. -/
theorem State.moveCrumb_wf (src dst : Nat) (h : Memory.wf s.mem = true) : Memory.wf (s.moveCrumb src dst).mem = true := by
  unfold State.moveCrumb
  dsimp only
  exact foldl_keeps (P := fun t : Tbl Byte => Memory.wf t = true) (fun t _ h => Tbl.wf_set 0 t _ _ h) _ _
    (State.clearRange_wf _ _ (State.revive_wf _ h))

/-- Memory has its form at reset. -/
theorem State.reset_wf : Memory.wf State.reset.mem = true := rfl

end Sys2Proof.Machine
end

