-- ==== Sys2Proof/Laws/Word.lean ====
section
/-! SUPPORT. What executing a word comes to, once its stream stands: each part of the monad answers as these equations say. -/

namespace Sys2Proof.Machine

/-! ## The monad -/

@[simp] theorem M.pure_run {α : Type} (a : α) (s : State) : (pure a : M α) s = .ok (a, s) := rfl

@[simp] theorem M.bind_run {α β : Type} (m : M α) (f : α → M β) (s : State) :
    (m >>= f) s = match m s with
      | .ok (a, t) => f a t
      | .error e => .error e := by
  change (StateT.bind m f s : Except Stop (β × State)) = _
  unfold StateT.bind
  cases m s <;> rfl

@[simp] theorem M.map_run {α β : Type} (m : M α) (f : α → β) (s : State) :
    (f <$> m) s = match m s with
      | .ok (a, t) => .ok (f a, t)
      | .error e => .error e := by
  change (StateT.map f m s : Except Stop (β × State)) = _
  unfold StateT.map
  cases m s <;> rfl

@[simp] theorem M.get_run (s : State) : (MonadState.get : M State) s = .ok (s, s) := rfl
@[simp] theorem M.getThe_run (s : State) : (getThe State : M State) s = .ok (s, s) := rfl
@[simp] theorem M.set_run (s t : State) : (set t : M PUnit) s = .ok (⟨⟩, t) := rfl
@[simp] theorem M.upd_run (g : State → State) (s : State) : M.upd g s = .ok ((), g s) := rfl
@[simp] theorem M.read_run {α : Type} (g : State → α) (s : State) : M.get g s = .ok (g s, s) := rfl
@[simp] theorem M.step_run {α : Type} (g : State → α × State) (s : State) : M.step g s = .ok (g s) := rfl
@[simp] theorem M.check_true (cause : Nat) (c d : W64) (s : State) : M.check true cause c d s = .ok ((), s) := rfl
@[simp] theorem M.check_false (cause : Nat) (c d : W64) (s : State) :
    M.check false cause c d s = .error (.fault { cause, c, d, defer := false, log := none }) := rfl
@[simp] theorem M.await_true (w : Wait) (s : State) : M.await true w s = .ok ((), s) := rfl
@[simp] theorem M.await_false (w : Wait) (s : State) : M.await false w s = .error (.wait w) := rfl

/-! ## The stream of the word -/

variable {s : State} {ag : Agent} {x : Ctx}

theorem State.At.put (h : s.At ag x) (y : Ctx) : (s.put ag y).At ag y :=
  ⟨by simp [State.put, h.cur], by simp [State.put]⟩

theorem State.At.putStream (h : s.At ag x) (st : Stream) : (s.putStream ag x st).At ag (x.setStream ag st) := h.put _

@[simp] theorem State.put_put (s : State) (ag : Agent) (y z : Ctx) : (s.put ag y).put ag z = s.put ag z := by
  simp [State.put]

@[simp] theorem State.put_world (s : State) (ag : Agent) (y : Ctx) (w : Nat) : (s.put ag y).world w = s.world w := by
  simp [State.put]

@[simp] theorem State.putStream_putStream (s : State) (ag : Agent) (y : Ctx) (st st' : Stream) :
    (s.putStream ag y st).putStream ag (y.setStream ag st) st' = s.putStream ag y st' := by
  simp [State.putStream]

theorem curAgent_run (h : s.At ag x) : curAgent s = .ok (ag, s) := by simp [curAgent, h.cur]
theorem curCtx_run (h : s.At ag x) : curCtx s = .ok (x, s) := by simp [curCtx, h.cur, h.ctx]
theorem curStream_run (h : s.At ag x) : curStream s = .ok (x.stream ag, s) := by simp [curStream, h.cur, h.ctx]
theorem curWorld_run (h : s.At ag x) : curWorld s = .ok (x.world, s) := by simp [curWorld, curCtx_run h]
theorem modCtx_run (h : s.At ag x) (g : Ctx → Ctx) : modCtx g s = .ok ((), s.put ag (g x)) := by
  simp [modCtx, h.cur, h.ctx, State.put]
theorem modStream_run (h : s.At ag x) (g : Stream → Stream) :
    modStream g s = .ok ((), s.putStream ag x (g (x.stream ag))) := by
  simp [modStream, h.cur, h.ctx, State.putStream, State.put]
theorem sreg_run (h : s.At ag x) (n : BitVec 6) : sreg n s = .ok ((x.stream ag).reg n.toNat, s) := by
  simp [sreg, curStream_run h]
theorem preg_run (h : s.At ag x) (n : Nat) : preg n s = .ok ((x.stream ag).pred n, s) := by
  simp [preg, curStream_run h]
theorem writeSreg_run (h : s.At ag x) (n : BitVec 6) (v : W64) :
    writeSreg n v s = .ok ((), s.putStream ag x ((x.stream ag).setReg n.toNat v)) := modStream_run h _
theorem writePreg_run (h : s.At ag x) (n : Nat) (b : Bool) :
    writePreg n b s = .ok ((), s.putStream ag x ((x.stream ag).setPred n b)) := modStream_run h _
theorem setFlags_run (h : s.At ag x) (fl : BitVec 7) :
    setFlags fl s = .ok ((), s.putStream ag x { x.stream ag with fpstat := (x.stream ag).fpstat ||| fl.setWidth 64 }) :=
  modStream_run h _
theorem setPc_run (h : s.At ag x) (pc : Int) :
    setPc pc s = .ok ((), s.putStream ag x { x.stream ag with pc := pc }) := modStream_run h _
theorem requireLegal_run (h : s.At ag x) {l : Legal} (hl : l.ok ag x.world = true) : requireLegal l s = .ok ((), s) := by
  simp [requireLegal, curAgent_run h, curWorld_run h, hl]

/-! ## Words -/

theorem State.At.advanced (h : s.At ag x) : (s.advanced ag x).At ag (x.setStream ag (x.stream ag).advance) := h.putStream _

/-- A body that answers decides the word. -/
theorem runBody_ok (h : s.At ag x) {body : M Unit} {t : State} (hb : body s = .ok ((), t)) : s.runBody body = .next t := by
  simp [State.runBody, h.cur, h.ctx, hb]

/-- A body that faults leaves the word undone and its task stopping. -/
theorem runBody_fault (h : s.At ag x) {body : M Unit} {f : FaultInfo} (hb : body s = .error (.fault f)) :
    s.runBody body = .next ((s.logFault f).raise ag.place ag.code (f.atWord (x.stream ag).pc) 0) := by
  simp [State.runBody, h.cur, h.ctx, hb]

/-- A body that waits leaves the state but for the stream's wait. -/
theorem runBody_wait (h : s.At ag x) {body : M Unit} {w : Wait} (hb : body s = .error (.wait w)) :
    s.runBody body = .next (s.putStream ag x { x.stream ag with wait := some w }) := by
  simp [State.runBody, h.cur, h.ctx, hb, State.putStream, State.put]

/-- An unguarded word whose body answers. -/
theorem word_ok (h : s.At ag x) {l : Legal} (hl : l.ok ag x.world = true) {body : M Unit} {t : State}
    (hb : body (s.advanced ag x) = .ok ((), t)) : word l body s = .next t :=
  runBody_ok h (by simp [requireLegal_run h hl, modStream_run h]; exact hb)

/-- A guarded word whose guard is 1 and whose body answers. -/
theorem wordIf_ok (h : s.At ag x) {l : Legal} (hl : l.ok ag x.world = true) {pg : BitVec 3}
    (hp : (x.stream ag).pred pg.toNat = true) {body : M Unit} {t : State}
    (hb : body (s.advanced ag x) = .ok ((), t)) : wordIf l pg body s = .next t :=
  runBody_ok h (by simp [requireLegal_run h hl, preg_run h, modStream_run h, hp]; exact hb)

/-- A guarded word whose guard is 0 only advances the PC (R195). -/
theorem wordIf_off (h : s.At ag x) {l : Legal} (hl : l.ok ag x.world = true) {pg : BitVec 3}
    (hp : (x.stream ag).pred pg.toNat = false) (body : M Unit) : wordIf l pg body s = .next (s.advanced ag x) :=
  runBody_ok h (by simp [requireLegal_run h hl, preg_run h, modStream_run h, hp, State.advanced])

/-- A guarded word with checks that pass, whose body answers. -/
theorem wordChecked_ok (h : s.At ag x) {l : Legal} (hl : l.ok ag x.world = true) {checks : M Unit}
    (hc : checks s = .ok ((), s)) {pg : BitVec 3} (hp : (x.stream ag).pred pg.toNat = true) {body : M Unit} {t : State}
    (hb : body (s.advanced ag x) = .ok ((), t)) : wordChecked l checks pg body s = .next t :=
  runBody_ok h (by simp [requireLegal_run h hl, hc, preg_run h, modStream_run h, hp]; exact hb)

/-- A word in a stream where it is not legal takes STREAM (R198 step 3). -/
theorem word_illegal (h : s.At ag x) {l : Legal} (hl : l.ok ag x.world = false) (body : M Unit) :
    word l body s =
      .next (s.raise ag.place ag.code
        (FaultInfo.atWord { cause := Cause.stream, c := 0, d := 0, defer := false, log := none } (x.stream ag).pc) 0) := by
  rw [word, runBody_fault h (f := { cause := Cause.stream, c := 0, d := 0, defer := false, log := none })]
  · rfl
  · simp [requireLegal, curAgent_run h, curWorld_run h, hl]

/-- So does a guarded one, whatever its guard. -/
theorem wordIf_illegal (h : s.At ag x) {l : Legal} (hl : l.ok ag x.world = false) (pg : BitVec 3) (body : M Unit) :
    wordIf l pg body s =
      .next (s.raise ag.place ag.code
        (FaultInfo.atWord { cause := Cause.stream, c := 0, d := 0, defer := false, log := none } (x.stream ag).pc) 0) := by
  rw [wordIf, runBody_fault h (f := { cause := Cause.stream, c := 0, d := 0, defer := false, log := none })]
  · rfl
  · simp [requireLegal, curAgent_run h, curWorld_run h, hl]

theorem wordChecked_illegal (h : s.At ag x) {l : Legal} (hl : l.ok ag x.world = false) (checks : M Unit) (pg : BitVec 3)
    (body : M Unit) : wordChecked l checks pg body s =
      .next (s.raise ag.place ag.code
        (FaultInfo.atWord { cause := Cause.stream, c := 0, d := 0, defer := false, log := none } (x.stream ag).pc) 0) := by
  rw [wordChecked, runBody_fault h (f := { cause := Cause.stream, c := 0, d := 0, defer := false, log := none })]
  · rfl
  · simp [requireLegal, curAgent_run h, curWorld_run h, hl]

/-- A guarded word whose guard is 1 and whose body faults. -/
theorem wordIf_fault (h : s.At ag x) {l : Legal} (hl : l.ok ag x.world = true) {pg : BitVec 3}
    (hp : (x.stream ag).pred pg.toNat = true) {body : M Unit} {f : FaultInfo}
    (hb : body (s.advanced ag x) = .error (.fault f)) :
    wordIf l pg body s = .next ((s.logFault f).raise ag.place ag.code (f.atWord (x.stream ag).pc) 0) :=
  runBody_fault h (by simp [requireLegal_run h hl, preg_run h, modStream_run h, hp]; exact hb)

/-- One whose body waits: the stream stays at the word. -/
theorem wordIf_wait (h : s.At ag x) {l : Legal} (hl : l.ok ag x.world = true) {pg : BitVec 3}
    (hp : (x.stream ag).pred pg.toNat = true) {body : M Unit} {w : Wait} (hb : body (s.advanced ag x) = .error (.wait w)) :
    wordIf l pg body s = .next (s.putStream ag x { x.stream ag with wait := some w }) :=
  runBody_wait h (by simp [requireLegal_run h hl, preg_run h, modStream_run h, hp]; exact hb)

/-- A guarded word with a check that fails takes the check's fault, whatever its guard (R198 step 5). -/
theorem wordChecked_fault (h : s.At ag x) {l : Legal} (hl : l.ok ag x.world = true) {checks : M Unit} {f : FaultInfo}
    (hc : checks s = .error (.fault f)) (pg : BitVec 3) (body : M Unit) :
    wordChecked l checks pg body s = .next ((s.logFault f).raise ag.place ag.code (f.atWord (x.stream ag).pc) 0) :=
  runBody_fault h (by simp [requireLegal_run h hl, hc])

/-- A repetition that is not the last: its body runs with the repeat state moved on. -/
theorem wordRep_more (h : s.At ag x) {l : Legal} (hl : l.ok ag x.world = true) {checks : M Unit}
    (hc : checks s = .ok ((), s)) {pm : BitVec 3} {rep : Nat} {body : Nat → M Unit} {t : State}
    (hg : (x.stream ag).rpt ≠ 0 ∨ (x.stream ag).pred pm.toNat = true) (hr : (x.stream ag).rpt < rep)
    (hb : body (x.stream ag).rpt
      (s.putStream ag x { x.stream ag with rpt := (x.stream ag).rpt + 1, wait := none }) = .ok ((), t)) :
    wordRep l checks pm rep body s = .next t :=
  runBody_ok h (by
    have hn : ¬((x.stream ag).rpt = 0 ∧ (x.stream ag).pred pm.toNat = false) := by cases hg <;> simp_all
    simp [requireLegal_run h hl, hc, curStream_run h, if_neg hn, modStream_run h, hr]; exact hb)

/-- The last repetition: its body runs with the stream past the word. -/
theorem wordRep_last (h : s.At ag x) {l : Legal} (hl : l.ok ag x.world = true) {checks : M Unit}
    (hc : checks s = .ok ((), s)) {pm : BitVec 3} {rep : Nat} {body : Nat → M Unit} {t : State}
    (hg : (x.stream ag).rpt ≠ 0 ∨ (x.stream ag).pred pm.toNat = true) (hr : rep ≤ (x.stream ag).rpt)
    (hb : body (x.stream ag).rpt (s.advanced ag x) = .ok ((), t)) : wordRep l checks pm rep body s = .next t :=
  runBody_ok h (by
    have hn : ¬((x.stream ag).rpt = 0 ∧ (x.stream ag).pred pm.toNat = false) := by cases hg <;> simp_all
    simp [requireLegal_run h hl, hc, curStream_run h, if_neg hn, modStream_run h, Nat.not_lt.mpr hr]; exact hb)

/-! ## Taking a fault -/

/-- A fault changes the context of its place alone. -/
theorem State.raise_eq (s : State) {p : Place} {x : Ctx} (h : s.ctx p = some x) (agent : Nat) (f : FaultInfo) (issue : W64) :
    s.raise p agent f issue = s.setCtx p (some (x.recordFault
      { b := reportB f.cause (some p) agent f.defer, c := f.c, d := f.d, e := 0, f := if f.defer then issue else 0 } f.defer)) := by
  simp [State.raise, h]

/-- Where there is no context there is no fault. -/
theorem State.raise_none (s : State) {p : Place} (h : s.ctx p = none) (agent : Nat) (f : FaultInfo) (issue : W64) :
    s.raise p agent f issue = s := by
  simp [State.raise, h]

/-- The first fault stops the task (R383). -/
theorem Ctx.recordFault_first {x : Ctx} (h : x.primary = none) (r : FaultRec) (d : Bool) :
    x.recordFault r d = { x with primary := some r, phase := .stopping } := by
  simp [Ctx.recordFault, h]

/-- A fault leaves the registers as they stand. -/
@[simp] theorem Ctx.recordFault_reg (x : Ctx) (r : FaultRec) (d : Bool) (ag : Agent) (n : Nat) :
    ((x.recordFault r d).stream ag).reg n = (x.stream ag).reg n := by
  cases hp : x.primary with
  | none => cases ag <;> simp [Ctx.recordFault, hp, Ctx.stream, Stream.reg]
  | some q => cases hq : d && x.pending.isNone <;> cases ag <;> simp [Ctx.recordFault, hp, hq, Ctx.stream, Stream.reg]

/-- And the PCs. -/
@[simp] theorem Ctx.recordFault_pc (x : Ctx) (r : FaultRec) (d : Bool) (ag : Agent) :
    ((x.recordFault r d).stream ag).pc = (x.stream ag).pc := by
  cases hp : x.primary with
  | none => cases ag <;> simp [Ctx.recordFault, hp, Ctx.stream]
  | some q => cases hq : d && x.pending.isNone <;> cases ag <;> simp [Ctx.recordFault, hp, hq, Ctx.stream]

end Sys2Proof.Machine
end

