-- ==== Sys2Proof/Tests/Slice0.lean ====
section
/-! SUPPORT. Tests: words of every major written out from the formats of R192 and the FN tables, ill-formed terms that the
field checks refuse, single steps with results that the spec gives, and for each statement a state that meets its hypotheses. -/

namespace Sys2Proof.Tests

set_option Elab.async false

open Sys2Proof Sys2Proof.Machine

/-! ## Words, field by field (R192) -/

def fS : FmtS := { d := 0, a := 0, b := 0, c := 0, pg := 0, sz := 0, mod := 0 }
def fI : FmtI := { d := 0, a := 0, pg := 0, imm := 0 }
def fA : FmtA := { q := 0, b := 0, step := 0, rep := 0 }
def fV : FmtV := { vd := 0, va := 0, vb := 0, t := 0, stp := 0, pm := 0, rep := 0 }
def fM : FmtM := { ra := 0, rb := 0, acc := 0, fmta := 0, fmtb := 0, ws := 0, ss := 0, ks := 0 }
def fP : FmtP := { d := 0, a := 0, b := 0, imm := 0 }
def fQ : FmtQ := { d := 0, a := 0, tt := 0, off := 0 }
def fC : FmtC := { desc := 0, tag := 0, uw := 0, sc := 0, buf := 0 }

/-- The decoder's answer is the instruction. -/
noncomputable def isRow (w : Insn) (i : Instr) : Bool := match decode w with | .ok j => decide (j = i) | .error _ => false
/-- It refuses the word by that name. -/
noncomputable def isRefused (w : Insn) (e : DecodeError) : Bool := match decode w with | .ok _ => false | .error f => decide (f = e)

theorem decode_of_isRow {w : Insn} {i : Instr} (h : isRow w i = true) : decode w = .ok i := by
  unfold isRow at h
  split at h
  · next he => rw [he, of_decide_eq_true h]
  · cases h

theorem decode_of_isRefused {w : Insn} {e : DecodeError} (h : isRefused w e = true) : decode w = .error e := by
  unfold isRefused at h
  split at h
  · cases h
  · next he => rw [he, of_decide_eq_true h]

/-- Scalar words: integer, immediate, LDI, FP and predicate rows (R233, R235 to R237, R242). -/
theorem test_decode_arithmetic :
    decode ((0x01#6 ++ 0x01#8 ++ 3#6 ++ 4#6 ++ 5#6 ++ 0#6 ++ 2#3 ++ 3#2 ++ 1#5 : Insn)) =
      .ok (.sub { d := 3, a := 4, b := 5, c := 0, pg := 2, sz := 3, mod := 1 }) ∧
    decode ((0x01#6 ++ 0x28#8 ++ 3#6 ++ 4#6 ++ 5#6 ++ 7#6 ++ 0#3 ++ 0#2 ++ 0#5 : Insn)) =
      .ok (.sel { d := 3, a := 4, b := 5, c := 7, pg := 0, sz := 0, mod := 0 }) ∧
    decode ((0x02#6 ++ 0x5#4 ++ 9#6 ++ 8#6 ++ 1#3 ++ 0x7FFFFF#23 : Insn)) =
      .ok (.shlImm { d := 9, a := 8, pg := 1, imm := 0x7FFFFF }) ∧
    decode ((0x03#6 ++ 1#2 ++ 10#6 ++ 0x12#34 : Insn)) = .ok (.ldhi { d := 10, imm := 0x12 }) ∧
    decode ((0x04#6 ++ 0x03#8 ++ 1#6 ++ 2#6 ++ 3#6 ++ 4#6 ++ 0#3 ++ 2#2 ++ 4#5 : Insn)) =
      .ok (.ffma { d := 1, a := 2, b := 3, c := 4, pg := 0, sz := 2, mod := 4 }) ∧
    decode ((0x04#6 ++ 0x08#8 ++ 1#6 ++ 2#6 ++ 0#6 ++ 0x11#6 ++ 0#3 ++ 0#2 ++ 7#5 : Insn)) =
      .ok (.fcvt { d := 1, a := 2, b := 0, c := 0x11, pg := 0, sz := 0, mod := 7 }) ∧
    decode ((0x05#6 ++ 0x00#8 ++ 6#6 ++ 2#6 ++ 3#6 ++ 5#6 ++ 0#3 ++ 1#2 ++ 0#5 : Insn)) =
      .ok (.pset { d := 6, a := 2, b := 3, c := 5, pg := 0, sz := 1, mod := 0 }) := by
  and_intros <;> exact decode_of_isRow (by decide +kernel)

/-- Control flow, memory, control registers, queues and system rows (R243, R244, R246, R249, R252, R253). -/
theorem test_decode_control :
    decode ((0x06#6 ++ 2#4 ++ 7#6 ++ 8#6 ++ 0x3FFFFFE#26 : Insn)) = .ok (.br { cnd := 2, a := 7, b := 8, off := 0x3FFFFFE }) ∧
    decode ((0x07#6 ++ 2#4 ++ 31#6 ++ 0#6 ++ 0#3 ++ 5#23 : Insn)) = .ok (.call { d := 31, a := 0, pg := 0, imm := 5 }) ∧
    decode ((0x08#6 ++ 0x0D#8 ++ 6#6 ++ 7#6 ++ 8#6 ++ 0#6 ++ 0#3 ++ 1#2 ++ 0x0D#5 : Insn)) =
      .ok (.stx true { d := 6, a := 7, b := 8, c := 0, pg := 0, sz := 1, mod := 0x0D }) ∧
    decode ((0x08#6 ++ 0x03#8 ++ 6#6 ++ 7#6 ++ 1#6 ++ 2#6 ++ 0#3 ++ 0#2 ++ 0x0D#5 : Insn)) =
      .ok (.ld true true { d := 6, a := 7, b := 1, c := 2, pg := 0, sz := 0, mod := 0x0D }) ∧
    decode ((0x09#6 ++ 1#4 ++ 0#6 ++ 5#6 ++ 0#3 ++ 0x37#23 : Insn)) = .ok (.mtc { d := 0, a := 5, pg := 0, imm := 0x37 }) ∧
    decode ((0x0A#6 ++ 0x01#8 ++ 5#6 ++ 0#6 ++ 12#6 ++ 0#6 ++ 0#3 ++ 3#2 ++ 0#5 : Insn)) =
      .ok (.qpop { d := 5, a := 0, b := 12, c := 0, pg := 0, sz := 3, mod := 0 }) ∧
    decode ((0x0B#6 ++ 3#4 ++ 0#6 ++ 0#6 ++ 0#3 ++ 0x4001#23 : Insn)) =
      .ok (.suspend { d := 0, a := 0, pg := 0, imm := 0x4001 }) := by
  and_intros <;> exact decode_of_isRow (by decide +kernel)

/-- Words of the access stream (R259 to R264, R267, R271, R285). -/
theorem test_decode_access :
    decode ((0x10#6 ++ 0x2A#6 ++ 3#4 ++ 4#6 ++ 5#14 ++ 6#12 : Insn)) =
      .ok (.vldx 1 2 { q := 3, b := 4, step := 5, rep := 6 }) ∧
    decode ((0x11#6 ++ 0x18#6 ++ 9#4 ++ 4#6 ++ 5#14 ++ 6#12 : Insn)) =
      .ok (.vst 3 0 { q := 9, b := 4, step := 5, rep := 6 }) ∧
    decode ((0x12#6 ++ 0x2C#6 ++ 9#4 ++ 4#6 ++ 3#14 ++ 6#12 : Insn)) =
      .ok (.scat 1 2 { q := 9, b := 4, step := 3, rep := 6 }) ∧
    decode ((0x13#6 ++ 0x0D#6 ++ 9#4 ++ 4#6 ++ 3#14 ++ 6#12 : Insn)) = .ok (.sts 0 3 { q := 9, b := 4, step := 3, rep := 6 }) ∧
    decode ((0x13#6 ++ 0x02#6 ++ 9#4 ++ 4#6 ++ 0#14 ++ 6#12 : Insn)) = .ok (.movs { q := 9, b := 4, step := 0, rep := 6 }) ∧
    decode ((0x14#6 ++ 3#2 ++ 7#6 ++ 8#6 ++ 2#3 ++ 0#25 : Insn)) = .ok (.probeCfg { d := 7, a := 8, tt := 2, off := 0 }) ∧
    decode ((0x15#6 ++ 0x16#6 ++ 0#4 ++ 4#6 ++ 1#14 ++ 6#12 : Insn)) =
      .ok (.pref 1 6 { q := 0, b := 4, step := 1, rep := 6 }) ∧
    decode ((0x19#6 ++ 2#6 ++ 1#6 ++ 2#6 ++ 3#6 ++ 1#18 : Insn)) = .ok (.cfind { d := 1, a := 2, b := 3, imm := 1 }) := by
  and_intros <;> exact decode_of_isRow (by decide +kernel)

/-- Vector words of each major (R292 to R308). -/
theorem test_decode_vector :
    let v (op : BitVec 6) (fn : BitVec 7) (t vb : BitVec 4) : Insn :=
      op ++ fn ++ 1#4 ++ 2#4 ++ vb ++ t ++ 0xF#4 ++ 3#3 ++ 9#12
    let f (t vb : BitVec 4) : FmtV := { vd := 1, va := 2, vb, t, stp := 0xF, pm := 3, rep := 9 }
    decode (v 0x20 0x08 7 3) = .ok (.vadds (f 7 3)) ∧ decode (v 0x20 0x1A 5 3) = .ok (.vmaxd 2 (f 5 3)) ∧
    decode (v 0x21 0x0A 0 3) = .ok (.vsar (f 0 3)) ∧ decode (v 0x22 0x1B 10 3) = .ok (.vffma 3 (f 10 3)) ∧
    decode (v 0x23 0x1C 8 0) = .ok (.vrsqrt 4 (f 8 0)) ∧ decode (v 0x24 0x18 6 0) = .ok (.vcsum 0 (f 6 0)) ∧
    decode (v 0x25 0x0F 4 0) = .ok (.vcvt true 7 (f 4 0)) ∧ decode (v 0x25 0x21 8 3) = .ok (.vdqmx false 1 (f 8 3)) ∧
    decode (v 0x26 0x04 8 3) = .ok (.vcmp 4 (f 8 3)) ∧ decode (v 0x26 0x08 13 3) = .ok (.vsel (f 13 3)) ∧
    decode (v 0x27 0x18 12 3) = .ok (.vslide (f 12 3)) ∧ decode (v 0x28 0x31 9 4) = .ok (.vaccwAdd 1 (f 9 4)) := by
  and_intros <;> exact decode_of_isRow (by decide +kernel)

/-- Matrix, semaphore, fence, atomic, exact-cell and barrier words (R316, R327, R337, R340, R343, R346). -/
theorem test_decode_matrix_and_sync :
    decode ((0x30#6 ++ 3#4 ++ 1#3 ++ 0#3 ++ 2#6 ++ 0#4 ++ 1#4 ++ 3#5 ++ 4#5 ++ 0x81#8 : Insn)) =
      .ok (.mmuls { ra := 1, rb := 0, acc := 2, fmta := 0, fmtb := 1, ws := 3, ss := 4, ks := 0x81 }) ∧
    decode ((0x31#6 ++ 1#6 ++ 0#6 ++ 0#6 ++ 0#6 ++ 31#18 : Insn)) = .ok (.semwait { d := 0, a := 0, b := 0, imm := 31 }) ∧
    decode ((0x34#6 ++ 0x02#8 ++ 0#6 ++ 0#6 ++ 0#6 ++ 0#6 ++ 0#3 ++ 0#2 ++ 0x15#5 : Insn)) = .ok (.xfence { fS with mod := 0x15 }) ∧
    decode ((0x35#6 ++ 1#6 ++ 3#6 ++ 4#6 ++ 0#6 ++ 1#18 : Insn)) = .ok (.bar { d := 3, a := 4, b := 0, imm := 1 }) ∧
    decode ((0x36#6 ++ 0x39#8 ++ 1#6 ++ 2#6 ++ 3#6 ++ 4#6 ++ 0#3 ++ 3#2 ++ 1#5 : Insn)) =
      .ok (.acas 3 { d := 1, a := 2, b := 3, c := 4, pg := 0, sz := 3, mod := 1 }) ∧
    decode ((0x37#6 ++ 0x13#8 ++ 1#6 ++ 2#6 ++ 0#6 ++ 4#6 ++ 0#3 ++ 2#2 ++ 1#5 : Insn)) =
      .ok (.afxrdClr 1 { d := 1, a := 2, b := 0, c := 4, pg := 0, sz := 2, mod := 1 }) := by
  and_intros <;> exact decode_of_isRow (by decide +kernel)

/-- Counters, tags, SPAWN, NP and supervisor words (R350, R351, R354, R355, R359 to R362). -/
theorem test_decode_die :
    let p (op fn d a b : BitVec 6) (imm : BitVec 18) : Insn := op ++ fn ++ d ++ a ++ b ++ imm
    decode (p 0x38 1 3 4 0 1) = .ok (.ctrrd { d := 3, a := 4, b := 0, imm := 1 }) ∧
    decode (p 0x39 3 0 4 0 0) = .ok (.tagfree { d := 0, a := 4, b := 0, imm := 0 }) ∧
    decode (p 0x3A 0 3 4 0 0x16) = .ok (.spawnW { d := 3, a := 4, b := 0, imm := 0x16 }) ∧
    decode (p 0x3C 4 0 4 5 0) = .ok (.tmarm { d := 0, a := 4, b := 5, imm := 0 }) ∧
    decode (p 0x3D 1 3 4 0 0) = .ok (.pksend { d := 3, a := 4, b := 0, imm := 0 }) ∧
    decode (p 0x3E 0 3 4 5 6) = .ok (.errlog { d := 3, a := 4, b := 5, imm := 6 }) ∧
    decode (p 0x3E 1 3 4 0 0x12) = .ok (.ownrd { d := 3, a := 4, b := 0, imm := 0x12 }) ∧
    decode (p 0x3E 1 3 4 0 0x14) = .ok (.discard { d := 3, a := 4, b := 0, imm := 0x14 }) ∧
    decode (p 0x3E 2 3 4 0 5) = .ok (.seal { d := 3, a := 4, b := 0, imm := 5 }) ∧
    decode (p 0x3E 3 3 4 5 0) = .ok (.dlogswap { d := 3, a := 4, b := 5, imm := 0 }) := by
  and_intros <;> exact decode_of_isRow (by decide +kernel)

/-- No row: OP 0x00 and 0x0C, unlisted FN values, and words with a reserved field set (R197, R198). -/
theorem test_decode_refuses :
    decode 0 = .error .reservedOp ∧ decode ((0x0C#6 ++ 0#42 : Insn)) = .error .reservedOp ∧
    decode ((0x07#6 ++ 5#4 ++ 0#38 : Insn)) = .error .unassignedFn ∧
    decode ((0x01#6 ++ 0x0A#8 ++ 0#34 : Insn)) = .error .unassignedFn ∧
    decode ((0x01#6 ++ 0x00#8 ++ 0#6 ++ 0#6 ++ 0#6 ++ 1#6 ++ 0#10 : Insn)) = .error .reservedField := by
  and_intros <;> exact decode_of_isRefused (by decide +kernel)

/-! ## The field checks refuse (R198 step 5) -/

theorem test_wf_arithmetic :
    (Instr.add { fS with c := 1 }).wf = false ∧ (Instr.add { fS with mod := 2 }).wf = false ∧
    (Instr.clz { fS with b := 1 }).wf = false ∧ (Instr.mad { fS with mod := 16 }).wf = false ∧
    (Instr.sel { fS with c := 8 }).wf = false ∧ (Instr.ldhi { d := 1, imm := 0x100000000 }).wf = false ∧
    (Instr.fadd { fS with sz := 1 }).wf = false ∧ (Instr.fadd { fS with sz := 2, mod := 5 }).wf = false ∧
    (Instr.ffma { fS with sz := 2, mod := 8 }).wf = false ∧ (Instr.fsqrt { fS with sz := 2, b := 1 }).wf = false ∧
    (Instr.fmin { fS with sz := 2, mod := 1 }).wf = false ∧ (Instr.fcvt { fS with c := 0x09 }).wf = false ∧
    (Instr.fcvt { fS with c := 0x25 }).wf = false ∧ (Instr.fcvt { fS with c := 0x01, mod := 8 }).wf = false ∧
    (Instr.fcmp { fS with sz := 2, c := 5 }).wf = false ∧ (Instr.fclass { fS with sz := 2, b := 1 }).wf = false := by decide

theorem test_wf_control :
    (Instr.pset { fS with c := 8 }).wf = false ∧ (Instr.pset { fS with d := 8 }).wf = false ∧
    (Instr.pand { fS with a := 8 }).wf = false ∧ (Instr.pnot { fS with b := 1 }).wf = false ∧
    (Instr.br { cnd := 10, a := 0, b := 0, off := 0 }).wf = false ∧ (Instr.br { cnd := 8, a := 0, b := 1, off := 0 }).wf = false ∧
    (Instr.jmp { fI with a := 1 }).wf = false ∧ (Instr.jmpr { fI with d := 1 }).wf = false ∧
    (Instr.call { fI with a := 1 }).wf = false ∧ (Instr.ret { fI with imm := 1 }).wf = false ∧ (Instr.loop fI).wf = false ∧
    (Instr.ld true true { fS with mod := 0x18 }).wf = false ∧ (Instr.stx true { fS with c := 1 }).wf = false ∧
    (Instr.mfc { fI with imm := 5 }).wf = false ∧ (Instr.mtc { fI with d := 1 }).wf = false ∧
    (Instr.qpush { fS with b := 12, sz := 2 }).wf = false ∧ (Instr.qpop { fS with a := 1 }).wf = false ∧
    (Instr.qlevel { fS with sz := 1 }).wf = false ∧ (Instr.nop { fI with imm := 1 }).wf = false ∧
    (Instr.yield { fI with imm := 1024 }).wf = false ∧ (Instr.suspend { fI with imm := 10923 }).wf = false ∧
    (Instr.trap { fI with imm := 65536 }).wf = false := by decide

theorem test_wf_access :
    (Instr.gath 0 3 fA).wf = false ∧ (Instr.gath 0 0 { fA with step := 4 }).wf = false ∧
    (Instr.scat 0 0 { fA with q := 9, step := 1 }).wf = false ∧ (Instr.movs { fA with b := 8 }).wf = false ∧
    (Instr.pref 0 0 fA).wf = false ∧ (Instr.pref 1 7 fA).wf = false ∧ (Instr.pref 1 0 { fA with q := 1 }).wf = false ∧
    (Instr.probeInv { fQ with off := 1 }).wf = false ∧ (Instr.copy { fC with uw := 4 }).wf = false ∧
    (Instr.copy { fC with uw := 0x2080 }).wf = false ∧ (Instr.copy { fC with uw := 0x0C00 }).wf = false ∧
    (Instr.copy { fC with uw := 0x0880 }).wf = false ∧ (Instr.copy { fC with uw := 0x0802 }).wf = false ∧
    (Instr.copy { fC with uw := 0x4002 }).wf = false ∧ (Instr.copy { fC with sc := 6 }).wf = false ∧
    (Instr.cwaita { fP with imm := 2 }).wf = false ∧ (Instr.cwaitl { fP with b := 1 }).wf = false := by decide

theorem test_wf_vector :
    (Instr.vadd { fV with t := 8 }).wf = false ∧ (Instr.vabs { fV with t := 1 }).wf = false ∧
    (Instr.vneg { fV with vb := 1 }).wf = false ∧ (Instr.vmaxd 0 { fV with t := 6 }).wf = false ∧
    (Instr.vfadd 5 { fV with t := 8 }).wf = false ∧ (Instr.vfmin { fV with t := 7 }).wf = false ∧
    (Instr.vrsum 1 fV).wf = false ∧ (Instr.vrsum 6 { fV with t := 8 }).wf = false ∧ (Instr.vrmax { fV with t := 11 }).wf = false ∧
    (Instr.vcvt false 0 { fV with t := 14 }).wf = false ∧ (Instr.vqmx { fV with t := 8 }).wf = false ∧
    (Instr.vcmp 5 fV).wf = false ∧ (Instr.vcmp 4 fV).wf = false ∧ (Instr.vsel { fV with t := 15 }).wf = false ∧
    (Instr.vtrans { fV with t := 13 }).wf = false ∧ (Instr.vacc false 0 { fV with t := 1 }).wf = false ∧
    (Instr.vaccZ false 0 { fV with vb := 1 }).wf = false ∧ (Instr.vaccw { fV with t := 0 }).wf = false ∧
    (Instr.vaccwAdd 5 { fV with t := 8 }).wf = false := by decide

theorem test_wf_matrix_and_sync :
    (Instr.mloadw { fM with ra := 1 }).wf = false ∧ (Instr.mloadw { fM with ks := 2, fmtb := 2 }).wf = false ∧
    (Instr.mswap { fM with ks := 1 }).wf = false ∧ (Instr.mmul { fM with fmta := 0xA }).wf = false ∧
    (Instr.mmul { fM with acc := 60, ks := 4 }).wf = false ∧ (Instr.mmul { fM with ks := 0x40 }).wf = false ∧
    (Instr.mmuls { fM with fmtb := 2 }).wf = false ∧ (Instr.mzero { fM with ks := 0x40 }).wf = false ∧
    (Instr.semsig { fP with imm := 32 }).wf = false ∧ (Instr.mfence { fP with a := 1 }).wf = false ∧
    (Instr.fence { fS with mod := 0x18 }).wf = false ∧ (Instr.mark { fS with mod := 1 }).wf = false ∧
    (Instr.aadd 0 { fS with sz := 1 }).wf = false ∧ (Instr.aand 0 { fS with sz := 2, mod := 3 }).wf = false ∧
    (Instr.aswap 0 { fS with sz := 2, c := 1 }).wf = false ∧ (Instr.afxinit 0 { fS with mod := 0 }).wf = false ∧
    (Instr.afxadd 0 { fS with mod := 1, sz := 3 }).wf = false ∧ (Instr.afxrd 0 { fS with mod := 1, sz := 1 }).wf = false ∧
    (Instr.barinit { fP with imm := 5 }).wf = false ∧ (Instr.bar { fP with b := 1 }).wf = false := by decide

theorem test_wf_die :
    (Instr.ctradd fP).wf = false ∧ (Instr.ctrrd { fP with imm := 2 }).wf = false ∧ (Instr.publ { fP with imm := 1 }).wf = false ∧
    (Instr.tagqry { fP with b := 1 }).wf = false ∧ (Instr.spawn { fP with imm := 2 }).wf = false ∧
    (Instr.spawnW { fP with imm := 4 }).wf = false ∧ (Instr.evwait { fP with d := 1 }).wf = false ∧
    (Instr.evwait { fP with imm := 1 }).wf = false ∧ (Instr.evwait { fP with imm := 1, d := 57 }).wf = false ∧
    (Instr.olock { fP with d := 1 }).wf = false ∧ (Instr.tmarm { fP with imm := 1 }).wf = false ∧
    (Instr.tmrd { fP with b := 1 }).wf = false ∧ (Instr.notify { fP with d := 1 }).wf = false ∧
    (Instr.pksend { fP with b := 1 }).wf = false ∧ (Instr.trgarmEntry { fP with imm := 2 }).wf = false ∧
    (Instr.trgdisDesc { fP with imm := 1, b := 1 }).wf = false ∧ (Instr.trgrdEntry { fP with imm := 16 }).wf = false ∧
    (Instr.trgrdDesc { fP with imm := 9 }).wf = false ∧ (Instr.start { fP with imm := 7 }).wf = false ∧
    (Instr.pcreate { fP with b := 1 }).wf = false ∧ (Instr.discard { fP with imm := 0x13 }).wf = false ∧
    (Instr.resume fP).wf = false ∧ (Instr.health { fP with imm := 8 }).wf = false ∧ (Instr.dlogswap { fP with imm := 1 }).wf = false := by
  decide

/-! ## Single steps (results from the spec's tables and examples) -/

/-- A word executes on an agent, in a context. -/
def atWord (ag : Agent) (x : Ctx) (s : State := { State.reset with boot := .running }) : State :=
  ({ s with cur := some ag } : State).put ag x

theorem atWord_at (ag : Agent) (x : Ctx) (s : State) : (atWord ag x s).At ag x := by
  refine ⟨?_, State.ctx_setCtx _ _ _⟩
  unfold atWord State.put State.setCtx
  cases ag <;> rfl

/-- A compute task of world 0 on core 2, and a control task on NP thread 3. -/
def core2 : Ctx := placedTask (.core 2) 1
def np3 : Ctx := placedTask (.thread 3) 1

/-- Registers 1, 2 and on of a stream set. -/
def withRegs (ag : Agent) (x : Ctx) (l : List W64) : Ctx :=
  x.setStream ag (l.zipIdx.foldl (fun st p => st.setReg (p.2 + 1) p.1) (x.stream ag))

/-- The stream after a word. -/
noncomputable def after (ag : Agent) (x : Ctx) (i : Instr) (s : State := { State.reset with boot := .running }) : Option Stream :=
  match exec i (atWord ag x s) with
  | .next t => (t.ctx ag.place).map (Ctx.stream · ag)
  | _ => none

/-- Register 9 after an S-format word over registers 1 to 3. -/
noncomputable def alu (i : FmtS → Instr) (sz : BitVec 2) (sgn : Bool) (l : List W64) : Option W64 :=
  (after (.e 2) (withRegs (.e 2) core2 l)
    (i { d := 9, a := 1, b := 2, c := 0, pg := 0, sz, mod := if sgn then 1 else 0 })).map fun st => st.reg 9

/-- R236's table of edge operands. -/
theorem test_integer_edges :
    alu .div 2 true [0x80000000, 0xFFFFFFFF] = some 0xFFFFFFFF80000000 ∧ alu .rem 2 true [0x80000000, 0xFFFFFFFF] = some 0 ∧
    alu .divn 3 false [7, 0] = some 0 ∧ alu .remn 3 false [7, 0] = some 7 ∧ alu .shl 3 true [1, 64] = some 0 ∧
    alu .sar 2 true [0x80000000, 40] = some 0xFFFFFFFFFFFFFFFF ∧ alu .rol 1 false [0x8001, 17] = some 3 ∧
    alu .mulhn 3 false [0xFFFFFFFFFFFFFFFF, 2] = some 1 ∧ alu .bext 3 false [0xF0F0, 0xFF00] = some 0xF0 ∧
    alu .bdep 3 false [5, 0xF0] = some 0x50 ∧ alu .clz 2 false [0] = some 0x20 := by decide +kernel

/-- A zero divisor sets IDZ, and the least number over −1 does not (R234, R218). -/
theorem test_idz :
    (after (.e 2) (withRegs (.e 2) core2 [7]) (.divn { fS with d := 9, a := 1, b := 2, sz := 3 })).map Stream.fpstat = some 0x40 ∧
    (after (.e 2) (withRegs (.e 2) core2 [0x80000000, 0xFFFFFFFF]) (.div { fS with d := 9, a := 1, b := 2, sz := 2 })).map
      Stream.fpstat = some 0 := by decide +kernel

/-- LDI and LDHI make a 64-bit constant, and LDHI keeps the low half (R236). -/
theorem test_ldi_ldhi :
    (after (.np 3) np3 (.ldi { d := 9, imm := 0x3FFFFFFFF })).map (fun st => st.reg 9) = some 0xFFFFFFFFFFFFFFFF ∧
    (after (.np 3) (withRegs (.np 3) np3 [0xABCD00001234]) (.ldhi { d := 1, imm := 0x12 })).map (fun st => st.reg 1) =
      some 0x1200001234 := by decide +kernel

/-- FP32: 1 + 2 = 3 and 1 / 0 is +infinity with DZ (R238, R218). -/
theorem test_fp :
    (after (.e 2) (withRegs (.e 2) core2 [0x3F800000, 0x40000000]) (.fadd { fS with d := 9, a := 1, b := 2, sz := 2 })).map
      (fun st => (st.reg 9, st.fpstat)) = some (0x40400000, 0) ∧
    (after (.e 2) (withRegs (.e 2) core2 [0x3F800000, 0]) (.fdiv { fS with d := 9, a := 1, b := 2, sz := 2 })).map
      (fun st => (st.reg 9, st.fpstat)) = some (0x7F800000, 2) := by decide +kernel

/-- LOOP wraps a counter of 0 and branches; a counter of 1 falls through (R244). -/
theorem test_loop :
    (after (.a 2) (core2.setStream (.a 2) { Stream.launch with pc := 10 }) (.loop { fI with d := 5, imm := 0x7FFFFD })).map
      (fun st => (st.pc, st.reg 5)) = some (7, 0xFFFFFFFFFFFFFFFF) ∧
    (after (.a 2) (withRegs (.a 2) core2 [1]) (.loop { fI with d := 1, imm := 4 })).map (fun st => (st.pc, st.reg 1)) =
      some (1, 0) := by decide +kernel

/-- A queue entry has the operand's width, and QPOP extends it (R252). -/
theorem test_queue :
    let x := core2.setQueue 12 { head := 0, rows := [{ bytes := [0xFE, 0xFF, 0xFF, 0xFF, 0, 0, 0, 0], arrived := true }] }
    (after (.e 2) x (.qlevel { fS with d := 9, b := 12 })).map (fun st => st.reg 9) = some 0x10001 ∧
    (after (.e 2) x (.qpop { fS with d := 9, b := 12, sz := 3, mod := 1 })).map (fun st => st.reg 9) = some 0xFFFFFFFE := by
  decide +kernel

/-- MTC keeps the RW fields of FPCTL, and RM 5 is illegal (R217, R6). -/
theorem test_mtc :
    (after (.e 2) (withRegs (.e 2) core2 [0xFFFFFFFFFFFFFFE4]) (.mtc { fI with a := 1, imm := 0 })).map Stream.fpctl = some 4 ∧
    (after (.e 2) (withRegs (.e 2) core2 [5]) (.mtc { fI with a := 1, imm := 0 })).map (fun st => (st.fpctl, st.pc)) =
      some (0, 0) := by decide +kernel

/-- PROBE.cfg refuses a descriptor without sets, and CFIND gives 64 where no tag is complete (R266, R286). -/
theorem test_tags :
    (after (.a 2) core2 (.cfind { fP with d := 9, b := 8, a := 1 })).map (fun st => (st.reg 9, st.reg 8)) = some (64, 0) ∧
    (after (.a 2) { core2 with ctb := 0x48, ctStatus := [(3, 0x500000)] }
      (.cfind { fP with d := 9, b := 8, a := 0 })).map (fun st => st.reg 9) = some 64 ∧
    (after (.a 2) (withRegs (.a 2) { core2 with ctb := 0x48, ctStatus := [(3, 0x500000)] } [0x78])
      (.cwaita { fP with d := 9, b := 8, a := 1 })).map (fun st => (st.reg 9, st.reg 8)) = some (3, 0x500000) := by
  decide +kernel

/-- SEMSIG adds 1, and SEMWAIT at 0 waits at its word (R328). -/
theorem test_semaphore :
    (after (.a 2) core2 (.semwait { fP with imm := 7 })).map (fun st => (st.pc, st.wait)) = some (0, some (.sem 7)) ∧
    (after (.a 2) { core2 with msem := [(7, 1)] } (.semwait { fP with imm := 7 })).map (fun st => (st.pc, st.wait)) =
      some (1, none) := by decide +kernel

/-- CTRADD adds its immediate, CTRRD reads; world 0 may touch every counter (R350). -/
theorem test_counter :
    let s : State := { State.reset with boot := .running, counters := [(37, { value := 0xFFFFFFFFFFFFFFFF, alloc := true, owner := 5, nwatch := 0 })] }
    (after (.np 3) (withRegs (.np 3) np3 [37]) (.ctrrd { fP with d := 9, a := 1 }) s).map (fun st => st.reg 9) =
      some 0xFFFFFFFFFFFFFFFF ∧
    (match exec (.ctradd { fP with a := 1, imm := 3 }) (atWord (.np 3) (withRegs (.np 3) np3 [37]) s) with
      | .next t => (t.counter 37).value
      | _ => 0) = 2 := by decide +kernel

/-- The handles of R80 and R81: tag 0x1234 of generation 6, and a fallback handle, of module 37 and world 5. -/
theorem test_handle_fields :
    handleIndex 0x094246800000C280 = 0x1234 ∧ handleGen 0x094246800000C280 = 6 ∧ handleWorld 0x094246800000C280 = 5 ∧
    handleModule 0x094246800000C280 = 37 ∧ handleFallback 0x094246800000C280 = false ∧
    handleFallback 0x0960010000D02280 = true := by decide +kernel

/-- A word runs from reset with nothing but its load (log 5): LDI on the supervisor, and a vector word with a T that its row does not take, which stops its task. -/
theorem test_step_runs_word :
    (match step (State.reset.withFetchWord 48 0x0C2834500000) with
      | .next t => (t.ctx (.thread 0)).map fun x => (x.e.reg 10, x.e.pc)
      | _ => none) = some (0x34500000, 1) ∧
    (match step (State.reset.withFetchWord 48 0x880000000003) with
      | .next t => (t.ctx (.core 0)).map fun x => x.phase
      | _ => none) = some .stopping := by decide +kernel

/-! ## States that meet the hypotheses of the statements -/

abbrev ev : Agent := .e 2
abbrev av : Agent := .a 2
abbrev nv : Agent := .np 3
/-- The two streams of a compute task and a control task of world 5, with small numbers in registers 1 to 3. -/
def xe : Ctx := withRegs ev { core2 with world := 5 } [5, 2, 3]
def xa : Ctx := withRegs av { core2 with world := 5 } [5, 2, 3]
def xn : Ctx := withRegs nv { np3 with world := 5 } [5, 2, 3]

theorem plain_of {s : State} {u : TlbUnit} {w stor : Nat} {ea : W64} {n : Nat} {e : TlbEntry}
    (h : (ea.toNat < 2 ^ 56 ∧ ea.toNat >>> 48 ≠ 0xFF ∧ (s.world w).ttw.getLsbD 0 = true ∧
      s.tlb.find? (fun e : TlbEntry => e.hit u w ea.toNat) = some e ∧ ea.toNat % 2 ^ e.log2 + n ≤ 2 ^ e.log2 ∧ leafRD e.leaf = true ∧ leafWR e.leaf = true ∧ leafD e.leaf = true) ∧
      (leafLOSSY e.leaf = 0 ∧ leafSEAL e.leaf = false ∧ leafDUP e.leaf = false ∧ leafMOT e.leaf ≠ 3) ∧
      (∀ i, i < n → stor = 1 ∧ (windowOf (e.paOf ea.toNat + i) = some .t0 ∨ windowOf (e.paOf ea.toNat + i) = some .t1) ∨
        stor = 3 ∧ windowOf (e.paOf ea.toNat + i) = some .host) ∧
      s.ecc = [] ∧ s.motions = [] ∧ s.hotArray = none ∧ (s.world w).track = [] ∧ s.barriers = [] ∧ s.dup = []) :
    Spec.PlainPage s u w stor ea n e :=
  let ⟨⟨low, world, enabled, hit, within, read, write, dirty⟩, plain, tier, sound, still, quiet⟩ := h
  { low, world, enabled, hit, within, read, write, dirty, plain, tier, sound, still, quiet }

def isNext (o : Host.Outcome State Fault Refusal) : Bool := match o with | .next _ => true | _ => false

theorem next_of {o : Host.Outcome State Fault Refusal} (h : isNext o = true) : ∃ t, o = .next t := by
  cases o with
  | next t => exact ⟨t, rfl⟩
  | _ => cases h

/-- A 64 KiB page of a unit: VA 5 × 64 KiB in T0 at PA 7 × 64 KiB, with every permission, A and D. -/
def page (u : TlbUnit) (world : Nat) : TlbEntry :=
  { unit := u, world, base := 5, log2 := 16, leaf := 0xFF + w64 (7 * 65536), ptePa := 64, level := 0 }
/-- The same page in the host window. -/
def hostPage (u : TlbUnit) (world : Nat) : TlbEntry :=
  { page u world with leaf := 0xFF + w64 (2 ^ 46 + 7 * 65536) }
/-- A state whose units hold pages, with translation enabled in worlds 0 and 5. -/
def paged (l : List TlbEntry) : State :=
  let s : State := { State.reset with boot := .running, tlb := l }
  (s.setWorld 0 { s.world 0 with ttw := 1 }).setWorld 5 { s.world 5 with ttw := 1 }
/-- The first byte of the page. -/
def pva : W64 := 5 * 65536

theorem witness_DecodeOfEncode :
    (∃ w, encode (.add { fS with d := 63, sz := 3, mod := 1 }) = some w ∧
      (Instr.add { fS with d := 63, sz := 3, mod := 1 }).wf = true) ∧
    ∃ w, encode (.save { fP with imm := 0x14 }) = some w ∧ (Instr.save { fP with imm := 0x14 }).wf = true ∧
      Spec.relctxRow (.save { fP with imm := 0x14 }) = true :=
  ⟨⟨_, rfl, by decide⟩, ⟨_, rfl, by decide, rfl⟩⟩

theorem witness_EncodeOfDecode : decode 0x0C2834500000 = .ok (.ldi { d := 10, imm := 0x34500000 }) :=
  decode_of_isRow (by decide +kernel)

theorem witness_IntegerWords : (atWord ev xe).At ev xe ∧ (xe.stream ev).pred 0 = true := ⟨atWord_at .., by decide +kernel⟩
theorem witness_IntegerSelectAndDeposit : (atWord nv xn).At nv xn ∧ (xn.stream nv).pred 0 = true :=
  ⟨atWord_at .., by decide +kernel⟩
/-- With a zero divisor in register 4, and not. -/
theorem witness_IntegerDivision : (atWord av xa).At av xa ∧ (xa.stream av).pred 0 = true ∧
    Spec.low 64 ((xa.stream av).reg 4) = 0 ∧ Spec.low 64 ((xa.stream av).reg 2) ≠ 0 := ⟨atWord_at .., by decide +kernel⟩
theorem witness_IntegerImmediates : (atWord ev xe).At ev xe ∧ (xe.stream ev).pred 0 = true ∧ opOf 0x0A0000000001 = 0x02 ∧
    (Spec.immRows[((0x0A0000000001 : Insn).extractLsb' 38 4).toNat]?).isSome = true := ⟨atWord_at .., by decide +kernel⟩
theorem witness_LoadImmediate : (atWord nv xn).At nv xn ∧ opOf 0x0E0000000000 = 0x03 ∧
    2 ≤ ((0x0E0000000000 : Insn).extractLsb' 40 2).toNat ∧ opOf 0x0D0100000000 = 0x03 ∧
    (0x0D0100000000 : Insn).extractLsb' 40 2 = 1 ∧ (0x0D0100000000 : Insn).extractLsb' 32 2 ≠ 0 :=
  ⟨atWord_at .., by decide +kernel⟩
/-- The largest finite FP16, and the smallest subnormal FP32. -/
theorem witness_RoundingKeepsRepresentable : (0x7BFF < 2 ^ Fmt.fp16.width ∧ (fpDecode .fp16 0x7BFF).isNan = false) ∧
    1 < 2 ^ Fmt.fp32.width ∧ (fpDecode .fp32 1).isNan = false := by decide +kernel
/-- FP64 in SR on the E stream with an idle VE, a quiet NaN beside a number, and 1 over −0. -/
theorem witness_FloatRounding :
    let x := withRegs ev core2 [0x7FF8000000000000, 0x3FF0000000000000, 0x8000000000000000]
    (atWord ev x).At ev x ∧ (x.stream ev).pred 0 = true ∧ Spec.mayRound ev x .sr ∧ rmOf 0 (x.stream ev).fpctl ≠ .sr ∧
    (x.stream ev).fpOperand .fp64 1 = .nan false ∧ ((x.stream ev).fpOperand .fp64 2).sNan = false ∧
    (∃ n m e, (x.stream ev).fpOperand .fp64 2 = .fin n m e ∧ m ≠ 0) ∧ ∃ n e, (x.stream ev).fpOperand .fp64 3 = .fin n 0 e :=
  ⟨atWord_at .., by decide +kernel, fun _ _ => rfl, by decide +kernel, by decide +kernel, by decide +kernel,
    ⟨false, 2 ^ 52, -52, by decide +kernel⟩, ⟨true, -1074, by decide +kernel⟩⟩
theorem witness_FloatSelectConvertCompare :
    (atWord ev xe).At ev xe ∧ (xe.stream ev).pred 0 = true ∧ Spec.mayRound ev xe .sr := ⟨atWord_at .., by decide +kernel, fun _ _ => rfl⟩
theorem witness_Predicates : (atWord av xa).At av xa ∧ (xa.stream av).pred 0 = true ∧ opOf 0x140000000000 = 0x05 ∧
    (Spec.predicateWords[((0x141400000000 : Insn).extractLsb' 34 8).toNat]?).isNone = true ∧ opOf 0x141400000000 = 0x05 ∧
    ∀ c ∈ Spec.conditions, (BitVec.ofNat 6 c.1).toNat = c.1 := ⟨atWord_at .., by decide +kernel⟩
theorem witness_BranchTarget : (atWord nv xn).At nv xn ∧ ∀ c ∈ Spec.conditions, (BitVec.ofNat 4 c.1).toNat = c.1 :=
  ⟨atWord_at .., by decide +kernel⟩
theorem witness_JumpTargets : (atWord nv xn).At nv xn ∧ (xn.stream nv).pred 0 = true ∧ (xn.stream nv).pred 1 = false ∧
    opOf 0x1D0000000000 = 0x07 := ⟨atWord_at .., by decide +kernel⟩

/-- The own window's last bytes, a page of device memory and one of the host, a misaligned address, and another module. -/
theorem witness_ScalarAccesses :
    (∃ x : Ctx, (atWord av x).At av x ∧ (x.stream av).pred 0 = true ∧
      Spec.reads (atWord av x) av x (Spec.unitOf av) 0 (w64 (72 * 65536 - 8)) 8 ((atWord av x).sramBytes 2 (128 * 65536 - 8) 8) ∧
      ∃ g, Spec.writes (atWord av x) av x (Spec.unitOf av) 0 (w64 (72 * 65536 - 8)) (leBytes 8 5) g) ∧
    Spec.PlainPage (atWord ev xe (paged [page (.scalar ev) 5])) (.scalar ev) 5 1 (pva + 65528) 8 (page (.scalar ev) 5) ∧
    Spec.PlainPage (atWord nv xn (paged [hostPage .poleth 5])) .poleth 5 3 pva 8 (hostPage .poleth 5) ∧ (pva + 4).toNat % 8 ≠ 0 ∧
    ∃ m : BitVec 10, bits (m ++ (8 : BitVec 54) : W64) 54 10 ≠ moduleNo ∧ (m ++ (8 : BitVec 54) : W64).toNat % 8 = 0 ∧
      ({ World.empty with domw := 0x1000001 } : World).domw.getLsbD 24 = true ∧
      (atWord av xa).secureDomain 5 = none := by
  have own (n : Nat) (hn : n = 8) : Spec.ownWindow av (withRegs av core2 []) (w64 (72 * 65536 - 8)) n 2 (128 * 65536 - 8) := by
    subst hn; exact ⟨.inl rfl, by decide +kernel⟩
  refine ⟨⟨withRegs av core2 [], atWord_at .., by decide +kernel, .inl ⟨rfl, rfl, 2, _, own 8 rfl, rfl⟩,
    _, .inl ⟨rfl, rfl, (fun _ h => nomatch h), 2, _, own _ (by decide), rfl⟩⟩, plain_of (by decide +kernel),
    plain_of (by decide +kernel), by decide +kernel, ?_⟩
  · by_cases h : moduleNo = 0
    · exact ⟨1, by rw [h]; decide +kernel, by decide +kernel⟩
    · exact ⟨0, fun h' => h (h'.symm.trans (by decide +kernel)), by decide +kernel⟩

/-- A store of 8 bytes to the end of a page. -/
theorem witness_StoreFrame :
    let x := withRegs ev { core2 with world := 5 } [pva + 65528]
    let s := atWord ev x (paged [page (.scalar ev) 5])
    s.At ev x ∧ (x.stream ev).pred 0 = true ∧ (pva + 65528).toNat % 8 = 0 ∧
    Spec.PlainPage s (.scalar ev) 5 1 (pva + 65528) 8 (page (.scalar ev) 5) ∧ s.dead = [] ∧
    s.enc.get none ((page (.scalar ev) 5).paOf (pva + 65528).toNat / 64) = none ∧
    ∃ t, exec (.st false { fS with d := 2, a := 1, sz := 3, mod := 1 }) s = .next t := by
  refine ⟨atWord_at .., by decide +kernel, by decide +kernel, plain_of (by decide +kernel), rfl, by decide +kernel, next_of (by decide +kernel)⟩

/-- A reserved OP, a vector word in the A stream, and an unlisted FN in the E stream. -/
theorem witness_WordFate : (atWord av xa).At av xa ∧ Spec.groupOf 0 = none ∧
    (∃ kinds, Spec.groupOf 0x880000000003 = some kinds ∧ Spec.kindOf av xa.world ∉ kinds) ∧ (atWord ev xe).At ev xe ∧
    (∃ kinds, Spec.groupOf 0x880000000003 = some kinds ∧ Spec.kindOf ev xe.world ∈ kinds) ∧
    ∃ e, decode 0x880000000003 = .error e :=
  ⟨atWord_at .., by decide +kernel, ⟨[.e], by decide +kernel, by decide +kernel⟩, atWord_at ..,
    ⟨[.e], by decide +kernel, by decide +kernel⟩, ⟨.reservedField, decode_of_isRefused (by decide +kernel)⟩⟩
theorem witness_GuardOff : (atWord nv xn).At nv xn ∧ (xn.stream nv).pred 1 = false := ⟨atWord_at .., by decide +kernel⟩
theorem witness_RegisterFile : (63 : Nat) ≠ 0 ∧ (1 : Nat) ≠ 63 := by decide
theorem witness_RegisterWordFrame : (atWord nv xn).At nv xn ∧
    (∃ t, exec (.add { fS with d := 9, a := 1, b := 2, sz := 3 }) (atWord nv xn) = .next t) ∧
    ∃ t, exec (.trap { fI with imm := 65535 }) (atWord nv xn) = .next t :=
  ⟨atWord_at .., next_of (by decide +kernel), next_of (by decide +kernel)⟩

/-- FPSTAT of an idle core, FTSTAT on an NP thread (none), and SWAIT3 on one. -/
theorem witness_ReadControlRegister : (atWord ev xe).At ev xe ∧ Spec.reach ev 0x01 = some .rw ∧ Spec.cregReady ev xe 0x01 ∧
    Spec.reach nv 0x0D = some .none ∧ (atWord nv xn).At nv xn ∧ Spec.reach nv 0x37 = some .rw ∧ Spec.cregReady nv xn 0x37 ∧
    ev.core < 128 ∧ xe.world < 64 ∧ (∀ k, nv = .np k → k < 192) ∧ (xe.stream ev).pred 0 = true :=
  ⟨atWord_at .., by decide +kernel, ⟨fun _ _ => rfl, fun _ => rfl⟩, by decide +kernel, atWord_at .., by decide +kernel,
    ⟨fun _ _ => rfl, fun _ => rfl⟩, by decide +kernel, by decide +kernel, fun _ h => (by cases h; decide), by decide +kernel⟩

/-- A register of each kind: RO, "—", FPCTL with RM 5 and RM 4, the last view register and a tag form of SWAIT; a ring
descriptor whose slots nothing uses, and one whose slots the active stationary holds. -/
theorem witness_ControlRegisterWrites : (atWord ev xe).At ev xe ∧ Spec.reach ev 0x08 = some .ro ∧ Spec.reach av 0x34 = some .none ∧
    Spec.reach ev 0x00 = some .rw ∧ 5 ≤ ((5 : W64).extractLsb' 0 3).toNat ∧ ((4 : W64).extractLsb' 0 3).toNat < 5 ∧
    Spec.reach ev 0x1F = some .rw ∧ Spec.reach nv 0x34 = some .rw ∧ (3 * 2 ^ 62 : W64).extractLsb' 62 2 = 3 ∧
    Spec.cregReady ev xe 0x1F ∧ (0x2F = 0x28 + 7 ∧ 7 < 8) ∧ xe.e.pred 0 = true ∧ (∀ m ∈ xe.mcq, m.ring ≠ some 7) ∧
    (∀ c ∈ (atWord ev xe).cores, ∀ p ∈ c.2.copies, ∀ q ∈ p.slots, ¬(q.core = 2 ∧ q.disp = xe.disp ∧ q.ring = 7)) ∧
    ((atWord ev xe).core 2).act.holds 7 = false ∧ ((atWord ev xe).core 2).shad.holds 7 = false ∧
    ({ Stationary.empty with source := some (7, 0, 1) } : Stationary).holds 7 = true := by
  have ready : Spec.cregReady ev xe 0x1F := ⟨fun _ _ => rfl, fun _ => rfl⟩
  and_intros
  all_goals first | exact atWord_at .. | decide +kernel | exact ready.1

/-- A row of a queue. -/
def row (l : List Byte) : Row := { bytes := l, arrived := true }
/-- A context with rows in queue q, which head leaves at place 1. -/
def queued (x : Ctx) (q : Nat) (l : List Row) : Ctx := x.setQueue q { head := 1, rows := l }

/-- An E stream pushes to sq0 with room and to a full cq1, pops from cq0, waits for an empty lq0 and for a row still arriving. -/
theorem witness_Queues :
    let x := queued (queued (queued xe 12 [row (leBytes 8 5)]) 13 (List.replicate 32 (row (leBytes 8 1)))) 3
      [{ bytes := [], arrived := false }]
    (atWord ev x).At ev x ∧ (x.stream ev).pred 0 = true ∧ Spec.pushes ev 8 ∧ Spec.pushes ev 13 ∧ ¬Spec.pushes ev 12 ∧
    Spec.pops ev 12 ∧ Spec.pops ev 0 ∧ ¬Spec.pops ev 13 ∧ Spec.queueFree ev x 8 ∧ (x.queue 8).rows.length < queueDepth 8 ∧
    queueDepth 13 ≤ (x.queue 13).rows.length ∧ (x.queue 12).rows = { bytes := leBytes 8 5, arrived := true } :: [] ∧
    (x.queue 0).rows = [] ∧ (∃ r rest, (x.queue 3).rows = r :: rest ∧ r.arrived = false) ∧ (x.queue 13).rows.length < 2 ^ 16 ∧
    ∀ t, ev ≠ .np t := by
  have free (x : Ctx) (h : x.ve = []) : Spec.queueFree ev x 8 := fun _ p hp => by rw [h] at hp; cases hp
  and_intros
  all_goals first
    | exact atWord_at ..
    | exact free _ rfl
    | decide +kernel
    | simp only [Spec.pushes, Spec.pops]; decide
    | exact ⟨{ bytes := [], arrived := false }, [], by decide +kernel, rfl⟩
    | exact fun _ h => nomatch h

/-- Each way the other stream may have left, and a world with and without debug. -/
theorem witness_SystemControl : (atWord ev xe).At ev xe ∧ (xe.stream ev).pred 0 = true ∧ xe.otherExit ev ≠ .suspended ∧
    xe.otherExit ev ≠ .ended ∧ ({ xe with a := { xe.a with exit := .suspended } }).otherExit ev = .suspended ∧
    ({ xe with a := { xe.a with exit := .ended } }).otherExit ev = .ended ∧ (atWord ev xe).debugOn 5 = false ∧
    ((paged []).setWorld 5 { World.empty with part := some { cores := 4, threads := 0, failed := false, debug := true } }).debugOn 5 =
      true ∧ (xe.stream ev).yield = 0 ∧ ∀ c, ev ≠ .a c := by
  and_intros
  all_goals first | exact atWord_at .. | decide +kernel | exact fun _ h => nomatch h

/-- The last repetition of a row load from device memory, of an indexed one from the own window, and a row store. -/
theorem witness_RowTransfers :
    let x := queued (queued (withRegs av { core2 with world := 5 } [pva, 64]) 13 [row (leBytes 8 128)]) 9 [row [1, 2, 3]]
    let s := atWord av x (paged [page (.stream 2 0) 5])
    let f : FmtA := { q := 2, b := 1, step := 0, rep := 0 }
    let g : FmtA := { q := 9, b := 2, step := 0x3FFF, rep := 0 }
    s.At av x ∧ x.a.rpt ≤ f.rep.toNat ∧ Spec.room x 2 ∧ Spec.PlainPage s (.stream 2 0) 5 1 (Spec.stepAddr x.a f 64) 512 (page (.stream 2 0) 5) ∧
    (Spec.stepAddr x.a f 64).toNat % min 512 64 = 0 ∧ Spec.head x 13 (leBytes 8 128) ∧
    Spec.ownWindow av x (Spec.stepAddr x.a g 64 + 128) 4 2 (56 * 65536 + 192) ∧ Spec.head x 9 [1, 2, 3] ∧
    Spec.ownWindow av x (Spec.stepAddr x.a g 1) 8 2 (56 * 65536 + 64) ∧ (Spec.stepAddr x.a g 1).toNat % 8 = 0 := by
  refine ⟨atWord_at .., by decide +kernel, by simp only [Spec.room]; decide +kernel, plain_of (by decide +kernel), by decide +kernel,
    ⟨[], by decide +kernel⟩, ⟨.inl rfl, by decide +kernel, by decide +kernel, by decide +kernel⟩, ⟨[], by decide +kernel⟩,
    ⟨.inl rfl, by decide +kernel, by decide +kernel, by decide +kernel⟩, by decide +kernel⟩

/-- An index row with an absent element and one at the end of the window. -/
theorem witness_ElementTransfers :
    let l : List Byte := leBytes 4 0x80000000 ++ leBytes 4 3
    let x := queued (queued (withRegs av { core2 with world := 5 } [72 * 65536 - 4]) 10 [row l]) 8 [row [1, 2, 3, 4]]
    let at_ (j : Int) : Nat := ((72 * 65536 - 4 : W64) + BitVec.ofInt 64 (j * 1)).toNat
    (atWord av x).At av x ∧ Spec.head x 10 l ∧ Spec.indices l = [none, some 3] ∧ x.a.reg 1 = 72 * 65536 - 4 ∧
    (at_ 3 < 2 ^ 23 ∧ at_ 3 + 1 ≤ bits x.partw 32 8 * 65536) ∧ Spec.room x 0 ∧ Spec.head x 8 [1, 2, 3, 4] := by
  refine ⟨atWord_at .., ⟨[], by decide +kernel⟩, by decide +kernel, by decide +kernel, by decide +kernel,
    by simp only [Spec.room]; decide +kernel, ⟨[], by decide +kernel⟩⟩

/-- A table of one set of two ways: a hit beside an older entry, a miss with a free way, one with a way to evict, and one whose
ways are both pending; a table that is not enabled; descriptors that R266 allows and forbids. -/
theorem witness_TagTables :
    let d : W64 := w64 (1 + 2 ^ 29 + 2 ^ 39 + 5 * 2 ^ 41)
    let x := { withRegs av core2 [512 * 7 + 3] with ttd := [(2, d)] }
    let hit := (x.setTagSlot 2 0 { valid := true, pending := false, block := 9, rank := 0 }).setTagSlot 2 1
      { valid := true, pending := true, block := 7, rank := 1 }
    let old := (x.setTagSlot 2 0 { valid := true, pending := false, block := 9, rank := 1 }).setTagSlot 2 1
      { valid := true, pending := true, block := 8, rank := 0 }
    let full := (x.setTagSlot 2 0 { valid := true, pending := true, block := 9, rank := 1 }).setTagSlot 2 1
      { valid := true, pending := true, block := 8, rank := 0 }
    let holds (y : Ctx) (k : Nat) : Prop := (y.tagSlot 2 k).valid = true ∧ (y.tagSlot 2 k).block = 7
    (atWord av x).At av x ∧ ttdEn d = true ∧ ttdFits d x.partw = true ∧ (setSlots d (7 % ttdSets d) = [0, 1] ∧ ttdLine d = 512) ∧
    (holds hit 1 ∧ ¬holds hit 0) ∧ (¬holds x 0 ∧ ¬holds x 1 ∧ (x.tagSlot 2 0).valid = false) ∧
    (¬holds old 0 ∧ ¬holds old 1 ∧ (old.tagSlot 2 0).pending = false ∧ (old.tagSlot 2 1).pending = true) ∧
    (∀ k ∈ [0, 1], (full.tagSlot 2 k).valid = true ∧ (full.tagSlot 2 k).pending = true) ∧ ttdEn (x.ttd.get 0 3) = false ∧
    ttdOk d = true ∧ ttdOk (1 + 9 * 2 ^ 35) = false ∧ (x.tt.wf .empty = true) ∧
    ∀ p ∈ ((atWord av x).core 2).taskCopies x.disp, p.fill.map Prod.fst ≠ some 2 :=
  ⟨atWord_at .., by decide +kernel⟩

/-- A copy in an engine. -/
def copying (p : Copy) (x : Ctx := core2) : State :=
  let s := (paged []).setCtx (.core 2) (some x)
  s.setCore 2 { s.core 2 with copies := [p] }
def plainCopy (uw : BitVec 16) (desc : List W64) : Copy :=
  { Copy.fresh 7 0 desc with task := some 1, tag := some 5, partw := core2.partw, buf := some 3, uw }

/-- Tag 63 free with its descriptor in a page and off a multiple of 64, tag 5 busy; a tag to find and none. -/
theorem witness_CopyWords :
    let x := withRegs av { core2 with world := 5, ctb := 2 ^ 63 } [pva, pva + 1, 2 ^ 63]
    let s := atWord av x (paged [page (.stream 2 1) 5])
    let busy := atWord av core2 (copying (plainCopy 0 []))
    s.At av x ∧ Spec.noneHeld s av ∧ (s.core 2).taskCopies x.disp = [] ∧
    (x.a.reg 2).toNat % 64 ≠ 0 ∧ Spec.PlainPage s (.stream 2 1) 5 1 pva 64 (page (.stream 2 1) 5) ∧
    (∃ c ∈ (busy.core 2).taskCopies 1, c.tag = some 5) ∧
    ((x.ctb &&& x.a.reg 3).getLsbD 63 = true ∧ ∀ k, k < 63 → (x.ctb &&& x.a.reg 3).getLsbD k = false) ∧ x.ctb &&& x.a.reg 0 = 0 ∧
    x.ctb &&& x.a.reg 1 = 0 ∧ x.a.reg 1 ≠ 0 ∧ x.ctb &&& x.a.reg 3 = x.a.reg 3 :=
  ⟨atWord_at .., (fun _ h => nomatch h), by decide +kernel, by decide +kernel, plain_of (by decide +kernel),
    ⟨plainCopy 0 [], by decide +kernel⟩, by decide +kernel⟩

/-- A copy of 4,096 bytes to the end of the window, and one that has failed at once. -/
theorem witness_CopyCompletion :
    let p := plainCopy 0 [0, w64 (72 * 65536 - 4096), w64 (4096 * 2 ^ 16), 0, 0, 0, 0, 0]
    let q := { p with early := some 5 }
    (copying p).liveCopy 2 7 = some p ∧ (copying q).liveCopy 2 7 = some q ∧
    (p.early = none ∧ p.uw = 0 ∧ p.trigger = none ∧ p.slots = [] ∧ p.asks = [] ∧ p.chunks = 0 ∧ p.barrier = false ∧
      p.descOk 2 = true ∧ (copying p).sramEcc = [] ∧ p.sstor = 0 ∧ p.dstor = 0 ∧ p.rows = 1 ∧ p.rowlen = 4096) ∧
    (p.saddr + 4096 ≤ bits p.partw 32 8 * 65536 ∧ p.daddr + 4096 = bits p.partw 32 8 * 65536 ∧ p.daddr < 2 ^ 23) ∧
    (p.task = some core2.disp ∧ p.tag = some 5 ∧ ((copying p).core 2).task core2.disp = some core2) := by decide +kernel

/-- A ring of two slots with one free, and a fill of 300 entries into an empty xq. -/
theorem witness_CopyRingsAndQueues :
    let r : W64 := rgdWith (w64 (1 + 2 * 2 ^ 15 + 2 ^ 23)) 0 1 false
    let x := { core2 with rgd := [(3, r)] }
    let p := plainCopy 1 [w64 8192, w64 (3 * 2 ^ 58), w64 (100 * 2 ^ 16), 0, 0, 0, 0, 0]
    let q := plainCopy (2 + 2 ^ 13) [0, 0, w64 (9600 * 2 ^ 16), 0, 0, 0, 0, 0]
    (copying p x).liveCopy 2 7 = some p ∧ p.early = none ∧ p.mc = false ∧ p.descOk 2 = true ∧ p.dk = 1 ∧ p.allocated = false ∧
    (copying p x).ringTurn 2 p = true ∧ ((copying p x).core 2).ctx = some x ∧ rgdEn r = true ∧ rgdOk r x.partw = true ∧
    p.fitsSlot (rgdSlotBytes r) = true ∧ rgdFull r = false ∧ p.ring = 3 ∧ (copying q).liveCopy 2 7 = some q ∧ q.mc = false ∧
    q.descOk 2 = true ∧ (q.dk = 2 ∧ q.isFill = true ∧ q.trBytes = 0 ∧ q.cvt = false ∧ q.qmx = false ∧ q.wg = false) ∧
    ((copying q).core 2).queueTurn q = true ∧ q.asks = [] ∧ ((copying q).core 2).task core2.disp = some core2 ∧
    p.task = some x.disp ∧ q.pushed < q.rows * q.rowlen / 32 := by decide +kernel

noncomputable def isWord (w : Insn) (i : Instr) : Bool := match decodeWord w with | .ok (.row j) => decide (j = i) | _ => false

theorem decodeWord_of_isWord {w : Insn} {i : Instr} (h : isWord w i = true) : decodeWord w = .ok (.row i) := by
  unfold isWord at h
  split at h
  · rename_i e; rw [e, of_decide_eq_true h]
  · cases h

/-- VADD with two repetitions: its first, with the default view and with one of TYPE 15, and its second. -/
theorem witness_VectorWords :
    let f : FmtV := { fV with vd := 1, rep := 1 }
    let w : Insn := 0x800080000001
    let p : VePend := { word := w, pc := 0, next := 0, upto := 1, more := true, vshape := 0, vksc := 0, fpctl := 0, vw := [] }
    let y := { xe with e := { xe.e with rpt := 1 }, ve := [p] }
    (atWord ev xe).At ev xe ∧ .vadd ∈ Spec.vectorRows 0 0 false 0 ∧ encode (.vadd f) = some w ∧
    (∃ op, vopOf (.vadd f) = some (f, op) ∧ op.ok (p.vin f 0 core2.partw) = true ∧ op.ok (p.vin f 1 core2.partw) = true ∧
      op.ok (({ p with vw := [(0, w64 (15 * 2 ^ 60))] }).vin f 0 core2.partw) = false) ∧
    (atWord ev y).At ev y ∧ y.e.rpt ≤ f.rep.toNat ∧ y.ve = [] ++ [p] ∧ p.pc = y.e.pc ∧ xe.ve.length < 16 ∧
    ((atWord ev y).core 2).ctx = some y ∧ y.phase = .running ∧ ((atWord ev y).core 2).startAt = none ∧ p.next < p.upto ∧
    decodeWord w = .ok (.row (.vadd f)) ∧ (∃ f, decodeWord 0x880000500000 = .ok (.row (.vfadd 0 f)) ∧ f.t = 10 ∧
      ({ p with word := 0x880000500000 }.vin f 0 y.partw).rm 0 ≠ .sr) ∧ ∃ f, decodeWord 0x9C0000000000 = .ok (.row (.vmov f)) := by
  refine ⟨atWord_at .., by simp [Spec.vectorRows], by decide +kernel, ⟨_, rfl, by decide +kernel⟩, atWord_at .., ?_⟩
  and_intros
  all_goals first
    | decide +kernel
    | exact decodeWord_of_isWord (by decide +kernel)
    | exact ⟨{ fV with t := 10 }, decodeWord_of_isWord (by decide +kernel), by decide +kernel⟩
    | exact ⟨fV, decodeWord_of_isWord (by decide +kernel)⟩

/-- A ring of 8 slots of 8 KiB, and one too small; slabs inside and outside; each semaphore value. -/
def matrixRing (slots : Nat) : W64 := rgdWith (w64 (1 + 15 * 2 ^ 15 + (slots - 1) * 2 ^ 23)) 0 0 true
theorem witness_MatrixWords :
    let x := { xe with rgd := [(2, matrixRing 8), (3, matrixRing 1)], imgAct := { fmt := some 0, sparse := false, isSealed := false } }
    let f : FmtM := { fM with ra := 2, rb := 2 }
    (atWord ev x).At ev x ∧ x.mcq.length < 16 ∧ encode (.mswap f) = some 0xC05200000000 ∧ (encode (.mzero f)).isSome = true ∧
    (encode (.mloadw f)).isSome = true ∧ (encode (.mmul f)).isSome = true ∧ (encode (.mmuls f)).isSome = true ∧
    slabOk x.partw 0 = true ∧ slabOk x.partw 64 = false ∧ rgdOk (matrixRing 8) x.partw = true ∧ rgdOk 0 x.partw = false ∧
    loadSlots f (matrixRing 8) ≤ rgdSlots (matrixRing 8) ∧ rgdSlots (matrixRing 1) < loadSlots f (matrixRing 1) ∧
    x.imgAct.fmt = some f.fmtb ∧ 32 * rowLen (fmtK 0) 0 ≤ rgdSlotBytes (matrixRing 8) ∧ actXq 0 (fmtK 0) 1 ≤ 256 ∧
    Spec.noneHeld (atWord ev x) ev ∧ x.ve = [] ∧ x.msem.get 0 3 = 0 ∧ ({ x with msem := [(3, 0xFFFF)] }).msem.get 0 3 = 0xFFFF ∧
    x.semAhead ((atWord ev x).core 2).shad ev 3 = 0 := by
  and_intros
  all_goals first | exact atWord_at .. | decide +kernel | exact fun _ h => nomatch h

/-- A command in mcq at the head, of a word. -/
def queuedCmd (w : Insn) : MCmd :=
  { word := w, pc := 4, started := false, wsTaken := false, slabs := 0, installed := 0, slot0 := 0, nslots := 1, nxq := 0,
    finished := false, refused := none }
/-- MSWAP with WS 3 at 0 and above, MZERO, MLOADW before and after its start, MMUL with its slot filled and one whose slot lies out
of reach; finished commands of both kinds, with SS 2 at 65,535 and below, and a refused one. -/
theorem witness_MatrixExecution :
    let swap := queuedCmd 0xC04000006200
    let load := { queuedCmd 0xC01200000000 with started := true }
    let mul := queuedCmd 0xC09200000000
    let x := { xe with rgd := [(2, matrixRing 8)], readPos := [(2, 1)], filled := [(slotKey 2 0, true)], mcq := [mul] }
    let s := atWord ev x
    ((s.core 2).ctx = some x ∧ x.phase = .running ∧ (s.core 2).startAt = none ∧ s.sramEcc = []) ∧
    (mul.finished = false ∧ mul.refused = none ∧ mul.fn = 2 ∧ mul.f.ws = 0 ∧ x.inReach 0 mul = true ∧
      x.inReach 0 { mul with nxq := 300 } = false) ∧
    (swap.fn = 1 ∧ swap.f.ws = 3 ∧ swap.f.ss = 2 ∧ x.msem.get 0 3 = 0 ∧
      ({ x with msem := [(2, 0xFFFF), (3, 1)] }).msem.get 0 3 = 1 ∧ ({ x with msem := [(2, 0xFFFF), (3, 1)] }).msem.get 0 2 = 0xFFFF) ∧
    ((queuedCmd 0xC10000000000).fn = 4 ∧ (queuedCmd 0xC10000000000).f.ks.getLsbD 7 = false) ∧
    (load.fn = 0 ∧ (s.core 2).shad.source = none ∧ load.f.ks.getLsbD 0 = false ∧
      (∀ j, j < 1 → x.slotFilled load.f.rb.toNat (x.ringDist load.f.rb.toNat 0 + j) = true) ∧ x.xqReady 0 0 = true) ∧
    x.slotFilled mul.f.ra.toNat (x.ringDist mul.f.ra.toNat 0 + 0) = true ∧
    (({ swap with refused := some (9, 0) }).refused = some (9, 0)) ∧ ({ swap with finished := true }).fn ≠ 2 := by decide +kernel

/-- A write of a core's E stream held for a page, the streams of another core, and a FENCE of each storage scope; no store on its
way to another module, and one. -/
theorem witness_Fences :
    let d : DupPage := { page := 3, size := 16, holders := [1], held := [{ ag := some ev, bytes := [(196608, 1)], tag := none }] }
    let s : State := { atWord ev xe with dup := [d] }
    let p : Outstanding := { id := 1, landing := .none, operand := 0, kind := 2, pc := 0, rep := 0 }
    s.At ev xe ∧ (xe.stream ev).pred 0 = true ∧ (∃ d ∈ s.dup, ∃ h ∈ d.held, h.ag = some ev) ∧
    (¬∃ d ∈ s.dup, ∃ h ∈ d.held, h.ag = some nv) ∧ withinScope ev (scopeOf 0) ev = true ∧ (storOf 0 = 0 ∧ storOf 1 ≠ 0) ∧
    (¬∃ d ∈ (atWord ev xe).dup, ∃ h ∈ d.held, h.ag = some ev) ∧ s.storesOut ev 5 (scopeOf 0) = false ∧
    (atWord ev { xe with e := { xe.e with out := [p] } }).storesOut ev 5 (scopeOf 0) = true := by
  exact ⟨⟨by decide +kernel, by decide +kernel⟩, by decide +kernel⟩

/-- A word at the start of a page with AT, a misaligned one, and a cell at its end. -/
theorem witness_AtomicAccesses :
    let x := withRegs ev { core2 with world := 5 } [pva, pva + 1, pva + 65504]
    let s := atWord ev x (paged [page (.scalar ev) 5])
    s.At ev x ∧ (x.stream ev).pred 0 = true ∧ (x.e.reg 2).toNat % 4 ≠ 0 ∧
    Spec.AtomicPage s (Spec.unitOf ev) 5 1 (x.e.reg 1) 8 (page (.scalar ev) 5) ∧ (x.e.reg 3).toNat % 32 = 0 ∧
    Spec.AtomicPage s (Spec.unitOf ev) 5 1 (x.e.reg 3) 32 (page (.scalar ev) 5) ∧ storOf 1 = 1 :=
  ⟨atWord_at .., by decide +kernel, by decide +kernel, ⟨plain_of (by decide +kernel), by decide +kernel⟩, by decide +kernel,
    ⟨plain_of (by decide +kernel), by decide +kernel⟩, by decide +kernel⟩

/-- Counts of 0, 2 and 65,536; a word that is not live; live words of the core with no arrival and with one of two, another core's,
and a stream that waits at one; a network with and without room. -/
theorem witness_Barriers :
    let y := withRegs ev { core2 with world := 5 } [pva, 0, 2, 65536]
    let r : BarRec := { va := pva, pa := 7 * 65536, phase := 0, d := 9 }
    let x := { y with e := { y.e with bar := some r } }
    let s := atWord ev y (paged [page (.scalar ev) 5])
    let b : Barrier := { world := 5, va := pva.toNat, level := 0, count := 2, arrived := 0, phase := 0, inst := 2, thread := none }
    let live (b : Barrier) (l : Tbl (Option Barrier) := []) : State := { s with barriers := (57344, some b) :: l }
    s.At ev y ∧ (atWord ev x).At ev x ∧ (65536 ≤ (y.e.reg 4).toNat ∧ (y.e.reg 3).toNat = 2 ∧ (y.e.reg 2).toNat = 0) ∧
    Spec.PlainPage { live b with barriers := [] } (Spec.unitOf ev) 5 1 (y.e.reg 1) 8 (page (.scalar ev) 5) ∧ s.liveAt (7 * 65536) = none ∧
    (live b).liveAt (7 * 65536) = some b ∧ instanceOf s ev 5 0 = (b.inst, b.thread) ∧ s.netCount (0, 2) none < networkCap 0 ∧
    (live b ((List.range 15).map fun i => (57345 + i, some b))).netCount (0, 2) (some 57344) < networkCap 0 ∧
    (live b ((List.range 16).map fun i => (57345 + i, some b))).netCount (0, 2) none = 17 ∧ networkCap 0 = 16 ∧
    ({ b with arrived := 1 }).arrived + 1 = b.count ∧ instanceOf s ev 5 0 ≠ (3, b.thread) ∧ (y.e.bar = none ∧ x.e.bar = some r) ∧
    (live b).phasePassed r = false ∧ (live { b with phase := 1 }).phasePassed r = true := by
  exact ⟨atWord_at .., atWord_at .., by decide +kernel, plain_of (by decide +kernel), by decide +kernel⟩

/-- Worlds 0 and 5 with partitions of every core and quotas (tags 3, records 5, entries 4, timers 9, events 10 and 512), with pages
of the Poleth die, and words stored at the page's first byte. -/
def worlds (s : State := paged [page .poleth 0, page .poleth 5]) : State :=
  let p : Partition := { cores := BitVec.allOnes 128, threads := 192, failed := false, debug := true }
  let q : Tbl Nat := [(0, 3), (1, 5), (2, 4), (3, 9), (16, 10)]
  let u := s.setWorld 5 { World.empty with part := some p, quota := q, ttw := 1 }
  u.setWorld 0 { World.empty with part := some p, ttw := 1, quota := [(0, 3), (1, 5), (2, 4), (3, 9), (16, 512)] }
def withWords (s : State) (world : Nat) (l : List W64) : State :=
  s.storeBytes world pva.toNat (7 * 65536) (l.flatMap fun v => leBytes 8 v.toNat)

theorem liveTag_of {s : State} {h : W64} {w i : Nat} (hm : handleModule h = moduleNo) (hw : handleWorld h = w) (hi : handleIndex h = i)
    (ht : (s.tag i).st ≠ .free ∧ (s.tag i).gen.toNat = handleGen h ∧ (s.tag i).world = w) : s.liveTag h w = some i := by
  simp [State.liveTag, handleHere, hm, hw, hi, ht]

/-- A normal handle of tag 2, generation 6, and a fallback handle of counter 4, of world 5 and of each module. -/
theorem handles (m : BitVec 10) :
    let h : W64 := m ++ (0x400000C280 : BitVec 54)
    let g : W64 := m ++ (0x4000002280 : BitVec 54)
    (handleModule h = m.toNat ∧ handleWorld h = 5 ∧ handleIndex h = 2 ∧ handleGen h = 6 ∧ h.getLsbD 13 = false) ∧
    handleModule g = m.toNat ∧ handleWorld g = 5 ∧ handleFctr g = 4 ∧ g.getLsbD 13 = true := by
  revert m
  decide +kernel

/-- An index past the counters, one of another world's and one of the world's; timers 8 and 9 of a quota of 9; TAGALLOC's operands
with and without a free tag; a stale handle, a live one with the tag in each state, and a fallback handle. -/
theorem witness_CountersTagsAndTimers :
    let h : W64 := Config.moduleNumber ++ (0x400000C280 : BitVec 54)
    let g : W64 := Config.moduleNumber ++ (0x4000002280 : BitVec 54)
    let c : Counter := { value := 1, alloc := true, owner := 5, nwatch := 0 }
    let x := withRegs nv { np3 with world := 5 } [262144, 6, 4, 8, 9, 0x100000, 64]
    let u : State := atWord nv x { worlds with counters := [(4, c), (6, { c with owner := 7 })] }
    let tagged (st : TagState) (refs : Nat) : State := { u with tags := [(2, { Tag.empty with gen := 6, world := 5, st, refs })] }
    u.At nv x ∧ (262144 ≤ (x.e.reg 1).toNat ∧ (¬(x.world = 0 ∨ (u.counter 6).alloc = true ∧ (u.counter 6).owner = x.world)) ∧
    ((u.counter 4).alloc = true ∧ (u.counter 4).owner = x.world) ∧ u.dup = [] ∧ (u.quota 5 3 ≤ bits 9 0 12 ∧ bits 8 0 12 < u.quota 5 3) ∧
    ((x.e.reg 6).extractLsb' 0 6 = 0 ∧ (x.e.reg 6).extractLsb' 56 8 = 0 ∧ (x.e.reg 7).extractLsb' 50 14 = 0 ∧
      bits (x.e.reg 7) 0 25 = 64 ∧ bits (x.e.reg 7) 25 3 ≤ 5 ∧ u.mayCount 5 4 = true ∧ u.tags.wf .empty = true ∧
      u.tagCount 5 < u.quota 5 0 ∧ (u.tag 0).st = .free) ∧
    (u.quota 5 0 ≤ ({ u with tags := (List.range 3).map fun i => (i, { Tag.empty with world := 5, st := .retired }) }).tagCount 5)) ∧
    ((0 : W64).getLsbD 13 = false ∧ u.liveTag 0 5 = none) ∧
    (h.getLsbD 13 = false ∧ ∀ st refs, st ≠ .free → (tagged st refs).liveTag h 5 = some 2 ∧ ((tagged st refs).tag 2).st = st) ∧
    (∀ c, nv.place ≠ .core c) ∧ g.getLsbD 13 = true ∧ handleHere g 5 = true ∧ handleFctr g = 4 ∧ x.e.wait = none := by
  refine ⟨atWord_at .., by decide +kernel, ⟨by decide, ?_⟩, ⟨(handles _).1.2.2.2.2, fun st refs hst => ?_⟩, (fun _ h => by cases h), (handles _).2.2.2.2, ?_,
    (handles _).2.2.2.1, by decide +kernel⟩
  · simp only [State.liveTag, handleHere, show (handleWorld 0 == 5) = false by decide, Bool.and_false, Bool.false_and, Bool.false_eq_true, if_false]
  · obtain ⟨hm, hw, hi, hg, -⟩ := (handles Config.moduleNumber).1
    have ht : ((atWord nv (withRegs nv { np3 with world := 5 } [262144, 6, 4, 8, 9, 0x100000, 64]) worlds).setTag 2
      { Tag.empty with gen := 6, world := 5, st, refs }).tag 2 = { Tag.empty with gen := 6, world := 5, st, refs } := by
        simp [State.tag, State.setTag]
    exact ⟨liveTag_of hm hw hi ⟨hst, hg.symm, rfl⟩, rfl⟩
  · simp only [handleHere, Bool.and_eq_true, beq_iff_eq]
    exact ⟨(handles _).2.1, (handles _).2.2.1⟩

/-- A record of a control task of world 5, and one of a world without a partition; a queue with an event another has taken and one
to take, held and not; sixteen events held. -/
theorem witness_SubmissionsAndEvents :
    let x := withRegs nv { np3 with world := 5 } [pva, 0x77]
    let s := withWords (atWord nv x worlds) 5 [w64 (1 + 5 * 4)]
    let t := withWords (atWord nv x worlds) 5 [w64 (1 + 6 * 4)]
    let y := withRegs nv np3 [pva]
    let q : Submission := { recva := pva.toNat, readWorld := 5, expect := some 5 }
    let e : Event := { cls := 3, world := 5, oqn := 4, oseq := 0, words := [0x77], st := .posted, holder := none }
    let mine : Event := { e with st := .taken, holder := some 3 }
    let with_ (l : List Event) : State := { atWord nv x worlds with events := l }
    s.At nv x ∧ Spec.PlainPage s .poleth 5 1 (x.e.reg 1) 64 (page .poleth 5) ∧ Spec.PlainPage t .poleth 5 1 (x.e.reg 1) 64 (page .poleth 5) ∧
    (let l := wordsOf 8 (s.loadBytes 5 pva.toNat ((page .poleth 5).paOf pva.toNat) 64);
      hdrChain (wd l 0) = 0 ∧ refusal s q l [] = none ∧ recTags l [] = [] ∧ s.resident (hdrWorld (wd l 0)) < s.quota (hdrWorld (wd l 0)) 1 ∧
      s.spilled = [] ∧ s.submits = []) ∧
    (let l := wordsOf 8 (t.loadBytes 5 pva.toNat ((page .poleth 5).paOf pva.toNat) 64);
      hdrChain (wd l 0) = 0 ∧ (refusal t q l []).isSome = true) ∧
    (atWord nv y worlds).At nv y ∧ Spec.PlainPage (atWord nv y worlds) .poleth 0 1 (y.e.reg 1) 64 (page .poleth 0) ∧ y.world = 0 ∧
    (with_ [e]).heldCount 3 < 16 ∧ (with_ (List.replicate 16 mine)).heldCount 3 = 16 ∧ (e.st == .posted && e.world == x.world && e.cls == 3) = true ∧
    mine.named 3 0x77 = true ∧ e.named 3 0x77 = false ∧ (with_ [mine]).grantable mine = true ∧
    (with_ [e, { mine with oseq := 1 }]).grantable { mine with oseq := 1 } = false ∧ ({ mine with st := .locked }).named 3 0x77 = true := by
  refine ⟨⟨by decide +kernel, by decide +kernel⟩, plain_of (by decide +kernel), plain_of (by decide +kernel), by decide +kernel, by decide +kernel,
    atWord_at .., plain_of (by decide +kernel), by decide +kernel⟩

theorem notifyWord (m : BitVec 10) : let a : W64 := (0 : BitVec 42) ++ m ++ (20 : BitVec 12)
    a.extractLsb' 22 42 = 0 ∧ bits a 12 10 = m.toNat ∧ bits a 0 12 = 20 := by
  revert m
  decide +kernel

theorem other_module : ∃ m : BitVec 10, m.toNat ≠ moduleNo := by
  by_cases h : moduleNo = 0
  · exact ⟨1, by rw [h]; decide⟩
  · exact ⟨0, fun e => h e.symm⟩

/-- A notify register of this module that is bound, and one of another module; descriptors of worlds 5 and 6 at the page's first byte,
the first with 64 bytes of payload. -/
theorem witness_NotifyAndSend :
    let a : W64 := (0 : BitVec 42) ++ Config.moduleNumber ++ (20 : BitVec 12)
    let x := withRegs nv { np3 with world := 5 } [pva, 0x84]
    let u : State := { atWord nv x worlds with nbind := [(20, w64 (2 ^ 20 + 5 * 2 + 33 * 2 ^ 10))] }
    let s (w : Nat) : State := withWords u 5 [w64 (w * 2 ^ 39), 0, 0, pva, 64]
    let l (w : Nat) : List W64 := wordsOf 8 ((s w).loadBytes 5 pva.toNat ((page .poleth 5).paOf pva.toNat) 64)
    (s 5).At nv x ∧ (s 6).At nv x ∧ (a.extractLsb' 22 42 = 0 ∧ bits a 12 10 = moduleNo ∧ bits a 0 12 = 20) ∧
    (∃ m : BitVec 10, bits ((0 : BitVec 42) ++ m ++ (20 : BitVec 12)) 12 10 ≠ moduleNo) ∧
    Spec.PlainPage (s 5) .poleth 5 1 (x.e.reg 1) 64 (page .poleth 5) ∧
    Spec.PlainPage (s 5) .poleth 5 1 (w64 (sdLva (l 5))) 64 (page .poleth 5) ∧
    ((u.nbind.get 0 20).getLsbD 20 = true ∧ (u.lanterns.get .empty 20).pending = false ∧ u.gate = .running ∧ u.eventRoom 5 0 = true ∧
      ({ u with gate := .gated }).gate ≠ .running ∧ u.eventRoom 5 7 = false ∧
      (({ u with lanterns := [(20, { value := 1, count := 1, pending := true })] } : State).lanterns.get Lantern.empty 20).pending = true ∧
      u.secureDomain 5 = none) ∧
    (sdOk (s 5) 5 (l 5) = true ∧ sdOk (s 6) 5 (l 6) = false ∧ sdOpk (l 5) = 0 ∧ sdLen (l 5) = 64 ∧ (page .poleth 5).log2 ≤ 32 ∧
      u.linkKeys = [] ∧ u.outbound.length < 131072) ∧
    (List.replicate 131072 ({ id := 0, world := 5, desc := [] } : OutMsg)).length = 131072 :=
  ⟨⟨by decide +kernel, by decide +kernel⟩, ⟨by decide +kernel, by decide +kernel⟩, notifyWord _,
    other_module.imp fun m h => (notifyWord m).2.1 ▸ h, plain_of (by decide +kernel), plain_of (by decide +kernel),
    by decide +kernel, by decide +kernel, List.length_replicate⟩

/-- A counter entry of world 5 with its image at the page's first byte, a refused one, a timed entry over an armed descriptor, and a
descriptor's image; entries armed, disarmed and free, of the world and of another. -/
theorem witness_Triggers :
    let x := withRegs nv { np3 with world := 5 } [pva, pva + 1, 32768, 65536]
    let u : State := { atWord nv x worlds with counters := [(4, { value := 1, alloc := true, owner := 5, nwatch := 0 })] }
    let s : State := withWords u 5 [w64 (1 + 5 * 2 ^ 6), 4, 0, 0, 10]
    let l := trigImage (wordsOf 8 (s.loadBytes 5 pva.toNat ((page .poleth 5).paOf pva.toNat) 64))
    let dd : List W64 := [w64 (2 + 5 * 2 ^ 4 + 2 ^ 38), 0, 0, 0]
    let v : State := withWords { u with ddesc := [(9, dd)] } 5 [w64 (5 * 2 ^ 6), 0, 0, 0, 1, 0, 0, 9]
    let d := withWords u 5 dd
    let t : Trigger := { st := .armed, missed := 0, fires := 0, hits := 0, words := l, arm := 0 }
    s.At nv x ∧ v.At nv x ∧ d.At nv x ∧ (x.e.reg 2).toNat % 64 ≠ 0 ∧ (x.e.reg 3).toNat = 32768 ∧ (x.e.reg 4).toNat = 65536 ∧
    Spec.PlainPage s .poleth 5 1 (x.e.reg 1) 64 (page .poleth 5) ∧ Spec.PlainPage d .poleth 5 1 (x.e.reg 1) 32 (page .poleth 5) ∧
    (trigOk s 5 l = true ∧ trigOk u 5 [] = false ∧ (wd l 0).getLsbD 0 = true ∧ (s.counter (trigCidx l)).nwatch < 64 ∧
      (s.counter (trigCidx l)).value.toNat < trigThr t ∧ s.triggers.wf .empty = true ∧ (s.trigger 0).st = .free ∧ trigWorld l = 5 ∧
      s.trigCount 5 < s.quota 5 2) ∧
    (let m := trigImage (wordsOf 8 (v.loadBytes 5 pva.toNat ((page .poleth 5).paOf pva.toNat) 64));
      trigOk v 5 m = true ∧ (wd m 0).getLsbD 0 = false) ∧
    (ddOk d 5 (wordsOf 4 (d.loadBytes 5 pva.toNat ((page .poleth 5).paOf pva.toNat) 32)) = true ∧ ddOk d 5 [] = false ∧
      d.ddesc.wf [] = true ∧ d.ddesc.get [] 0 = []) ∧
    (t.st ≠ .free ∧ trigWorld t.words = x.world ∧ trigCounter t = true ∧ ({ t with st := .disarmed }).st ≠ .free ∧ trigWorld [] ≠ x.world) ∧
    ddWorld dd = x.world ∧ ddWorld [] ≠ x.world := by
  and_intros
  all_goals first | exact plain_of (by decide +kernel) | exact ⟨by decide +kernel, by decide +kernel⟩ | decide +kernel

/-- World 0 with a translation tree that maps a page of 2 MiB at VA 0, a request that moves it to 0x800000 and one to itself, and a
motion record. -/
def moving (dst : Nat) (b : W64 := 0) (c : W64 := 0) : Ctx × State :=
  let x := withRegs nv np3 [0x600000, b, c, 5]
  let s : State := worlds.setWorld 0 { worlds.world 0 with ttw := 0x8001 }
  let s := (((s.poke64 0x8000 0x10001).poke64 0x10000 0x18001).poke64 0x18000 0x20001).poke64 0x20000 0x20003F
  (x, atWord nv x (s.writePa 0x600000 ([0, w64 dst, 0, 0].flatMap fun v : W64 => leBytes 8 v.toNat)))
def leaf0 : MotionLeaf := { pte := 0x20000, src := 0x200000, dst := 0x800000, page := 0x200000, len := 0x200000, value := 0x20003F }
/-- The record. -/
def record (st : MotionState) : Motion :=
  { Motion.empty with st, va := 0, spa := 0x200000, dpa := 0x800000, leaves := [leaf0] }

theorem witness_MigrationCommands :
    let x := (moving 0).1
    let s := (moving 0x800000).2
    let block (s : State) : List W64 := wordsOf 4 ((List.range 32).map fun i => s.readByte (0x600000 + i) none)
    s.At nv x ∧ (∀ st, ((s.setMotion 5 (record st)).motion 5).st = st ∧ ((s.setMotion 5 (record st)).motion 5).alone = false) ∧
    (∃ r lf, s.motionRequest (block s) = .inr r ∧ r.leaves = [lf] ∧ lf.value = s.read64 lf.pte) ∧
    (∃ st, (moving 0x200000).2.motionRequest (block (moving 0x200000).2) = .inl st) ∧
    (x.world = 0 ∧ s.dup = [] ∧ x.e.reg 2 = 0 ∧ (moving 0 5).1.e.reg 2 ≠ 0 ∧ (x.e.reg 1).toNat % 32 = 0 ∧ installed 0x600000 32 = true ∧
      s.tierDown 0x600000 = false ∧ s.hotArray = none ∧ s.ecc = [] ∧ s.freeSlot = some 0 ∧ s.motions = [] ∧ (x.e.reg 4).toNat < 256) ∧
    installed 0x600000 96 = true ∧ (0x600000 % 2 ^ 21 = 0 ∧ windowOf 0x600000 = some .t0) ∧ installed 0x600000 9699328 = true ∧
    installed 0x600000 (64 + 32 * 2 ^ 16) = true ∧ ({ s with dead := [(3, true)] }).dead.get false (0x600000 / 2 ^ 21) = true :=
  ⟨⟨by decide +kernel, by decide +kernel⟩, fun st => by cases st <;> decide +kernel,
    ⟨{ record .copying with bitmap := (record .copying).freshBitmap 0 }, leaf0, by decide +kernel⟩, ⟨Status.badDest, by decide +kernel⟩,
    by decide +kernel, by decide +kernel⟩

/-- A request block of words at the page, for a supervisor operation. -/
def asker : Ctx := withRegs nv np3 [pva]
def asked (l : List W64) (s : State := worlds) : State := withWords (atWord nv asker s) 0 (l ++ List.replicate (8 - l.length) 0)
def fQ9 : FmtP := { fP with d := 9, a := 1 }
theorem asker_reg : asker.e.reg fQ9.a.toNat = pva := by decide +kernel
theorem asker_world : asker.world = 0 := by decide +kernel
theorem page_pa : (page .poleth 0).paOf pva.toNat = 7 * 65536 := by decide +kernel

theorem request_of {s : State} {m : List W64}
    (h : (s.cur = some nv ∧ s.ctx nv.place = some asker) ∧
      ((s.world 0).ttw.getLsbD 0 = true ∧ s.tlb.find? (fun e : TlbEntry => e.hit .poleth 0 pva.toNat) = some (page .poleth 0)) ∧
      (s.ecc = [] ∧ s.motions = [] ∧ s.hotArray = none ∧ (s.world 0).track = [] ∧ s.barriers = [] ∧ s.dup = []) ∧
      m = wordsOf 8 (s.loadBytes 0 pva.toNat (7 * 65536) 64)) : Spec.Request s 3 asker fQ9 (page .poleth 0) m where
  thread := ⟨h.1.1, h.1.2⟩
  world := asker_world
  page := by
    rw [asker_reg]
    exact plain_of ⟨⟨by decide, by decide, h.2.1.1, h.2.1.2, by decide +kernel⟩, by decide +kernel, by decide +kernel, h.2.2.1⟩
  block := by rw [asker_reg, page_pa]; exact h.2.2.2

/-- Blocks for PMCMD's operations on worlds 5 and 6, the second without a partition; quotas that fit and do not; counters free,
owned and another world's; a core that two partitions would hold. -/
theorem witness_PartitionCommands :
    let l : List W64 := [6, 0xF00, 0, 9, 0, 0, 0, 0]
    let s := asked l
    let q : State := s.setWorld 5 World.empty
    let u : State := { s with counters := [(4, { value := 1, alloc := true, owner := 5, nwatch := 0 })] }
    Spec.Request s 3 asker fQ9 (page .poleth 0) l ∧ (∀ c, c < 128 → (s.core c).without 5) ∧ (wd l 0).toNat < 64 ∧ (wd l 3).toNat ≤ 192 ∧
    (asker.a.bar = none ∧ asker.e.bar = none) ∧ (s.world 6).part = none ∧ s.secondHolder 6 (wd l 2 ++ wd l 1) = true ∧ (s.world 5).part.isSome = true ∧
    ((State.reset.secondHolder 6 (wd l 2 ++ wd l 1)) = false) ∧
    (quotaKind 0 = some (0, 131072) ∧ 131072 < s.otherQuotas 5 0 + 131072 ∧ s.otherQuotas 5 0 + 131069 ≤ 131072 ∧ s.held = []) ∧
    ((u.counter 4).alloc = true ∧ (u.counter 5).alloc = false ∧ u.ownsCounter 5 4 = true ∧ u.ownsCounter 6 4 = false) ∧
    (q.world 5).part = none := by
  refine ⟨request_of (by decide +kernel), fun c _ => ?_, by decide +kernel⟩
  have h : (asked [6, 0xF00, 0, 9, 0, 0, 0, 0]).core c = .empty := by
    rw [State.core, (by decide +kernel : (asked [6, 0xF00, 0, 9, 0, 0, 0, 0]).cores = [])]; rfl
  show Core.without _ 5
  rw [h]
  exact ⟨fun _ h => (by cases h), fun _ h => by cases h⟩

/-- Blocks for the words and tables of worlds 5, with a partition, and 6, without one; a frame entry of a core off and on. -/
theorem witness_TablesOfWorlds :
    let l : List W64 := [5, 15, 0x10001, 64, 0, 0, 0, 0]
    let s := asked l (worlds.setWorld 0 { World.empty with ttw := 1 })
    let on : Core := { Core.empty with ftctl := 65 }
    Spec.Request s 3 asker fQ9 (page .poleth 0) l ∧ (wd l 0).toNat < 64 ∧ (s.world 5).part.isSome = true ∧ (s.world 6).part = none ∧
    bits (wd l 1) 0 5 ≤ 24 ∧ (wd l 1).toNat < 16 ∧ ((wd l 2).getLsbD 0 = true ∧ bits (wd l 3) 0 40 ≠ 0) ∧
    (256 % 256 = 0 ∧ 10 ≤ 24) ∧ (wd l 3).toNat < 2 ^ 13 ∧ s.jobs.length < 4096 ∧
    (frameBad (s.core 5) 15 0 = false ∧ s.frameRefused 5 15 0 = false ∧ (s.core 5).ftctl.getLsbD 6 = false) ∧
    (on.ftctl.getLsbD 6 = true ∧ 0 < ftNft on.ftctl ∧ frameBad on 0 (w64 (2 ^ 23 + 5 * 2 ^ 17 + 1000)) = false ∧
      (s.setCore 5 on).frameRefused 5 0 (w64 (2 ^ 23 + 5 * 2 ^ 17 + 1000)) = false) ∧
    (let y := withRegs nv np3 [5, 64, 1];
      (atWord nv y worlds).At nv y ∧ y.world = 0 ∧ (y.e.reg 2).extractLsb' 0 6 = 0 ∧ (y.e.reg 2).extractLsb' 52 12 = 0 ∧
      (y.e.reg 3).extractLsb' 0 6 ≠ 0 ∧ (Tbl.get (0 : W64) [(0, 1)] 0).getLsbD 0 = true ∧ ((worlds.world 5).track.get 0 0).getLsbD 0 = false) ∧
    ((s.lanterns.get .empty 5).pending = false ∧ (({ s with lanterns := [(5, { value := 1, count := 1, pending := true })] } : State).lanterns.get Lantern.empty 5).pending = true) := by
  and_intros
  all_goals first | exact request_of (by decide +kernel) | exact atWord_at .. | decide +kernel

/-- Key blocks that name nothing but a world, and ones that do; a world with and without keys; a domain of the world and another's;
operations in progress. -/
theorem witness_KeyManagement :
    let l : List W64 := [5, 0, 0, 0, 0, 0, 0, 0]
    let m : List W64 := [5, 0, 0, 40, 512, 0, 0, 0]
    let keyed : World := { World.empty with memKey := some 1, epochs := 1, wkGens := [(511, 0)] }
    let k : LinkKey := { world := 6, gens := [(0, 0)], nonce := [] }
    Spec.Request (asked l) 3 asker fQ9 (page .poleth 0) l ∧ Spec.Request (asked m) 3 asker fQ9 (page .poleth 0) m ∧
    keyBlockOk 2 l = true ∧ keyBlockOk 5 m = true ∧ keyBlockOk 2 m = false ∧ bits (wd l 0) 6 12 = 0 ∧ bits 69 6 12 ≠ 0 ∧
    ((asked l).world 5).memKey = none ∧ ((asked l).world 5).wkGens = [] ∧ keyed.memKey.isSome = true ∧ nextGen keyed.wkGens ≤ 0xFFFF ∧
    currentGen keyed.wkGens < (wd m 4).toNat ∧ (wd m 3 = 40 ∧ (wd m 4).toNat % 512 = 0) ∧
    ({ asked l with linkKeys := [(0, some k)] }).domainKey 5 0 = none ∧ ((asked l).domainKey 5 0).isSome = true ∧
    (worlds.eventRoom 0 0 = true ∧ worlds.held = [] ∧ worlds.keyOps = [] ∧ worlds.stalled = []) ∧ 2 ^ 30 ≤ ({ worlds with lms := 2 ^ 30 }).lms := by
  refine ⟨request_of (by decide +kernel), request_of (by decide +kernel), by decide +kernel⟩

/-- The streams of a core's task ended, suspended and running; a suspended one whose record stands in a page. -/
theorem witness_TaskExits :
    let left (how : Exit) : Ctx :=
      { core2 with world := 5, recva := pva.toNat, a := { Stream.launch with exit := how }, e := { Stream.launch with exit := how } }
    let s (how : Exit) : State := worlds.setCtx (.core 2) (some (left how))
    let u := (s .ended).setWorld 5 { (s .ended).world 5 with quota := [(23, 1)] }
    (∀ how, how ≠ .running → (s how).ctx (.core 2) = some (left how) ∧
      ((left how).phase = .running ∧ (s how).started (.core 2) = true ∧ (left how).ve = [] ∧ (left how).mcq = [] ∧ (left how).a.out = [] ∧
        (left how).e.out = [] ∧ ((s how).core 2).other = none ∧ (left how).left how = true)) ∧
    Spec.PlainPage (s .suspended) .poleth 5 1 (w64 (left .suspended).recva) 64 (page .poleth 5) ∧
    ((left .running).left .ended = false ∧ (left .running).left .suspended = false ∧ (s .ended).noticeHeld (.core 2) = false ∧
      hdrSucc (left .ended).hdr = false ∧ (s .ended).quota 5 23 = 0) ∧
    (u.quota 5 23 ≠ 0 ∧ u.eventRoom 5 7 = true ∧ (s .ended).held = []) ∧
    ({ u with held := [{ kind := 3, world := 5, cls := 7, oqn := 2, payload := [], from_ := some (.core 2) }] }).noticeHeld (.core 2) = true ∧
    (s .suspended).dead = [] ∧ (left .suspended).recva < 2 ^ 56 :=
  ⟨fun how _ => ⟨State.ctx_setCtx .., by cases how <;> decide +kernel⟩, plain_of (by decide +kernel), by decide +kernel⟩

/-- A task of a core and of a thread with an enforced budget of 2^16 used up and not; the deadlock count on both sides of 2^20; one that
stops, with and without room for its report. -/
theorem witness_TaskFaults :
    let x : Ctx := { core2 with world := 5, wdcnt := 2 ^ 16 }
    let y (b : W64) : Ctx := { x with phase := .stopping, primary := some { b, c := 1, d := 2, e := 3, f := 4 } }
    let s := (worlds.setCtx (.thread 3) (some { np3 with world := 5 })).setCtx (.core 2) (some x)
    let t (b : W64) := worlds.setCtx (.core 2) (some (y b))
    let n : Ctx := { np3 with world := 5, phase := .stopping, e := { np3.e with wait := some .outbound } }
    (∀ b, (t b).ctx (.core 2) = some (y b)) ∧ s.ctx (.core 2) = some x ∧ (s.ctx (.thread 3)).isSome = true ∧
    (x.phase = .running ∧ x.left .ended = false ∧ x.left .suspended = false ∧ x.primary.isNone = true) ∧
    ((s.world 5).wdog.getLsbD 5 = false ∧ ({ World.empty with wdog := 0x20 }).wdog.getLsbD 5 = true ∧
      2 ^ (16 + min (bits x.hdr 19 5) (bits 0x20 0 5)) ≤ x.wdcnt ∧ (s.core 2).deadlock < 2 ^ 20 ∧
      2 ^ 20 ≤ ({ s.core 2 with deadlock := 2 ^ 20 }).deadlock) ∧
    ((t 0x03).stopWaits (.core 2) = false ∧ (t 0x50).stopWaits (.core 2) = false ∧ (t 0x51).stopWaits (.core 2) = false ∧
      (worlds.setCtx (.thread 3) (some n)).stopWaits (.thread 3) = true) ∧
    ((y 3).phase = .stopping ∧ bits 3 0 8 ≠ 0x51 ∧ bits 3 0 8 ≠ 0x50) ∧
    (((t 3).core 2).other.isNone = true ∧ (t 3).eventRoom 0 0 = true ∧ (t 3).held = []) ∧ (s.world 5).part.isSome = true := by
  refine ⟨fun _ => State.ctx_setCtx .., State.ctx_setCtx .., ?_⟩
  and_intros
  all_goals decide +kernel

theorem ok_of {ε α : Type} {e : Except ε α} {p : α → Bool} (h : (match e with | .ok a => p a | .error _ => false) = true) :
    ∃ a, e = .ok a ∧ p a = true := by
  cases e with
  | ok a => exact ⟨a, rfl, h⟩
  | error _ => cases h
theorem error_of {ε α : Type} {e : Except ε α} (h : (match e with | .ok _ => false | .error _ => true) = true) : ∃ f, e = .error f := by
  cases e with
  | ok _ => cases h
  | error f => exact ⟨f, rfl⟩

/-- A control record of world 5 that waits for nothing, and one whose world's page is not held; records that fit a thread and a core,
and that do not. -/
def waitingRec (world : Nat) (control : Bool) : PoolRec :=
  { recva := 0x1000, readWorld := world, world, words := [w64 ((if control then 1 else 0) + world * 4), 0, 0, if control then 0 else core2.partw], ext := [],
    thr := [], sat := 0, ready := some 0, admitted := 0, lastCore := none, refs := [] }
theorem witness_AdmissionAndDispatch :
    let q : Submission := { recva := pva.toNat, readWorld := 5, expect := some 5 }
    let s : State := { withWords worlds 5 [w64 (1 + 5 * 4)] with submits := [q] }
    let full : State := s.setWorld 5 { s.world 5 with quota := [], ovq := some (0, 0), ovCount := 1 }
    let bad : State := { s with submits := [{ q with readWorld := 9 }] }
    let room : State := s.setWorld 5 { s.world 5 with ovq := some (0, 4) }
    let first : State := { room with spilled := [{ recva := 0, readWorld := 5, world := 5, lastCore := none, refs := [], dropped := false }] }
    let spilled (dropped : Bool) : Spilled := { recva := 0x1000, readWorld := 5, world := 5, lastCore := none, refs := [], dropped }
    let o : State := worlds.setWorld 5 { worlds.world 5 with ovq := some (pva.toNat, 4), ovCount := 1 }
    let o0 : State := o.setWorld 5 { o.world 5 with ovHead := 1, ovCount := 0 }
    let idle : State := { worlds with pool := [waitingRec 5 true, waitingRec 5 false] }
    (∃ e, bad.readRecord 9 pva.toNat = .error e) ∧
    (∃ r, s.readRecord 5 pva.toNat = .ok r ∧ decide (refusal r.2.2 q r.1 r.2.1 = none ∧ (r.2.2.newRec q r.1 r.2.1).refs = [] ∧
      r.2.2.resident 5 < r.2.2.quota 5 1 ∧ (r.2.2.spilled.all fun v => v.world != 5) = true) = true) ∧
    (∃ r, first.readRecord 5 pva.toNat = .ok r ∧ decide (refusal r.2.2 q r.1 r.2.1 = none ∧ (r.2.2.spilled.any fun v => v.world == 5) = true ∧
      r.2.2.ovqRoom 5 = true) = true) ∧
    (∃ r, full.readRecord 5 pva.toNat = .ok r ∧ decide (refusal r.2.2 q r.1 r.2.1 = none ∧ r.2.2.quota 5 1 ≤ r.2.2.resident 5 ∧
      r.2.2.ovqRoom 5 = false) = true) ∧
    ((o.world 5).ovq = some (pva.toNat, 4) ∧ (o.world 5).ovCount ≠ 0 ∧ o.resident 5 < o.quota 5 1 ∧ (spilled true).dropped = true) ∧
    (∃ r, o0.readVa 7 5 pva.toNat 256 = .ok r ∧ decide (r.1.length = 256) = true) ∧
    ((idle.core 2).bank0 = none ∧ (idle.core 2).bank1 = none ∧ idle.ctx (.thread 3) = none ∧ worlds.pool = []) ∧
    (idle.eligible 2 (waitingRec 5 false) = true ∧ idle.eligible 2 (waitingRec 5 true) = false ∧ idle.eligibleNp 3 (waitingRec 5 true) = true ∧
      idle.eligibleNp 3 (waitingRec 5 false) = false) ∧ wd (waitingRec 5 true).words 2 = 0 := by
  exact ⟨error_of (by decide +kernel), ok_of (by decide +kernel), ok_of (by decide +kernel), ok_of (by decide +kernel), by decide +kernel,
    ok_of (by decide +kernel), by decide +kernel⟩

/-- A signed word awaited by a core's A stream, and by nothing; a written image with one late response; saved contexts of a thread and
of a core that may come back, and of a world without a partition. -/
def awaited : Outstanding := { id := 77, landing := .reg 9 4 true, operand := 5, kind := 1, pc := 3, rep := 0 }
def savedAs (u world : Nat) (x : Ctx) : Saved := { core := u, world, plc := 0, pa := 0x600000, ctx := some x, copies := [], late := [] }
theorem witness_LateResponsesAndRestores :
    let other : Outstanding := { awaited with id := 78, landing := .none }
    let x : Ctx := { core2 with world := 5, a := { Stream.launch with out := [awaited, other] } }
    let s := worlds.setCtx (.core 2) (some x)
    let back (v : Saved) : State := { worlds with saved := [v] }
    let thread : Ctx := { np3 with world := 5, phase := .preempted }
    let core : Ctx := { core2 with world := 5, phase := .preempted }
    let vt := savedAs 131 5 thread
    let vc := savedAs 2 5 core
    let read (v : Saved) (old : Ctx) : Ctx := (back v).readContext ((back v).imageAt v.pa) old
    s.ctx (.core 2) = some x ∧
    (s.awaiting 77 = some (.core 2, false, .a 2, awaited) ∧ s.awaiting 78 = some (.core 2, false, .a 2, other) ∧ x.primary = none ∧
      awaited.landing = .reg 9 4 true) ∧
    (({ vc with late := [(false, awaited)] }).late = [(false, awaited)] ∧ vc.ctx.isSome = true ∧ worlds.motions = [] ∧ worlds.dead = [] ∧ worlds.enc = [] ∧ worlds.dup = []) ∧
    (back vt).restorable 131 = some vt ∧ (back vc).restorable 2 = some vc ∧ (back (savedAs 131 6 np3)).restorable 131 = none ∧
    (let y := read vt thread; y.primary = none ∧ y.pending = none) ∧ (thread.phase ≠ .halted ∧ core.phase ≠ .halted) ∧
    (let y := read vc core; y.phase = .preempted ∧ y.primary = none ∧ y.pending = none ∧ y.statAct = .empty ∧ y.statShad = .empty) ∧
    ((back vc).core 2).bank0 = none ∧ ((back vc).core 2).bank1 = none := by
  refine ⟨State.ctx_setCtx .., ?_⟩
  and_intros
  all_goals decide +kernel

/-- A core with two frames of 10 ms, of worlds 5 and 0, in sealed and in shared mode, at the end of its first; one with the frames of one
world; frames off; a start that is due and one that is not. -/
theorem witness_FrameEdges :
    let e (w : Nat) : W64 := w64 (2 ^ 23 + w * 2 ^ 17 + 1000)
    let k (sl : Nat) (w : Nat) : Core :=
      { Core.empty with ftctl := w64 (64 + sl * 32 + 2), ft := [(0, e 5), (1, e w)], nextEdge := 10000000, startAt := some 10000000 }
    let s (k : Core) (now : Nat) : State := { worlds.setCore 2 k with now }
    let run : Ctx := { core2 with world := 5 }
    let back : Ctx := { core2 with phase := .preempted }
    let u : State := { s ((k 0 0).setCtx (some run)) 10000000 with saved := [{ core := 2, world := 0, plc := 0, pa := 0x600000, ctx := some back, copies := [], late := [] }] }
    let edge (k : Core) (now i : Nat) : Prop := k.ftctl.getLsbD 6 = true ∧ k.nextEdge ≤ now ∧ k.ftNew = [] ∧ k.ftepoch.toNat ≤ k.nextEdge ∧
      i < bits k.ftctl 0 5 ∧ bits (k.ft.get 0 i) 0 17 * 10000 ≤ (k.nextEdge - k.ftepoch.toNat) % 20000000
    edge (k 1 0) 10000000 1 ∧ edge (k 0 0) 10000000 1 ∧ ((s (k 1 0) 10000000).core 2 = k 1 0 ∧ (s (k 1 0) 9999999).now < (k 1 0).nextEdge) ∧
    ({ k 1 0 with cur := 1 }).frameWorld ≠ (k 1 0).frameWorld ∧ ({ k 1 5 with cur := 1 }).frameWorld = (k 1 5).frameWorld ∧
    ({ k 0 0 with cur := 1 }).frameWorld = some 0 ∧ (k 0 0).frameWorld ≠ some 0 ∧ ((k 1 0).ftctl.getLsbD 5 = true ∧ (k 0 0).ftctl.getLsbD 5 = false) ∧
    (((s (k 1 0) 10000000).beforeEdge 2).core 2 = k 1 0 ∧ worlds.pool = [] ∧ worlds.saved = [] ∧ (k 1 0).copies = [] ∧
      (k 1 0).bank0 = none ∧ (k 1 0).bank1 = none) ∧
    (((k 0 0).setCtx (some run)).ctx.isSome = true ∧ run.world = 5 ∧ run.phase = .running ∧ (u.beforeEdge 2).awaits 2 0 = true) ∧
    Core.empty.ftctl.getLsbD 6 = false ∧ Core.empty.startAt = none ∧ (k 1 0).startAt = some 10000000 := by decide +kernel

/-- World 5's page, a JobID bound to it, and a descriptor over 4 KiB of the page that everything may use, with the count mode cm. -/
def landing (cm : Nat) : List W64 := [w64 (2 + cm * 4 + 5 * 2 ^ 4 + 4 * 2 ^ 17 + 15 * 2 ^ 35), pva, 4096, 0x1234]
def bound (cm : Nat) (t : List (Nat × Trigger) := []) : State :=
  { worlds with
    jobs := [(9, some 5)], ddesc := [(7, landing cm)], triggers := t,
    counters := [(4, { value := 5, alloc := true, owner := 5, nwatch := 0 })] }
/-- A tagged entry of world 5 for JobID 9 that needs two hits. -/
def hitEntry : Trigger :=
  { st := .armed, missed := 0, fires := 0, hits := 0, words := [w64 (4 * 2 + 5 * 2 ^ 6), w64 (9), 0x77, BitVec.allOnes 64, 2, 0, 0, 7], arm := 6 }
/-- A header of a whole message from module 3, in context 12. -/
def header (job : Nat) : Transport :=
  { msg := 1, job, src := 3, pdc := 12, seq := 0, closes := false, mode := .rud, unsupported := false, crcOk := true }
def hitSend (job : Nat) : TaggedSend := { toTransport := header job, off := 0, len := 2, bits := 0x77, bytes := [1, 2] }
/-- A write of its bytes under a memory key. -/
def keyed (job : Nat) (key : W64) : DataPacket := { toTransport := header job, key := some (key, 0), off := 0, len := 2, bytes := [1, 2] }

theorem Tbl_get_none {α : Type} (d : α) (t : Tbl α) (i : Nat) (h : ∀ e ∈ t, e.1 ≠ i) : Tbl.get d t i = d := by
  induction t with
  | nil => rfl
  | cons e t ih =>
    obtain ⟨k, v⟩ := e
    simp only [Tbl.get]
    rw [if_neg (h _ (List.mem_cons_self ..)).symm, ih fun e he => h e (List.mem_cons_of_mem _ he)]
    split <;> rfl

/-- A module with no context left for one more, and with no place for one more message. -/
def arriving : InMsg :=
  { msg := 0, job := 9, src := 3, ddi := none, desc := none, world := 5, len := 0, got := 0, failed := false, barrier := false,
    overflow := none, bits := 0 }
def crowded : State :=
  { bound 1 with pdcs := List.replicate 65536 (70000, some 0), inbound := List.replicate 131072 arriving }
theorem crowded_full : ¬Spec.pdcRoom (header 9) crowded ∧ 131072 ≤ crowded.inbound.countP (fun m => !m.failed) := by
  refine ⟨?_, by rw [show crowded.inbound = List.replicate 131072 arriving from rfl, List.countP_replicate]; exact Nat.le_refl _⟩
  have h : crowded.pdcs.get none 12 = none := Tbl_get_none _ _ _ fun e he => by
    rw [List.eq_of_mem_replicate he]; decide
  rintro (hs | hl)
  · rw [show (header 9).pdc = 12 from rfl, h] at hs; cases hs
  · exact Nat.lt_irrefl _ (Nat.lt_of_le_of_lt (Nat.le_of_eq List.length_replicate.symm) hl)

theorem page_of {s : State} {n : Nat}
    (h : ((s.world 5).ttw.getLsbD 0 = true ∧ s.tlb.find? (fun e : TlbEntry => e.hit .poleth 5 pva.toNat) = some (page .poleth 5)) ∧
      (s.ecc = [] ∧ s.motions = [] ∧ s.hotArray = none ∧ (s.world 5).track = [] ∧ s.barriers = [] ∧ s.dup = []) ∧ n ≤ 4096) :
    Spec.PlainPage s .poleth 5 1 (w64 pva.toNat) n (page .poleth 5) := by
  refine plain_of ⟨⟨by decide, by decide, h.1.1, h.1.2, ?_, by decide +kernel⟩, by decide +kernel, fun i hi => .inl ⟨rfl, .inl ?_⟩, h.2.1⟩
  · exact Nat.le_trans (Nat.add_le_add_left h.2.2 _) (by decide)
  · have hp : (page .poleth 5).paOf pva.toNat = 458752 := by decide +kernel
    have : (page .poleth 5).paOf (w64 pva.toNat).toNat + i < 2 ^ 39 := by
      show (page .poleth 5).paOf pva.toNat + i < 2 ^ 39
      omega
    unfold windowOf
    exact if_pos this

/-- A packet that is unsupported, that is damaged, of an unbound JobID, with a key that matches and one that does not, past the region and
inside it; a tagged send that an entry takes, its second hit, before and after its turn under ROD, and one that none takes, with and
without an overflow region. -/
theorem witness_MessageArrivals :
    let d := landing 1
    let p := keyed 9 0x12340007
    let s := bound 1 [(6, hitEntry)]
    let r : State := (bound 1).setWorld 5 { (bound 1).world 5 with rxovf := some (pva.toNat, 4096, 0, 33) }
    let rod : TaggedSend := { hitSend 9 with mode := .rod, seq := 4 }
    Spec.PlainPage s .poleth 5 1 (w64 pva.toNat) p.len (page .poleth 5) ∧ Spec.PlainPage r .poleth 5 1 (w64 pva.toNat) 2 (page .poleth 5) ∧
    Spec.pdcRoom p.toTransport s ∧ ¬Spec.pdcRoom p.toTransport crowded ∧
    (s.inbound = [] ∧ ddDk d = 2 ∧ ddWorld d = 5 ∧ d ≠ [] ∧ (wd d 1).toNat < 2 ^ 56 ∧ ddCm d = 1 ∧ ddCm (landing 2) = 2 ∧ ddCidx d = 4) ∧
    (p.unsupported = false ∧ p.crcOk = true ∧ p.bytes.length ≤ 4096 ∧ p.len ≤ p.off + p.bytes.length ∧ p.off = 0 ∧ p.bytes.length = p.len ∧
      s.jobWorld 9 = some 5 ∧ s.jobWorld 8 = none ∧ crowded.jobWorld 9 = some 5) ∧
    (p.key = some (0x12340007, 0) ∧ s.ddesc.get [] (bits 0x12340007 0 16) = d ∧ ddRmaw d = true ∧ bits 0x12340007 16 48 = ddKey d ∧
      bits 7 16 48 ≠ ddKey d ∧ bits 7 0 16 = 7 ∧ ddRmaw [2, 0, 0, 0] = false ∧ pva.toNat + 0 < 2 ^ 56 ∧ 0 + p.len ≤ ddLen d ∧ ddLen [] < 0 + p.len) ∧
    ((hitSend 9).bytes.length = (hitSend 9).len ∧ s.triggers.find? (fun p => p.2.takes 5 (hitSend 9)) = some (6, hitEntry) ∧
      s.trigger 6 = hitEntry ∧ bits (wd hitEntry.words 7) 0 16 = 7 ∧ ddTsd d = true ∧ hitEntry.hits + 1 < bits (wd hitEntry.words 4) 0 20) ∧
    (bits (wd hitEntry.words 4) 0 20 ≤ ({ hitEntry with hits := 1 }).hits + 1 ∧ hitEntry.st = .armed ∧ trigPeriodic hitEntry = false ∧
      trigAct hitEntry.words ≠ 0) ∧
    (rod.mode = .rod ∧ (hitSend 9).mode ≠ .rod ∧ (s.pdcs.get none rod.pdc).getD 0 < rod.seq ∧
      (({ s with pdcs := [(12, some 4)] } : State).pdcs.get none rod.pdc).getD 0 = rod.seq ∧
      rod.seq < (({ s with pdcs := [(12, some 5)] } : State).pdcs.get none rod.pdc).getD 0) ∧
    ((r.triggers.all fun p => !p.2.takes 5 (hitSend 9)) = true ∧ ((bound 1).world 5).rxovf = none ∧
      (r.world 5).rxovf = some (pva.toNat, 4096, 0, 33) ∧ r.eventRoom 5 0 = true ∧ r.events = []) :=
  ⟨page_of (by decide +kernel), page_of (by decide +kernel), .inr (by decide +kernel), crowded_full.1, by decide +kernel, by decide +kernel,
    by decide +kernel, by decide +kernel⟩

/-- A key that names the descriptor and one that does not, an unbound JobID, and the page for 4,096 bytes and with AT; a request of each
kind, of a module with and without room. -/
theorem witness_RemoteAccesses :
    let s := bound 2
    let d := s.ddesc.get [] 7
    let key : W64 := 0x12340007
    let q (kind : RmaKind) : RmaRequest := { toTransport := header 9, key, off := 0, kind }
    Spec.PlainPage s .poleth 5 1 (w64 pva.toNat) 4096 (page .poleth 5) ∧ Spec.AtomicPage s .poleth 5 1 (w64 pva.toNat) 8 (page .poleth 5) ∧
    Spec.pdcRoom (header 9) s ∧ ¬Spec.pdcRoom (header 9) crowded ∧ 131072 ≤ crowded.inbound.countP (fun m => !m.failed) ∧
    (s.jobWorld 8 = none ∧ s.jobWorld 9 = some 5 ∧ (d ≠ [] ∧ bits key 0 16 = 7 ∧ bits key 16 48 = ddKey d ∧ ddWorld d = 5) ∧
      bits 0 16 48 ≠ ddKey d ∧ (ddRmaw d = true ∧ ddRmar d = true ∧ ddRmaa d = true ∧ ddDk d = 2) ∧ (wd d 1).toNat + 0 = pva.toNat) ∧
    ((q (.read 4096)).unsupported = false ∧ (q (.write [1])).crcOk = true ∧ s.inbound.countP (fun m => !m.failed) < 131072 ∧
      s.secureDomain 5 = none) ∧
    (0 + 4096 ≤ ddLen d ∧ ddLen d < 1 + 4096) ∧ (wd d 1).toNat < 2 ^ 54 ∧ (pva.toNat % 8 = 0 ∧ (pva.toNat + 4) % 8 ≠ 0) :=
  ⟨page_of (by decide +kernel), ⟨page_of (by decide +kernel), by decide +kernel⟩, .inr (by decide +kernel), crowded_full.1, crowded_full.2,
    by decide +kernel, by decide +kernel, by decide +kernel⟩

/-- An action of each kind over what stands at the page: a record, a copy block, a send descriptor, an event with and without room; an
outbound message that has ended. -/
theorem witness_TriggerActions :
    let a (act : Nat) : Fired := { entry := 6, arm := 6, words := [w64 (act * 2 + 5 * 2 ^ 6), 9, 0, 0, 1, 0, pva, 0], value := 1 }
    let t (act : Nat) : Trigger := { st := .firing, missed := 0, fires := 1, hits := 1, words := (a act).words, arm := 6 }
    let s (act : Nat) (l : List W64) : State := { withWords worlds 5 l with fired := [a act], triggers := [(6, t act)] }
    let q : Submission := { recva := pva.toNat, readWorld := 5, expect := some 5 }
    let full : State := (s 1 [w64 (1 + 5 * 4)]).setWorld 5 { worlds.world 5 with quota := [] }
    let m : OutMsg := { id := 3, world := 5, desc := [w64 (2 * 2 ^ 36), 0, 0, pva, 64, w64 (2 ^ 18)] }
    Spec.PlainPage { worlds with outbound := [m] } .poleth 5 1 (w64 pva.toNat) 64 (page .poleth 5) ∧
    (∃ r, (s 2 []).readVa 7 5 pva.toNat 128 = .ok r ∧ decide (r.2.trigger 6 = t 2) = true) ∧
    (∃ r, (s 3 [w64 (5 * 2 ^ 39 + 2 * 2 ^ 36)]).readVa 7 5 pva.toNat 64 = .ok r ∧ decide (r.2.trigger 6 = t 3 ∧ r.2.linkKeys = [] ∧
      r.2.outbound.length < 131072 ∧ sdOk r.2 5 (wordsOf 8 r.1) = true ∧ 2 ≤ sdOpk (wordsOf 8 r.1)) = true) ∧
    (∀ act ∈ [1, 2, 3, 4], (t act).arm = (a act).arm ∧ trigPeriodic (t act) = false ∧ trigCounter (t act) = false ∧
      (s act []).firedFor 6 act = some (a act) ∧ worlds.firedFor 6 act = none ∧ trigWorld (a act).words = 5 ∧ trigOpnd (a act).words = pva.toNat) ∧
    (((s 1 [w64 (1 + 5 * 4)]).submit q (s 1 []).submits).1 matches .admitted _ ∧
      ((s 1 [w64 (1 + 5 * 4)]).submit q (s 1 []).submits).2.trigger 6 = t 1 ∧ (full.submit q full.submits).1 = .full) ∧
    ((s 2 []).core 0).copies.countP (fun p => p.task.isNone) < 64 ∧ ((s 4 []).eventRoom 5 0 = true ∧ full.eventRoom 5 0 = false) ∧
    (sdOpk m.desc = 2 ∧ sdLen m.desc = 64 ∧ sdCcm m.desc = 1 ∧ (page .poleth 5).log2 ≤ 32) :=
  ⟨page_of (by decide +kernel), ok_of (by decide +kernel), ok_of (by decide +kernel), by decide +kernel⟩

/-- A bound register, a peer's write to one without PEER, a full class, a pending lantern, and timers of each kind. -/
theorem witness_NoticesAndTimers :
    let b : W64 := w64 (2 ^ 20 + 5 * 2)
    let s : State := { worlds with nbind := [(20, b), (21, b + 1)], lanterns := [(21, { value := 3, count := 65535, pending := true })], now := 90 }
    let t : Timer := { armed := true, deadline := 80, period := 50, cls := 0, oqn := 7, due := none }
    ((s.nbind.get 0 20).getLsbD 20 = true ∧ (s.nbind.get 0 20).getLsbD 0 = false ∧ (s.nbind.get 0 21).getLsbD 0 = true ∧ s.nbind.get 0 22 = 0) ∧
    (s.lanterns.get .empty 20).pending = false ∧ (s.lanterns.get .empty 21).pending = true ∧ s.eventRoom 5 0 = true ∧ s.eventRoom 5 1 = false ∧
    (s.gate = .running ∧ ({ s with gate := .gated }).gate ≠ .running) ∧ ({ t with due := some 30 }).due = some 30 ∧ s.cores = [] ∧
    (t.due = none ∧ t.armed = true ∧ t.deadline ≤ s.now ∧ s.now < t.deadline + t.period ∧ ({ t with period := 0 }).period = 0 ∧
      Timer.empty.armed = false ∧ ¬({ t with deadline := 91 }).deadline ≤ s.now) ∧ s.timers = [] ∧
    (worlds.setCtx (.core 2) (some core2)).ctx (Agent.e 2).place = some core2 := by decide +kernel

/-- A record in each state with its leaf as it left it and rewritten; a link down and up, a motion towards it where the port has memory; errors of a granule, a
dead block; a page with one write held. -/
theorem witness_MotionAndLinks :
    let s (st : MotionState) (v : W64 := 0x20003F) : State := (worlds.poke64 0x20000 v).setMotion 3 (record st)
    let tier2 : State := worlds.setMotion 3 { record .copying with dpa := 2 ^ 44, leaves := [] }
    let d : DupPage := { page := 3, size := 16, holders := [1], held := [{ ag := some ev, bytes := [(196608, 1)], tag := none }] }
    ((∀ j, (tier2.motion j).st ≠ .free → j = 3) ∧ tier2.motions.wf .empty = true ∧ (tier2.motion 3).st = .copying ∧
      (0 < Config.t2Bytes 0 → behind 0 (tier2.motion 3).dpa = true)) ∧
    (∀ st ∈ [MotionState.free, .copying, .draining, .committing, .aborting], ((s st).motion 3).st = st ∧ ((s st).motion 3).leaves = [leaf0] ∧
      ((s st).motion 3).alone = false) ∧ sansAD ((s .draining).read64 0x20000) = sansAD leaf0.value ∧
    sansAD ((s .draining 0x30003F).read64 0x20000) ≠ sansAD leaf0.value ∧ leaf0.pte % 8 = 0 ∧
    (∀ r ∈ (s .aborting).motions, ∀ j, j < 8 → r.2.place (leaf0.pte + j) = none) ∧
    (((s .copying).motion 3).nextCrumb = some 0 ∧ ((s .copying).motion 3).crumb 0 0 = some (0x200000, 0x800000) ∧
      ((s .copying).motion 3).inj ≠ some (0, 0) ∧ (s .copying).linkDown = [] ∧ (s .copying).ecc = [] ∧ (s .copying).dead = [] ∧
      (s .copying).mem.wf 0 = true ∧ (s .copying).enc.wf none = true) ∧
    (worlds.eventRoom 0 0 = true ∧ worlds.held = [] ∧ ({ record .aborting with stat := 4 }).stat = 4) ∧
    (({ worlds with linkDown := [(0, true)] }).linkDown.get false 0 = true ∧ worlds.linkDown.get false 1 = false ∧ worlds.motions = []) ∧
    (let r : State := { worlds with errRing := some (0x100000, 6) }; r.read64 0x100000 = 0 ∧ r.read64 (0x100000 + 8) = 0) ∧
    (let e : State := { worlds with ecc := [(9, 1), (10, 2)], dead := [(1, true)] };
      e.ecc.get 0 9 = 1 ∧ e.ecc.get 0 10 = 2 ∧ e.ecc.get 0 11 = 0 ∧ e.dead.get false (9 * 64 / 2 ^ 21) = false ∧ e.dead.get false (2 ^ 15 * 64 / 2 ^ 21) = true) ∧
    (∀ d ∈ worlds.dup, d.page ≠ 3) ∧ d.held = [{ ag := some ev, bytes := [(196608, 1)], tag := none }] := by
  refine ⟨⟨?_, by decide +kernel, by decide +kernel, fun h => ?_⟩, by decide +kernel⟩
  rotate_left
  · have hd : ((worlds.setMotion 3 { record .copying with dpa := 2 ^ 44, leaves := [] }).motion 3).dpa = 2 ^ 44 := by decide +kernel
    have hw : windowOf (2 ^ 44) = some (.t2 0) := by
      unfold windowOf
      rw [if_neg (by decide), if_neg (by decide), if_neg (by decide), if_neg (by decide), if_pos (by decide), if_pos (by simpa using h)]
    show behind 0 ((worlds.setMotion 3 { record .copying with dpa := 2 ^ 44, leaves := [] }).motion 3).dpa = true
    rw [hd, behind, hw]
    rfl
  intro j hj
  refine Classical.byContradiction fun h => hj ?_
  simp only [State.motion, State.setMotion]
  rw [Tbl.get_set_ne _ _ _ h]
  rfl

theorem ofBytes_leBytes (x : W64) : w64 (ofBytes (leBytes 8 x.toNat)) = x := by
  apply BitVec.eq_of_toNat_eq
  have h := x.isLt
  simp [leBytes, ofBytes, byteOf, List.range, List.range.loop, w64, Nat.shiftRight_eq_div_pow]
  omega

/-- An image of a task of world 5 and core 2, with its key check value, at a physical address. -/
def imageAt (pa : Nat) : Tbl Byte :=
  [(pa, 1), (pa + 2, 5), (pa + 9, 0x10), (pa + 10, 5)] ++
    ((List.range 8).map fun i => (pa + 0x18 + i, byteOf core2.partw.toNat i)) ++
    (List.range 8).map fun i => (pa + 0x30 + i, byteOf (keyCheck 5 0).toNat i)
def withImage (pa : Nat) (s : State) : State := { s with mem := s.mem ++ imageAt pa }

theorem imageOk_of {s : State} {m : ImageBytes} (h : rdWord m 0x030 = s.mkcv (imgWorld m))
    (h1 : (bits (rdWord m 0) 0 8 == 1 && reservedZero m) = true) (h2 : s.holdsCore (imgWorld m) 2 = true)
    (h3 : (partwOk (rdWord m 0x018) && bits (rdWord m 0x018) 40 24 == 0) = true)
    (h4 : (decide (bits (rdWord m 0x500) 0 17 ≤ 87380) && decide (bits (rdWord m 0x508) 0 17 ≤ 87380) &&
      (enginePcs m).all (fun pc => decide (pc ≤ 87380)) && decide (bits (rdWord m 0x6018) 16 5 ≤ 16)) = true)
    (h5 : ((List.range 16).all (queueImageOk m)) = true) (h6 : (readFault m 0x040).isNone = true)
    (h7 : (!(rdWord m 0x500).getLsbD 39 && !(rdWord m 0x508).getLsbD 39) = true) : s.imageOk m 2 = true := by
  rw [State.imageOk, h1, if_pos (by decide), h2, if_pos (by decide), h3, h, h5, h6]
  simp only [Bool.and_eq_true] at h4 h7 ⊢
  simp only [h4, h7, beq_self_eq_true, and_self]

/-- The states below, as the block's operation sees them. -/
def block2 : List W64 := [2, 0, 0x600000, 5, 0, 0, 0, 0]
def unit2 (x : Option Ctx) (a : State := worlds) : State := asked block2 (a.setCtx (.core 2) x)
def acting (s : State) : State := s.putStream nv asker (asker.e.advance.setReg 9 0)
def slot2 : State := { worlds with cores := [(2, { Core.empty with shadow := [(5, (4096, 2 ^ 20))] })] }
def task5 (phase : Phase) : Ctx := { core2 with world := 5, phase }
def toLoad : State := acting (withImage 0x600000 (unit2 none))
/-- The saved image of the halted context, and the state as DRESUME sees it. -/
def haltedSave : Saved := { core := 2, world := 5, plc := 1, pa := 0xF000000081000, ctx := none, copies := [], late := [] }
def halted2 (a : State := slot2) : State := { unit2 (some (task5 .halted)) a with saved := [haltedSave] }
def toResume : State := acting (withImage 0xF000000081000 halted2)

theorem Tbl_get_append (d : Byte) (t u : Tbl Byte) (i : Nat) (h : ∀ e ∈ t, e.1 < i) : Tbl.get d (t ++ u) i = Tbl.get d u i := by
  induction t with
  | nil => rfl
  | cons e t ih =>
    have := h e (List.mem_cons_self ..)
    obtain ⟨k, v⟩ := e
    simp only [List.cons_append, Tbl.get]
    rw [if_neg (by omega), if_neg (by omega)]
    exact ih fun e he => h e (List.mem_cons_of_mem _ he)

/-- Bytes of an image that nothing has written. -/
theorem image_zero {s : State} {pa o n : Nat} (hd : s.motions = [] ∧ s.dead = [] ∧ (∀ e ∈ s.enc, e.1 < pa / 64))
    (h : ∀ e ∈ s.mem, e.1 < pa + o ∨ pa + o + n ≤ e.1) : zeroBytes (s.imageAt pa) o n = true := by
  refine List.all_eq_true.mpr fun i hi => ?_
  have hn : s.enc.get none ((pa + (o + i)) / 64) = none := Tbl_get_none _ _ _ fun e he => by have := hd.2.2 e he; omega
  have hz : s.mem.get 0 (pa + (o + i)) = 0 :=
    Tbl_get_none _ _ _ fun e he => by have := h e he; have := List.mem_range.mp hi; omega
  simp [State.imageAt, State.readByte, State.sequenced, hd.1, hd.2.1, hn]
  exact hz

theorem image_mkcv {s : State} {pa : Nat} {t : Tbl Byte} (hm : s.mem = t ++ imageAt pa) (hd : s.motions = [] ∧ s.dead = [] ∧ s.enc.get none (pa / 64) = none)
    (hp : pa % 64 = 0) (ht : ∀ e ∈ t, e.1 < pa) (hw : imgWorld (s.imageAt pa) = 5) (hk : (s.world 5).keyNow = 0) :
    rdWord (s.imageAt pa) 0x030 = s.mkcv (imgWorld (s.imageAt pa)) := by
  have hb (i : Nat) (hi : i < 8) : s.imageAt pa (0x30 + i) = byteOf (keyCheck 5 0).toNat i := by
    have hr : s.imageAt pa (0x30 + i) = s.mem.get 0 (pa + (0x30 + i)) := by
      have hq : (pa + (0x30 + i)) / 64 = pa / 64 := by omega
      simp [State.imageAt, State.readByte, State.sequenced, hd, hq]
    rw [hr, hm, Tbl_get_append _ _ _ _ fun e he => by have := ht e he; omega]
    have : i = 0 ∨ i = 1 ∨ i = 2 ∨ i = 3 ∨ i = 4 ∨ i = 5 ∨ i = 6 ∨ i = 7 := by omega
    rcases this with rfl | rfl | rfl | rfl | rfl | rfl | rfl | rfl <;>
      (simp [imageAt, Tbl.get, List.range, List.range.loop]; repeat rw [if_neg (by omega)])
  have : rdBytes (s.imageAt pa) 0x030 8 = leBytes 8 (keyCheck 5 0).toNat :=
    List.map_congr_left fun i hi => hb i (List.mem_range.mp hi)
  rw [rdWord, this, ofBytes_leBytes, hw, State.mkcv, hk]

theorem acting_mem (pa : Nat) (s : State) : (acting (withImage pa s)).mem = s.mem ++ imageAt pa := rfl

/-- Words of an image that nothing has written. -/
theorem image_blank {s : State} {pa o : Nat} (hd : s.motions = [] ∧ s.dead = [] ∧ (∀ e ∈ s.enc, e.1 < pa / 64))
    (h : ∀ e ∈ s.mem, e.1 < pa + o) : rdWord (s.imageAt pa) o = 0 := by
  have hz := image_zero (n := 8) hd fun e he => .inl (h e he)
  have : rdBytes (s.imageAt pa) o 8 = List.replicate 8 0 := by
    refine List.eq_replicate_iff.mpr ⟨by simp [rdBytes], fun b hb => ?_⟩
    obtain ⟨i, hi, rfl⟩ := List.mem_map.mp hb
    exact eq_of_beq (List.all_eq_true.mp hz i hi)
  rw [rdWord, this]
  rfl

theorem image_reserved {s : State} {pa : Nat} (hd : s.motions = [] ∧ s.dead = [] ∧ (∀ e ∈ s.enc, e.1 < pa / 64))
    (h : ∀ e ∈ s.mem, e.1 < pa + 0x38)
    (hw : (let m := s.imageAt pa; bits (rdWord m 0) 0 8 == 1 && clearFrom m 0 42 && bits (rdWord m 0) 8 8 == 0 &&
      bits (rdWord m 0x020) 28 12 == 0) = true) :
    (bits (rdWord (s.imageAt pa) 0) 0 8 == 1 && reservedZero (s.imageAt pa)) = true := by
  have hz (o n : Nat) (ho : 0x38 ≤ o) : zeroBytes (s.imageAt pa) o n = true :=
    image_zero hd fun e he => .inl (by have := h e he; omega)
  have hr (o : Nat) (ho : 0x38 ≤ o) : rdWord (s.imageAt pa) o = 0 := image_blank hd fun e he => by have := h e he; omega
  have hb (lo n : Nat) : bits 0 lo n = 0 := by simp [bits]
  have hc (o lo : Nat) (ho : 0x38 ≤ o) : clearFrom (s.imageAt pa) o lo = true := by rw [clearFrom, hr o ho, hb]; rfl
  have hm (o : Nat) (mask : W64) (ho : 0x38 ≤ o) : within (s.imageAt pa) o mask = true := by simp [within, hr o ho]
  have hs : swaitWord 0 = 0 := by decide
  simp only [Bool.and_eq_true] at hw ⊢
  simp (disch := omega) only [reservedZero, headReserved, progressReserved, hz, hr, hc, hm, hb, hw, hs, Bool.and_eq_true, List.all_eq_true,
    beq_self_eq_true, and_self, implies_true]

theorem toLoad_ok : toLoad.imageOk (toLoad.imageAt 0x600000) 2 = true := by
  have base : toLoad.motions = [] ∧ toLoad.dead = [] ∧ toLoad.enc.get none (0x600000 / 64) = none := by decide +kernel
  apply imageOk_of (image_mkcv (acting_mem _ _) base (by decide) (by decide +kernel) (by decide +kernel) (by decide +kernel))
    (image_reserved (by decide +kernel) (by decide +kernel) (by decide +kernel))
  all_goals decide +kernel

theorem toResume_ok : toResume.imageOk (toResume.imageAt 0xF000000081000) 2 = true := by
  have base : toResume.motions = [] ∧ toResume.dead = [] ∧ toResume.enc.get none (0xF000000081000 / 64) = none := by decide +kernel
  apply imageOk_of (image_mkcv (acting_mem _ _) base (by decide) (by decide +kernel) (by decide +kernel) (by decide +kernel))
    (image_reserved (by decide +kernel) (by decide +kernel) (by decide +kernel))
  all_goals decide +kernel

/-- Contexts of core 2: none, held, running, halted with its image in its shadow slot and without; an image to load; a world stopped
and not; a core with both banks taken. -/
theorem witness_ContextCommands :
    let held := unit2 (some (task5 (.held 4)))
    let run := unit2 (some (task5 .running))
    let full : State := { unit2 none with cores := [(2, { Core.empty with bank0 := some core2, bank1 := some core2 })] }
    Spec.Request (unit2 none) 3 asker fQ9 (page .poleth 0) block2 ∧ Spec.Request held 3 asker fQ9 (page .poleth 0) block2 ∧
    Spec.Request (withImage 0x600000 (unit2 none)) 3 asker fQ9 (page .poleth 0) block2 ∧ toLoad.imageOk (toLoad.imageAt 0x600000) 2 = true ∧
    Spec.Request (withImage 0xF000000081000 halted2) 3 asker fQ9 (page .poleth 0) block2 ∧
    toResume.imageOk (toResume.imageAt 0xF000000081000) 2 = true ∧ (toLoad.bankFree 2 = true ∧ rdWord (toLoad.imageAt 0x600000) 0x008 ≠ 0 ∧
      installed 0x600000 (imageLen (toLoad.imageAt 0x600000)) = true ∧ toLoad.lateAt 2 = false) ∧
    ((wd block2 0).toNat < 320 ∧ (wd block2 0).toNat ≠ 128 + 3 ∧ (wd block2 2).toNat % 4096 = 0 ∧
      ({ fQ9 with imm := 0x14 }).imm.extractLsb' 0 8 = 0x14 ∧ wd block2 1 = 0) ∧
    ((acting (unit2 none)).lateAt 2 = false ∧ (acting (unit2 none)).heldAt 2 = none ∧ (acting (unit2 none)).haltedAt 2 = none) ∧
    (let s := acting held;
      s.lateAt 2 = false ∧ (s.core 2).ctx = some (task5 (.held 4)) ∧ (s.core 2).other = none ∧ s.reportHeld 2 = false ∧
      (task5 (.held 4)).pending = none ∧ (task5 (.held 4)).primary = none ∧ (task5 (.held 4)).statAct = .empty ∧
      (task5 (.held 4)).statShad = .empty ∧
      installed 0x600000 (s.imageOf 2 5 (some (task5 (.held 4))) [] false true).len = true) ∧
    ((acting (unit2 none)).bankFree 2 = true ∧ installed 0x600000 0x40000 = true ∧
      (acting (unit2 none)).imageOk ((acting (unit2 none)).imageAt 0x600000) 2 = false ∧ full.bankFree 2 = false) ∧
    (((unit2 none).world 5).part.isSome = true ∧ ((unit2 none).world 6).part = none ∧ (unit2 none).ctx (placeOf 2) = none ∧
      (acting (unit2 none)).finishing 5 (some 3) = false) ∧
    (run.ctx (placeOf 2) = some (task5 .running) ∧ run.debugOn 5 = true ∧ (task5 .running).finishing = false) ∧
    (toResume.ctx (placeOf 2) = some (task5 .halted) ∧ toResume.haltedImage 2 5 = some haltedSave ∧
      (acting halted2).haltedImage 2 5 = some haltedSave ∧
      (acting halted2).imageOk ((acting halted2).imageAt 0xF000000081000) 2 = false) ∧
    (acting (unit2 (some (task5 .halted)))).haltedImage 2 5 = none := by
  refine ⟨request_of (by decide +kernel), request_of (by decide +kernel), request_of (by decide +kernel), toLoad_ok,
    request_of (by decide +kernel), toResume_ok, ?_⟩
  and_intros
  all_goals decide +kernel

/-- States that a reset may find, and the host's writes before and in recovery. -/
theorem witness_Resets : (worlds.mem.wf 0 = true ∧ worlds.dead = []) ∧ tiered 0 = true ∧ (2 : BitVec 2) ≠ 3 ∧ (4 : BitVec 3).toNat < 5 ∧
    105 ≤ (105 : BitVec 8).toNat ∧ ¬105 ≤ (104 : BitVec 8).toNat ∧ 0x3FFFFFE + [(1 : Byte), 2].length ≤ 2 ^ 26 ∧ worlds.boot ≠ .recovery ∧
    ({ worlds with boot := .recovery }).boot = .recovery := by decide +kernel

theorem some_of {α : Type} {o : Option α} {p : α → Prop} [DecidablePred p] (h : (o.any fun a => decide (p a)) = true) : ∃ a, o = some a ∧ p a := by
  cases o with
  | none => cases h
  | some a => exact ⟨a, rfl, of_decide_eq_true h⟩

/-- A stream's turn at a word that it fetches and at one it has begun, and at RELCTX. -/
theorem witness_StepRunsDecodedWord :
    let s := State.reset.withFetchWord 48 0x0C2834500000
    let u : State := { s with agenda := [], cur := some (.np 0) }
    let x : Ctx := { np3 with e := { np3.e with ir := some 0xF81000000014 } }
    let v : State := { worlds.setCtx (.thread 3) (some x) with agenda := [.run nv] }
    (s.boot = .running ∧ s.agenda = .run (.np 0) :: [] ∧ ({ s with agenda := [] }).canRun (.np 0) = true) ∧
    (∃ i, decode 0x0C2834500000 = .ok i ∧ (∀ f, i ≠ .discard f)) ∧
    (∃ y, u.ctx (.thread 0) = some y ∧ (y.stream (.np 0)).ir = none) ∧
    (∃ r, fetchInsn u = .ok r ∧ decide (r.1 = 0x0C2834500000 ∧ r.2.cur = some (.np 0) ∧ (r.2.ctx (.thread 0)).isSome = true) = true) ∧
    (v.boot = .running ∧ v.agenda = .run nv :: [] ∧ ({ v with agenda := [] }).canRun nv = true ∧
      ({ v with agenda := [], cur := some nv } : State).ctx nv.place = some x ∧ (x.stream nv).ir = some 0xF81000000014) ∧
    ∃ f, decode 0xF81000000014 = .ok (.discard f) ∧ f.imm.extractLsb' 0 8 = 0x14 := by
  refine ⟨by decide +kernel, ⟨.ldi { d := 10, imm := 0x34500000 }, decode_of_isRow (by decide +kernel), fun f h => by cases h⟩, ?_,
    ok_of (by decide +kernel), by decide +kernel, ⟨{ fP with imm := 0x14 }, decode_of_isRow (by decide +kernel), rfl⟩⟩
  exact some_of (by decide +kernel)

theorem witness_EveryStepKeepsMemory : Memory.wf (State.reset.withFetchWord 48 0x0C2834500000).mem = true ∧
    ∃ t, step (State.reset.withFetchWord 48 0x0C2834500000) = .next t := ⟨by decide +kernel, next_of (by decide +kernel)⟩

/-! ## Further clauses -/

/-- FP16: a number halfway between 0 and its least magnitude, one past its exponents, and 3/2 as an integer. -/
theorem witness_RoundingDirection :
    (0 + 1 ≤ fpMaxMag .fp16 ∧ fpDecode .fp16 0 = .fin false 0 (-24) ∧ fpDecode .fp16 (0 + 1) = .fin false 1 (-24) ∧
      scaleNat 0 (-24 - -25) < scaleNat 1 (-25 - -25) ∧ scaleNat 1 (-25 - -25) < scaleNat 1 (-24 - -25)) ∧
    ((1 : Nat) ≠ 0 ∧ Fmt.fp16.emax < (1 : Nat).log2 + 16) ∧ 3 % 2 ^ 1 ≠ 0 := by decide +kernel

/-- A vector word whose guard is 0 as it begins, with the queues that its row admits, and the E stream's queues and registers. -/
theorem witness_GuardOffElsewhere :
    let f : FmtV := { fV with pm := 1 }
    (atWord ev xe).At ev xe ∧ (xe.e.rpt = 0 ∧ xe.e.pred f.pm.toNat = false ∧ (encode (.vadd f)).isSome = true ∧ f.va.toNat < 8 ∧
      (8 ≤ ({ f with vd := 8 } : FmtV).vd.toNat ∧ ({ f with vd := 8 } : FmtV).vd.toNat < 12)) ∧
    (.vadd ∈ Spec.vectorRows 0 0 false 0 ∧ .vpushq ∈ Spec.vectorRows 0 0 false 0) ∧ (Spec.pushes ev 13 ∧ Spec.pops ev 12) ∧
    (Spec.reach ev 0x37 = some .rw ∧ Spec.reach ev 0x30 = some .ro) ∧ (∀ t, ev ≠ .np t) ∧ ∀ c, ev ≠ .a c :=
  ⟨atWord_at .., by decide +kernel, by simp [Spec.vectorRows], by simp [Spec.pushes, Spec.pops], by decide +kernel,
    (fun _ h => nomatch h), fun _ h => nomatch h⟩

/-- A ring that a queued command names, one with a slot in an engine's copy, and one with a slot in a saved context's. -/
theorem witness_RingDescriptorWaits :
    let r : SlotRef := { core := 2, disp := xe.disp, ring := 7, slot := 0, base := 0 }
    let p : Copy := { Copy.fresh 9 5 [] with slots := [r] }
    let s := atWord ev xe { worlds with cores := [(3, { Core.empty with copies := [p] })] }
    let v := atWord ev xe
      { worlds with saved := [{ core := 3, world := 5, plc := 0, pa := 0x600000, ctx := none, copies := [p], late := [] }] }
    s.At ev xe ∧ v.At ev xe ∧ (xe.e.pred 0 = true ∧ 0x2F = 0x28 + 7) ∧
    (∃ m : MCmd, m.word = 0xC00700000000 ∧ m.ring = some 7) ∧ (∃ c ∈ s.cores, ∃ p ∈ c.2.copies, ∃ q ∈ p.slots, q = r) ∧
    (∃ w ∈ v.saved, ∃ p ∈ w.copies, ∃ q ∈ p.slots, q = r) ∧
    (Spec.waitSlot 0 = 0 ∧ (2 ^ 63 : W64).extractLsb' 62 2 = 2) := by
  refine ⟨atWord_at .., atWord_at .., by decide +kernel, ⟨queuedCmd 0xC00700000000, rfl, by decide +kernel⟩, by decide +kernel, by decide +kernel, by decide +kernel⟩

/-- cq1 with room, of an E stream that holds a write for a duplicated page. -/
theorem witness_QueuePushReleases :
    let d : DupPage := { page := 3, size := 16, holders := [1], held := [{ ag := some ev, bytes := [(196608, 1)], tag := none }] }
    (atWord ev xe { worlds with dup := [d] }).At ev xe ∧ (xe.stream ev).pred 0 = true ∧ Spec.pushes ev 13 ∧ Spec.queueFree ev xe 13 ∧
    (xe.queue 13).rows.length < queueDepth 13 ∧ d.holdsFor ev = true :=
  ⟨atWord_at .., by decide +kernel, by simp [Spec.pushes], (fun _ p hp => by cases hp), by decide +kernel, by decide +kernel⟩

/-- A prefetch at the page: translation off; the stream's TLB has it; the die's last-level TLB has it, readable or not, in the scope
named or another; a walk that fails, and one that maps 2 MiB at 0. -/
theorem witness_Prefetches :
    let x := withRegs av { core2 with world := 5 } [pva]
    let at_ (l : List TlbEntry) : State := atWord av x (paged l)
    let held (s : State) (t : TlbUnit) : Option TlbEntry := s.tlb.find? fun e => e.hit t 5 pva.toNat
    let f : FmtA := { fA with b := 1 }
    let y := { x with a := x.a.stepped f.rep.toNat }
    let u := (at_ []).put av y
    let z : Ctx := withRegs av core2 []
    let tree : State := (atWord av z (moving 0x800000).2).put av { z with a := z.a.stepped f.rep.toNat }
    (∀ l ∈ [[], [page (.stream 2 0) 5], [page (.die 0) 5]], (at_ l).ctx av.place = some x ∧ (at_ l).cur = some av) ∧
    (x.a.rpt ≤ f.rep.toNat ∧ (Spec.stepAddr x.a f 64).toNat / 64 * 64 = pva.toNat ∧ pva.toNat < 2 ^ 56 ∧ pva.toNat >>> 48 ≠ 0xFF ∧
      ((at_ []).world 5).ttw.getLsbD 0 = true ∧ ((at_ []).world 6).ttw.getLsbD 0 = false) ∧
    ((held (at_ [page (.stream 2 0) 5]) (.stream 2 0)).isSome = true ∧ held (at_ []) (.stream 2 0) = none ∧
      held (at_ []) (.die 0) = none ∧ held (at_ [page (.die 0) 5]) (.stream 2 0) = none ∧
      held (at_ [page (.die 0) 5]) (.die (2 / 32)) = some (page (.die 0) 5)) ∧
    (leafRD (page (.die 0) 5).leaf = true ∧ windowOf (leafPA (page (.die 0) 5).leaf 16 + pva.toNat % 2 ^ 16) = some .t0 ∧
      leafRD (w64 (7 * 65536)) = false) ∧
    (∃ e, walk u 5 pva.toNat = .error e) ∧
    (∃ g, walk tree 0 0 = .ok g ∧ decide (mayMap 0 (leafPA (g.leaf ||| w64 0x40) (levelLo g.level)) = true ∧
      leafRD (g.leaf ||| w64 0x40) = true ∧ windowOf (leafPA (g.leaf ||| w64 0x40) (levelLo g.level)) = some .t0) = true) ∧
    (Spec.stepAddr z.a f 64).toNat = 0 :=
  ⟨by decide +kernel, by decide +kernel, by decide +kernel, by decide +kernel, error_of (by decide +kernel), ok_of (by decide +kernel),
    by decide +kernel⟩

/-- A copy to a ring slot it has taken, copies from and to another module, and one to a queue before and after all its entries are
pushed. -/
theorem witness_CopyKinds : (∃ m : BitVec 1, m.toNat ≠ moduleNo) ∧ ∀ m : BitVec 1,
    let far : W64 := w64 (m.toNat * 2 ^ 54 + 8)
    let s (p : Copy) : State :=
      let s := copying p
      s.setWorld 0 { s.world 0 with domw := 0x1000001 }
    let q : SlotRef := { core := 2, disp := core2.disp, ring := 3, slot := 0, base := 8192 }
    let ring : Copy :=
      { plainCopy 1 [w64 8192, w64 (3 * 2 ^ 58), w64 (100 * 2 ^ 16), 0, 0, 0, 0, 0] with allocated := true, slots := [q] }
    let from_ : Copy := plainCopy 0 [far + w64 (2 ^ 57), 0, w64 (100 * 2 ^ 16), 0, 0, 0, 0, 0]
    let into : Copy := plainCopy 0 [0, far + w64 (2 ^ 57), w64 (100 * 2 ^ 16), 0, 0, 0, 0, 0]
    let queue : Copy := plainCopy (2 + 2 ^ 13) [0, 0, w64 (9600 * 2 ^ 16), 0, 0, 0, 0, 0]
    (∀ p ∈ [ring, from_, into, queue], (s p).liveCopy 2 7 = some p ∧ p.descOk 2 = true ∧ p.early = none ∧ p.trigger = none ∧
      p.chunks = 0 ∧ p.barrier = false ∧ p.pub = false ∧ p.asks = [] ∧ p.world = 0) ∧
    (ring.uw = 1 ∧ ring.sstor = 0 ∧ ring.rows = 1 ∧ ring.rowlen = 100 ∧ q.base + 100 ≤ 2 ^ 23 ∧ (s ring).saved = []) ∧
    (from_.sstor = 2 ∧ from_.dstor = 0 ∧ bits (w64 from_.saddr) 54 10 = m.toNat ∧ from_.uw = 0 ∧ from_.slots = []) ∧
    (into.sstor = 0 ∧ into.dstor = 2 ∧ bits (w64 into.daddr) 54 10 = m.toNat) ∧
    (((s from_).world 0).domw.getLsbD 24 = true ∧ (s from_).secureDomain 0 = none) ∧
    (2 ≤ queue.dk ∧ queue.pushed < queue.entries ∧ queue.entries ≤ ({ queue with pushed := 300 } : Copy).pushed) := by
  refine ⟨?_, by decide +kernel⟩
  by_cases h : moduleNo = 0
  · exact ⟨1, by rw [h]; decide⟩
  · exact ⟨0, fun e => h e.symm⟩

/-- A full ring, one with slots too small, one that is off, one outside the scratchpad, and copies that another precedes. -/
theorem witness_CopyRingWaits :
    let slot (n : Nat) : W64 := w64 (1 + n * 2 ^ 15 + 2 ^ 23)
    let x (r : W64) : Ctx := { core2 with rgd := [(3, r)] }
    let p := plainCopy 1 [w64 8192, w64 (3 * 2 ^ 58), w64 (1100 * 2 ^ 16), 0, 0, 0, 0, 0]
    let ahead := { p with id := 6, desc := p.desc }
    let s (l : List Copy) (r : W64) : State :=
      let s := (paged []).setCtx (.core 2) (some (x r))
      s.setCore 2 { s.core 2 with copies := l }
    let q := plainCopy (2 + 2 ^ 13) [0, 0, w64 (9600 * 2 ^ 16), 0, 0, 0, 0, 0]
    (∀ l ∈ [[p], [ahead, p]], (s l (slot 2)).liveCopy 2 7 = some p ∧ ((s l (slot 2)).core 2).ctx = some (x (slot 2))) ∧
    (p.mcCores 2 = [] ∧ (x 0).phase = .running) ∧
    (rgdEn (slot 2) = true ∧ rgdOk (slot 2) core2.partw = true ∧ p.fitsSlot (rgdSlotBytes (slot 2)) = true) ∧
    (rgdFull (rgdWith (slot 2) 0 0 true) = true ∧ rgdEn 0 = false ∧ p.fitsSlot (rgdSlotBytes (slot 0)) = false ∧
      rgdOk (rgdWith (slot 2) 0 0 false + w64 (2 ^ 15 - 2)) core2.partw = false) ∧
    ((s [p] (slot 2)).ringTurn 2 p = true ∧ (s [ahead, p] (slot 2)).ringTurn 2 p = false) ∧
    ((s [q] 0).core 2).queueTurn q = true ∧ ((s [{ q with id := 6 }, q] 0).core 2).queueTurn q = false := by decide +kernel

/-- A pending word is a row whose first repetition passes its checks. -/
noncomputable def isVec (p : VePend) (i : Instr) (f : FmtV) : Bool :=
  isWord p.word i && match vopOf i with
    | some (g, op) => decide (g = f) && op.ok (p.vin f 0 core2.partw)
    | none => false

theorem vec_of {p : VePend} {i : Instr} {f : FmtV} (h : isVec p i f = true) :
    decodeWord p.word = .ok (.row i) ∧ ∃ op, vopOf i = some (f, op) ∧ op.ok (p.vin f 0 core2.partw) = true := by
  simp only [isVec, Bool.and_eq_true] at h
  refine ⟨decodeWord_of_isWord h.1, ?_⟩
  have h2 := h.2
  split at h2
  · next g op e =>
    simp only [Bool.and_eq_true, decide_eq_true_eq] at h2
    exact ⟨op, by rw [e, h2.1], h2.2⟩
  · cases h2

/-- A word to execute: one row of 32 elements, views of 8-bit elements (0, 3), of FP8 elements (1, 4) and of scales (2). -/
def ready (w : Insn) : VePend :=
  { word := w, pc := 0, next := 0, upto := 1, more := false, vshape := 31, vksc := 0, fpctl := 0,
    vw := [(0, w64 (31 * 2 ^ 40)), (1, w64 (8 * 2 ^ 60 + 31 * 2 ^ 40)), (2, w64 (14 * 2 ^ 60)), (3, w64 (31 * 2 ^ 40 + 16)),
      (4, w64 (8 * 2 ^ 60 + 31 * 2 ^ 40))] }

/-- The oldest pending word of a core, of each kind: an integer row, VQMX, VPOPQ with its row there and not, VPUSHQ with room and
without, VMAXD, VACCW and VACC.z. -/
theorem witness_VectorExecution :
    (∀ w : Insn, let x : Ctx := { core2 with ve := [ready w] }
      (((paged []).setCtx (.core 2) (some x)).core 2).ctx = some x ∧ x.phase = .running ∧
        (((paged []).setCtx (.core 2) (some x)).core 2).startAt = none ∧ (ready w).next < (ready w).upto) ∧
    isVec (ready 0x800000000000) (.vadd fV) fV = true ∧
    (let f := { fV with va := 1, vb := 2 }; isVec (ready 0x948009000000) (.vqmx f) f = true) ∧
    (let f := { fV with va := 3 }; isVec (ready 0x9C4018000000) (.vpopq f) f = true) ∧
    (let f := { fV with vd := 9 }; isVec (ready 0x9C4C80000000) (.vpushq f) f = true) ∧
    (let f := { fV with vd := 3 }; isVec (ready 0x80C980000000) (.vmaxd 1 f) f = true) ∧
    (let f := { fV with vd := 4, t := 8 };
      isVec (ready 0xA10200400000) (.vaccw f) f = true ∧ isVec (ready 0xA08200400000) (.vaccZ false 0 f) f = true) ∧
    (1 ≤ (((queued core2 3 [row [1]]).queue 3).rows.takeWhile fun r => r.arrived).length ∧ (core2.queue 3).rows = [] ∧
      (core2.queue 9).rows.length + 1 ≤ queueDepth 9 ∧
      ¬((queued core2 9 (List.replicate (queueDepth 9) (row []))).queue 9).rows.length + 1 ≤ queueDepth 9) :=
  ⟨fun _ => ⟨rfl, rfl, rfl, Nat.zero_lt_one⟩, by decide +kernel⟩

/-- MSWAP while 16 commands wait in mcq, and a matrix word of an E stream that holds a write. -/
theorem witness_MatrixWaits :
    let x := { xe with mcq := List.replicate 16 (queuedCmd 0xC05200000000) }
    (atWord ev x).At ev x ∧ 16 ≤ x.mcq.length ∧ encode (.mswap { fM with ra := 2, rb := 2 }) = some 0xC05200000000 :=
  ⟨atWord_at .., by decide +kernel, by decide +kernel⟩

/-- A sealed MLOADW that has started, with its stream refused (no generation of the world's weight key) and, of a world with one, where
it opens; an entry of mq for MMULS.md; a slot that is filled and one that is not; a finished command whose slots are the ring's oldest. -/
theorem witness_MatrixUnits :
    let load : MCmd := { queuedCmd 0xC00200000001 with started := true }
    let md : MCmd := { queuedCmd 0xC0D200000080 with started := true }
    let r := rgdWith (matrixRing 8) 0 1 false
    let x := queued { xe with rgd := [(2, r)], mcq := [load], filled := [(slotKey 2 0, true)] } 15 [row [1]]
    let s := atWord ev x
    (load.fn = 0 ∧ load.f.ks.getLsbD 0 = true ∧ load.f.rb.toNat = 2 ∧
      (∀ j, j < 1 → x.slotFilled 2 (x.ringDist 2 0 + j) = true) ∧ x.xqReady 0 0 = true) ∧
    (∃ b, readStream [] 0 true false (x.slotBytes (s.core 2).sram 2 0 1) = .error b) ∧
    (md.fn = 3 ∧ md.f.ks.getLsbD 7 = true ∧ md.installed < ({ Stationary.empty with fmt := some 0 } : Stationary).k / 2 ∧
      (x.queue 15).rows = row [1] :: [] ∧ (xe.queue 15).rows = []) ∧
    ((queuedCmd 0xC10000000080).fn = 4 ∧ (queuedCmd 0xC10000000080).f.ks.getLsbD 7 = true ∧
      slabCount (queuedCmd 0xC10000000080).f ≤ 0 + 1) ∧
    (x.xqInReach 0 { load with started := false, nxq := 300 } = false ∧ x.xqInReach 0 { load with started := false } = true ∧
      x.inReach 0 { load with started := false } = true ∧ x.inReach 0 { load with started := false, nslots := 9 } = false) ∧
    (rgdUsed (x.rgd.get 0 2) = 1 ∧ 1 ≤ rgdSlots r ∧ rgdHead r < rgdSlots r ∧ rgdFull r = false ∧
      x.released = []) := by
  refine ⟨by decide +kernel, error_of (by decide +kernel), by decide +kernel⟩

/-- One page with writes of a core's E stream and of another's held: it holds for the first. -/
theorem witness_HeldWrites :
    let h (ag : Agent) (b : Byte) : HeldWrite := { ag := some ag, bytes := [(196608, b)], tag := none }
    let d : DupPage := { page := 3, size := 16, holders := [1], held := [h ev 1, h nv 2] }
    let s : State := { worlds with dup := [d] }
    s.dup = [d] ∧ d.holdsFor ev = true ∧ d.holdsFor av = false ∧ Spec.noneHeld s av ∧ (s.motions = [] ∧ s.dead = []) ∧
    (∀ d ∈ s.dup, ∀ h ∈ d.held, ∀ q ∈ h.bytes, q.1 / 64 ≠ 196544 / 64) := by
  refine ⟨rfl, by decide +kernel, by decide +kernel, ?_, by decide +kernel, by decide +kernel⟩
  unfold Spec.noneHeld
  decide +kernel

/-- An allocated tag whose tile a copy of core 2 is to write. -/
theorem witness_PublishWaits :
    let h : W64 := Config.moduleNumber ++ (0x400000C280 : BitVec 54)
    let p : Copy := { plainCopy 0 [0, w64 (2 ^ 56), w64 (100 * 2 ^ 16), 0, 0, 0, 0, 0] with world := 5 }
    let s : State := { copying p with
      tags := [(2, { Tag.empty with gen := 6, world := 5, st := .allocated, base := 64, len := 64 })] }
    h.getLsbD 13 = false ∧ s.liveTag h 5 = some 2 ∧ (s.tag 2).st = .allocated ∧
    s.coverPending 2 (s.coveredBy 2 1 h 5) h 5 = true := by
  intro h p s
  obtain ⟨hm, hw, hi, hg, hf⟩ := (handles Config.moduleNumber).1
  have hl : s.liveTag h 5 = some 2 := liveTag_of hm hw hi ⟨by decide +kernel, by rw [hg]; decide +kernel, by decide +kernel⟩
  refine ⟨hf, hl, by decide +kernel, ?_⟩
  have hb : handleFallback h = false := hf
  rw [State.coverPending, State.coveredBy, hb, if_neg (by decide), if_neg (by decide), hl]
  decide +kernel

/-- A record of a world whose resident quota is used up, with and without room in its overflow queue, at the page after it. -/
theorem witness_Spills :
    let x := withRegs nv { np3 with world := 5 } [pva]
    let s := withWords (atWord nv x worlds) 5 [w64 (1 + 5 * 4)]
    let room : State := s.setWorld 5 { s.world 5 with quota := [], ovq := some (pva.toNat, 4) }
    let full : State := s.setWorld 5 { s.world 5 with quota := [], ovq := some (pva.toNat, 4), ovCount := 16 }
    room.At nv x ∧ full.At nv x ∧ Spec.PlainPage room .poleth 5 1 (x.e.reg 1) 64 (page .poleth 5) ∧
    Spec.PlainPage full .poleth 5 1 (x.e.reg 1) 64 (page .poleth 5) ∧ Spec.PlainPage room .poleth 5 1 (w64 pva.toNat) 256 (page .poleth 5) ∧
    (room.quota 5 1 ≤ room.resident 5 + 0 ∧ full.ovqRoom 5 = false ∧ (room.world 5).ovCount < 2 ^ 4 ∧ room.submits = [] ∧
      pva.toNat + 256 * (((room.world 5).ovHead + (room.world 5).ovCount) % 2 ^ 4) < 2 ^ 56) ∧
    (let l := wordsOf 8 (room.loadBytes 5 pva.toNat ((page .poleth 5).paOf pva.toNat) 64);
      refusal room { recva := pva.toNat, readWorld := 5, expect := some 5 } l [] = none ∧ recTags l [] = []) := by
  and_intros
  all_goals first | exact plain_of (by decide +kernel) | exact page_of (by decide +kernel) | exact ⟨by decide +kernel, by decide +kernel⟩ | decide +kernel

/-- The page translates every byte of a descriptor's 64. -/
theorem witness_OnePage : Spec.onePage worlds .poleth 5 pva.toNat 64 (page .poleth 5) := by
  unfold Spec.onePage
  decide +kernel

/-- No entry and no descriptor free. -/
theorem witness_TriggersFull :
    let x := withRegs nv { np3 with world := 5 } [pva]
    let u : State := atWord nv x worlds
    let s : State := withWords u 5 [w64 (5 * 2 ^ 6), 0, 0, 0, 1]
    let full : State := s.setWorld 5 { s.world 5 with quota := [] }
    full.At nv x ∧ Spec.PlainPage full .poleth 5 1 (x.e.reg 1) 64 (page .poleth 5) ∧ full.triggers.wf .empty = true ∧
    full.quota 5 2 ≤ full.trigCount 5 := by
  and_intros
  all_goals first | exact plain_of (by decide +kernel) | exact ⟨by decide +kernel, by decide +kernel⟩ | decide +kernel

/-- No link is down: no address lies behind one. -/
theorem links_up {s : State} (h : s.linkDown = []) (a : Nat) : s.tierDown a = false := by
  unfold State.tierDown
  split
  · simp [h]
  · rfl

theorem witness_LinksUp : (∀ a, worlds.tierDown a = false) ∧ worlds.sramEcc = [] ∧ (acting (unit2 none)).sramEcc = [] ∧
    ∀ a, (acting (unit2 none)).tierDown a = false := ⟨links_up rfl, rfl, by decide +kernel, links_up (by decide +kernel)⟩

/-- An image at the start of a port's memory, behind a link that is down. -/
theorem witness_LinkDown (h : 0 < Config.t2Bytes 0) : ({ worlds with linkDown := [(0, true)] } : State).tierDown (2 ^ 44) = true := by
  have hw : windowOf (2 ^ 44) = some (.t2 0) := by
    unfold windowOf
    rw [if_neg (by decide +kernel), if_neg (by decide +kernel), if_neg (by decide +kernel), if_neg (by decide +kernel), if_pos (by decide +kernel), if_pos (by simpa using h)]
  rw [State.tierDown, hw]
  decide +kernel

/-- A record of world 6, which has no partition, meets the fourth case of R31 and none before it; one of world 5 meets none. -/
theorem witness_Refusals :
    let q : Submission := { recva := pva.toNat, readWorld := 0, expect := none }
    let bad : List W64 := [w64 (1 + 6 * 4), 0, 0, 0, 0, 0, 0, 0]
    let good : List W64 := [w64 (1 + 5 * 4), 0, 0, 0, 0, 0, 0, 0]
    (Spec.refusals worlds q bad [])[3]? = some ((worlds.world (bits (wd bad 0) 2 6)).part = none, 0x37, true) ∧
    (worlds.world 6).part = none ∧ (∀ c ∈ (Spec.refusals worlds q bad []).take 3, ¬c.1) ∧ ∀ c ∈ Spec.refusals worlds q good [], ¬c.1 := by
  have hb : recSlots [w64 (1 + 6 * 4), 0, 0, 0, 0, 0, 0, 0] [] = List.replicate 11 0 := by decide +kernel
  have hg : recSlots [w64 (1 + 5 * 4), 0, 0, 0, 0, 0, 0, 0] [] = List.replicate 11 0 := by decide +kernel
  have hs : ¬∃ v ∈ List.replicate 11 (0 : W64), bits v 62 2 = 3 ∨ Spec.waitSlot v ≠ v := by simp [Spec.waitSlot, bits]
  have hk (n : Nat) (p : W64 → Prop) (hn : n ≠ 0) : ¬∃ v ∈ List.replicate 11 (0 : W64), bits v 62 2 = n ∧ p v := by
    rintro ⟨v, hv, h, -⟩
    exact hn (by rw [List.eq_of_mem_replicate hv] at h; simpa [bits] using h.symm)
  have he (w : Nat) : ¬∃ v, (none : Option Nat) = some v ∧ w ≠ v := fun ⟨_, h, _⟩ => nomatch h
  refine ⟨by simp only [Spec.refusals]; rfl, by decide +kernel, ?_, ?_⟩
  all_goals
    simp only [Spec.refusals, hb, hg, List.take_succ_cons, List.take_zero, List.forall_mem_cons, List.not_mem_nil, false_implies,
      implies_true, and_true, not_or]
    and_intros
    all_goals first
      | exact hk _ _ (by decide)
      | exact he _
      | (rw [if_pos (by decide +kernel)]; decide +kernel)
      | (simp only [not_exists, not_and, List.mem_replicate]; rintro v ⟨-, rfl⟩; decide +kernel)
      | decide +kernel

/-- A world whose quota is used up by what its overflow queue returns, and one whose queue lies where nothing is mapped. -/
theorem witness_Returning :
    let e (dropped : Bool) : Spilled := { recva := 0x1000, readWorld := 5, world := 5, lastCore := none, refs := [], dropped }
    let s (l : List Spilled) : State :=
      { worlds.setWorld 5 { worlds.world 5 with quota := [(1, 1)], ovq := some (0, 4), ovCount := l.length } with spilled := l }
    let back (l : List Spilled) : Nat := (s l).spilled.countP fun v => v.world == 5 && !v.dropped
    ((s [e true]).resident 5 + back [e true] < (s [e true]).quota 5 1 ∧ (s [e false]).quota 5 1 ≤ (s [e false]).resident 5 + back [e false] ∧
      (s [e false]).ovqRoom 5 = true) ∧ ∃ f, (s []).readVa 7 5 0 256 = .error f :=
  ⟨by decide +kernel, error_of (by decide +kernel)⟩

/-- Records that may be taken by an idle core and a free thread, and a context that may come back before them. -/
theorem witness_Dispatchable :
    let s : State := { worlds with pool := [waitingRec 5 true, waitingRec 5 false] }
    let back : State := { s with saved := [savedAs 2 5 { core2 with world := 5, phase := .preempted }] }
    (s.eligible 2 (waitingRec 5 false) = true ∧ s.claimable 2 5 (partwBanks (wd (waitingRec 5 false).words 3)) = true) ∧
    (s.saved.any fun v => v.core == 2 && v.world == 5 && v.ctx.isSome && s.mayReturn v) = false ∧
    (back.saved.any fun v => v.core == 2 && v.world == 5 && v.ctx.isSome && back.mayReturn v) = true := by decide +kernel

/-- A task that refers to a RETIRED tag, the last to do so, and twice to a published one. -/
theorem witness_TaskReferences :
    let x : Ctx := { core2 with world := 5, tagRefs := [7, 8, 8] }
    let s : State := { worlds with tags :=
      [(7, { Tag.empty with st := .retired, world := 5, refs := 1 }), (8, { Tag.empty with st := .published, world := 5, refs := 3 })] }
    x.tagRefs.count 7 = 1 ∧ x.tagRefs.count 8 = 2 ∧ x.tagRefs.count 9 = 0 ∧ (s.tag 7).st = .retired ∧ (s.tag 7).refs ≤ 1 ∧
    (s.tag 8).refs - 2 = 1 := by decide +kernel

/-- A core at the end of its first frame of two: pending words that end frames and that do not, a copy that is writing a chunk; in a
sealed and a shared frame a record of the next world, and a context of it that may come back. -/
theorem witness_FrameEdgeKinds :
    let e (w : Nat) : W64 := w64 (2 ^ 23 + w * 2 ^ 17 + 1000)
    let k (sl : Nat) : Core :=
      { Core.empty with ftctl := w64 (64 + sl * 32 + 2), ft := [(0, e 0), (1, e 5)], nextEdge := 10000000 }
    let s (sl : Nat) (l : List PoolRec) (v : List Saved) : State := { worlds.setCore 2 (k sl) with now := 10000000, pool := l, saved := v }
    let p : Copy := { Copy.fresh 7 0 [] with asks := [{ id := 1, write := true, pos := (0, 0), rsp := none }] }
    let r := waitingRec 5 false
    let run : Ctx := { core2 with world := 0 }
    let back := savedAs 2 5 { core2 with world := 5, phase := .preempted }
    (Spec.frameAt (k 1).ft 2 0 10000000 1 20000000 ∧ Spec.frameAt (k 1).ft 2 0 9999999 0 10000000 ∧
      ¬Spec.frameAt (k 1).ft 2 0 10000000 0 10000000) ∧
    ((Tbl.get none [(16, some (0 : W64))] 16).getD (k 1).ftctl).getLsbD 6 = false ∧ p.writing = true ∧
    ((k 1).frameWorld = some 0 ∧ (((k 1).takeWrite 16).takeWrite 17).enter 10000000 = { k 1 with cur := 1, nextEdge := 20000000 } ∧
      ({ k 1 with cur := 1 }).frameWorld = some 5) ∧
    (Spec.firstOf (s 1 [r] []) 2 5 r ∧ Spec.firstOf (s 0 [r] []) 2 5 r ∧ (s 1 [r] []).dispatchable 2 { r with ready := none } = false) ∧
    (((s 0 [r] []).setCtx (.core 2) (some run)).ctx (.core 2) = some run ∧ run.phase = .running ∧
      partwMeet (wd r.words 3) run.partw = true ∧ hdrOvlp run.hdr = false) ∧
    (let u : State := { (s 1 [] [back]).setCore 2 { k 1 with cur := 1, nextEdge := 20000000 } with saved := [back] };
      u.mayReturn back = true ∧ u.saved.find? (fun v => v.core == 2 && v.world == 5 && u.mayReturn v) = some back) := by
  and_intros
  all_goals first
    | decide +kernel
    | (unfold Spec.frameAt; decide +kernel)

/-- A timer whose event is held while one period more, and three, have passed; no lantern pending. -/
theorem witness_HeldTimers :
    let t : Timer := { armed := true, deadline := 80, period := 50, cls := 0, oqn := 7, due := some 30 }
    (t.deadline + 0 * 50 ≤ 90 ∧ 90 < t.deadline + (0 + 1) * 50) ∧ (t.deadline + 2 * 50 ≤ 200 ∧ 200 < t.deadline + (2 + 1) * 50) ∧
    t.due = some 30 ∧ t.period ≠ 0 ∧ worlds.eventRoom 5 0 = true ∧ ∀ r, (worlds.lanterns.get Lantern.empty r).pending = false :=
  ⟨by decide, by decide, rfl, by decide, by decide +kernel, fun _ => rfl⟩

/-- An image of orphan copies alone for core 2. -/
theorem witness_OrphanImage :
    let s := acting (unit2 none)
    rdWord (s.imageAt 0x600000) 0x008 = 0 ∧ s.bankFree 2 = true ∧ s.chunkOut (placeOf 2) = false ∧ s.sramEcc = [] := by
  decide +kernel

/-- A saved context of core 2 and a late response, over links that are up and bytes without error. -/
theorem witness_PlainRestore :
    let v := savedAs 2 5 { core2 with world := 5, phase := .preempted }
    let s : State := { worlds with saved := [v] }
    (∀ a, s.tierDown a = false) ∧ s.ecc = [] ∧ s.sramEcc = [] ∧ s.hotArray = none := ⟨links_up rfl, rfl, rfl, rfl⟩

end Sys2Proof.Tests
end

section
/-! SUPPORT. Tables and memory by physical address: what a filtered table reads, and what the writes by physical address leave. -/

namespace Sys2Proof.Machine

/-! ## Tables -/

/-- A canonical table lists no key that is not above its bound. -/
theorem Tbl.get_of_wfAbove {α : Type} [DecidableEq α] (d : α) {t : Tbl α} {lo i : Nat} (h : Tbl.wfAbove d (some lo) t = true)
    (hi : i ≤ lo) : t.get d i = d := by
  cases t with
  | nil => rfl
  | cons e t =>
    obtain ⟨k, v⟩ := e
    simp only [Tbl.wfAbove, Bool.and_eq_true, decide_eq_true_eq] at h
    simp only [Tbl.get]
    rw [if_neg (by omega), if_pos (by omega)]

/-- A filter on the keys keeps what a canonical table reads at a key, or drops it. -/
theorem Tbl.get_filter_wfAbove {α : Type} [DecidableEq α] (d : α) (p : Nat → Bool) {t : Tbl α} {lo : Option Nat}
    (h : Tbl.wfAbove d lo t = true) (i : Nat) :
    Tbl.get d (t.filter fun e => p e.1) i = if p i = true then t.get d i else d := by
  induction t generalizing lo with
  | nil => simp
  | cons e t ih =>
    obtain ⟨k, v⟩ := e
    simp only [Tbl.wfAbove, Bool.and_eq_true] at h
    have ih := ih h.2
    have below : i ≤ k → Tbl.get d t i = d := Tbl.get_of_wfAbove d h.2
    rw [List.filter_cons]
    by_cases hk : p k = true <;> simp only [hk, if_true, Bool.false_eq_true, if_false, Tbl.get, ih]
    · by_cases hik : i = k
      · simp [hik, hk]
      · by_cases hlt : i < k <;> simp [hik, hlt]
    · by_cases hik : i = k
      · subst hik; simp [hk]
      · by_cases hlt : i < k
        · simp [hik, hlt, below (by omega)]
        · simp [hik, hlt]

/-- A filter on the keys of a canonical table. -/
theorem Tbl.get_filter {α : Type} [DecidableEq α] (d : α) (p : Nat → Bool) {t : Tbl α} (h : t.wf d = true) (i : Nat) :
    Tbl.get d (t.filter fun e => p e.1) i = if p i = true then t.get d i else d :=
  Tbl.get_filter_wfAbove d p h i

/-! ## What writes by physical address leave -/

/-- The machine but for its memory: bytes, tags, standing errors, live bits and duplicates. -/
def State.sansMemory (s : State) : State := { s with mem := [], enc := [], ecc := [], sramEcc := [], dead := [], dup := [] }

theorem foldl_sansMemory {β : Type} {f : State → β → State} (hf : ∀ s b, (f s b).sansMemory = s.sansMemory) (l : List β)
    (s : State) :
    (l.foldl f s).sansMemory = s.sansMemory :=
  foldl_keeps (P := fun t : State => t.sansMemory = s.sansMemory) (fun t b h => (hf t b).trans h) l s rfl

@[simp] theorem State.poke_sansMemory (s : State) (pa : Nat) (l : List Byte) : (s.poke pa l).sansMemory = s.sansMemory := by
  induction l generalizing s pa with
  | nil => rfl
  | cons b l ih => exact ih _ _

@[simp] theorem State.shadowRewritten_sansMemory (s : State) (pa n : Nat) : (s.shadowRewritten pa n).sansMemory = s.sansMemory := by
  unfold State.shadowRewritten; split <;> rfl

@[simp] theorem State.rewritten_sansMemory (s : State) (pa n : Nat) : (s.rewritten pa n).sansMemory = s.sansMemory :=
  State.shadowRewritten_sansMemory s pa n

@[simp] theorem State.clearRange_sansMemory (s : State) (pa n : Nat) : (s.clearRange pa n).sansMemory = s.sansMemory :=
  State.shadowRewritten_sansMemory s pa n

/-- The live bits are memory. -/
theorem State.sansMemory_dead (s : State) (d : Tbl Bool) : State.sansMemory { s with dead := d } = s.sansMemory := rfl

@[simp] theorem State.revive_sansMemory (s : State) (pa : Nat) : (s.revive pa).sansMemory = s.sansMemory := by
  unfold State.revive
  split
  · rw [State.sansMemory_dead, State.clearRange_sansMemory]
  · rfl

@[simp] theorem State.retag_sansMemory (s : State) (gr : Nat) (v : Option EncTag) : (s.retag gr v).sansMemory = s.sansMemory := by
  unfold State.retag
  split
  · rfl
  · split
    · rfl
    · exact State.poke_sansMemory s _ _

@[simp] theorem State.writeAt_sansMemory (s : State) (pa : Nat) (v : Option EncTag) (b : Byte) :
    (s.writeAt pa v b).sansMemory = s.sansMemory :=
  (State.retag_sansMemory _ _ _).trans (State.revive_sansMemory s pa)

@[simp] theorem State.writeByte_sansMemory (s : State) (pa : Nat) (v : Option EncTag) (b : Byte) :
    (s.writeByte pa v b).sansMemory = s.sansMemory := by
  unfold State.writeByte
  split
  dsimp only
  split <;> simp

@[simp] theorem State.applyHeld_sansMemory (s : State) (h : HeldWrite) : (s.applyHeld h).sansMemory = s.sansMemory := by
  unfold State.applyHeld
  split
  · rfl
  · dsimp only
    split <;> simp [foldl_sansMemory]

@[simp] theorem State.dupRelease_sansMemory (s : State) (page : Nat) : (s.dupRelease page).sansMemory = s.sansMemory :=
  foldl_sansMemory State.applyHeld_sansMemory _ _

@[simp] theorem State.dupSettle_sansMemory (s : State) (pa n : Nat) : (s.dupSettle pa n).sansMemory = s.sansMemory :=
  foldl_sansMemory State.dupRelease_sansMemory _ _

/-- A write by physical address changes memory alone. -/
@[simp] theorem State.writePa_sansMemory (s : State) (pa : Nat) (l : List Byte) : (s.writePa pa l).sansMemory = s.sansMemory := by
  simp [State.writePa, foldl_sansMemory]

/-! ## The bytes of a granule -/

theorem xtsBlocks_length_le (f : List Nat → List Nat) (n t : Nat) (l : List Nat) : (xtsBlocks f n t l).length ≤ 16 * n := by
  induction n generalizing t l with
  | zero => exact Nat.le_refl 0
  | succ n ih =>
    have := ih (xtsNext t) (l.drop 16)
    simp only [xtsBlocks, xorBytes, leNats, List.length_append, List.length_zipWith, List.length_map, List.length_range]
    omega

/-- No cipher lengthens its text. -/
theorem xts_length_le (enc : Bool) (key : BitVec 512) (tweak : Nat) (l : List Nat) : (xts enc key tweak l).length ≤ l.length :=
  Nat.le_trans (xtsBlocks_length_le _ _ _ _) (Nat.mul_div_le l.length 16)

theorem ofNats_xts_length_le (enc : Bool) (key : BitVec 512) (tweak : Nat) (l : List Byte) :
    (ofNats (xts enc key tweak (toNats l))).length ≤ l.length := by
  have := xts_length_le enc key tweak (toNats l)
  simpa [ofNats, toNats] using this

theorem EncTag.store_length_le (t : EncTag) (l : List Byte) : (t.store l).length ≤ l.length := by
  cases t with
  | raw => exact Nat.le_refl _
  | key w e g => exact ofNats_xts_length_le _ _ _ _
  | bank w e k => exact ofNats_xts_length_le _ _ _ _

theorem EncTag.load_length_le (t : EncTag) (l : List Byte) : (t.load l).length ≤ l.length := by
  cases t with
  | raw => exact Nat.le_refl _
  | key w e g => exact ofNats_xts_length_le _ _ _ _
  | bank w e k => exact ofNats_xts_length_le _ _ _ _

theorem State.granule_length_le (s : State) (gr : Nat) (v : Option EncTag) : (s.granule gr v).length ≤ 64 := by
  have plain : (s.peek (gr * 64) 64).length = 64 := by simp [State.peek]
  unfold State.granule
  dsimp only
  split
  · rename_i t u _ _
    split
    · exact Nat.le_of_eq plain
    · exact Nat.le_trans (u.load_length_le _) (Nat.le_trans (t.store_length_le _) (Nat.le_of_eq plain))
  · exact Nat.le_of_eq plain

/-! ## Memory at rest -/

/-- No block is dead, no page duplicated and nothing in motion: a byte written by physical address stands at that address. -/
structure State.AtRest (s : State) : Prop where
  dead : s.dead = []
  dup : s.dup = []
  motions : s.motions = []

/-- From one state to the next memory stays at rest, only addresses that a condition names may read otherwise, and no tag arises where
there was none. -/
structure State.WroteOnly (s t : State) (p : Nat → Prop) : Prop where
  rest : t.AtRest
  other : ∀ a, ¬p a → t.mem.get 0 a = s.mem.get 0 a
  untagged : s.enc = [] → t.enc = []

variable {s t u : State}

theorem State.WroteOnly.refl (h : s.AtRest) (p : Nat → Prop) : s.WroteOnly s p := ⟨h, fun _ _ => rfl, id⟩

theorem State.WroteOnly.trans {p : Nat → Prop} (h : s.WroteOnly t p) (k : t.WroteOnly u p) : s.WroteOnly u p :=
  ⟨k.rest, fun a ha => (k.other a ha).trans (h.other a ha), fun e => k.untagged (h.untagged e)⟩

theorem State.WroteOnly.mono {p q : Nat → Prop} (h : s.WroteOnly t p) (hpq : ∀ a, p a → q a) : s.WroteOnly t q :=
  ⟨h.rest, fun a ha => h.other a fun ha' => ha (hpq a ha'), h.untagged⟩

/-- What writes only where a condition says at every step of a fold does so in the fold. -/
theorem State.WroteOnly.foldl {β : Type} {f : State → β → State} {p : Nat → Prop} (l : List β) (h : s.AtRest)
    (hf : ∀ (t : State) b, b ∈ l → t.AtRest → t.WroteOnly (f t b) p) : s.WroteOnly (l.foldl f s) p := by
  induction l generalizing s with
  | nil => exact .refl h p
  | cons b l ih =>
    have first := hf s b (List.mem_cons_self ..) h
    exact first.trans (ih first.rest fun t c hc => hf t c (List.mem_cons_of_mem _ hc))

theorem State.AtRest.sequenced (h : s.AtRest) (pa : Nat) : s.sequenced pa = (pa, none) := by
  simp [State.sequenced, h.motions]

theorem State.AtRest.revive (h : s.AtRest) (pa : Nat) : s.revive pa = s := by
  simp [State.revive, h.dead]

theorem State.AtRest.dupSettle (h : s.AtRest) (pa n : Nat) : s.dupSettle pa n = s := by
  simp [State.dupSettle, State.dupReleaseIf, h.dup]

theorem State.AtRest.poke (h : s.AtRest) (pa : Nat) (l : List Byte) : (s.poke pa l).AtRest := by
  have frame := State.poke_frame (s := s) pa l
  exact ⟨(congrArg State.dead frame).trans h.dead, (congrArg State.dup frame).trans h.dup,
    (congrArg State.motions frame).trans h.motions⟩

theorem State.poke_wroteOnly (h : s.AtRest) (pa : Nat) (l : List Byte) :
    s.WroteOnly (s.poke pa l) fun a => pa ≤ a ∧ a < pa + l.length where
  rest := h.poke pa l
  other a ha := by
    rcases Nat.lt_or_ge a pa with hl | hl
    · exact State.poke_get_lt _ _ hl
    · exact State.poke_get_ge _ _ (by omega)
  untagged e := (congrArg State.enc (State.poke_frame (s := s) pa l)).trans e

theorem State.retag_wroteOnly (h : s.AtRest) (gr : Nat) : s.WroteOnly (s.retag gr none) fun a => a / 64 = gr := by
  unfold State.retag
  split
  · exact ⟨⟨h.dead, h.dup, h.motions⟩, fun _ _ => rfl, fun e => by simp [e, Tbl.set]⟩
  · rename_i t tagged
    split
    · exact .refl h _
    · have poked := State.poke_wroteOnly h (gr * 64) (s.granule gr none)
      have len := s.granule_length_le gr none
      refine ⟨⟨poked.rest.dead, poked.rest.dup, poked.rest.motions⟩, fun a ha => poked.other a (by omega), fun e => ?_⟩
      simp [e] at tagged

theorem State.writeAt_wroteOnly (h : s.AtRest) (pa : Nat) (b : Byte) :
    s.WroteOnly (s.writeAt pa none b) fun a => a / 64 = pa / 64 := by
  have tagged := State.retag_wroteOnly h (pa / 64)
  unfold State.writeAt
  rw [h.revive]
  refine ⟨⟨tagged.rest.dead, tagged.rest.dup, tagged.rest.motions⟩, fun a ha => ?_, tagged.untagged⟩
  exact (Tbl.get_set_ne _ _ _ (by rintro rfl; exact ha rfl)).trans (tagged.other a ha)

/-- A byte written by physical address in memory at rest changes its granule alone. -/
theorem State.writePa_wroteOnly (h : s.AtRest) (pa : Nat) (b : Byte) :
    s.WroteOnly (s.writePa pa [b]) fun a => a / 64 = pa / 64 := by
  have written := State.writeAt_wroteOnly h pa b
  have eq : s.writePa pa [b] = (s.writeAt pa none b).rewritten pa 1 := by
    simp [State.writePa, h.dupSettle, State.writeByte, h.sequenced]
  rw [eq]
  have frame : ∀ (s : State) n, (s.rewritten pa n).dead = s.dead ∧ (s.rewritten pa n).dup = s.dup ∧
      (s.rewritten pa n).motions = s.motions ∧ (s.rewritten pa n).mem = s.mem ∧ (s.rewritten pa n).enc = s.enc := by
    intro s n
    unfold State.rewritten State.shadowRewritten
    split <;> exact ⟨rfl, rfl, rfl, rfl, rfl⟩
  obtain ⟨dead, dup, motions, mem, enc⟩ := frame (s.writeAt pa none b) 1
  exact ⟨⟨dead.trans written.rest.dead, dup.trans written.rest.dup, motions.trans written.rest.motions⟩,
    fun a ha => by rw [mem]; exact written.other a ha, fun e => enc.trans (written.untagged e)⟩

end Sys2Proof.Machine
end

section
/-! SUPPORT. The resets and boot (R7, R410, R411): what each leaves, and the statements of their family. -/

open Sys2Proof Sys2Proof.Machine

namespace Sys2Proof.Machine

/-! ## Boot -/

/-- Some slot of the flash holds an image that boot accepts. -/
def State.accepts (s : State) : Bool := imageAccepted s.flashA || imageAccepted s.flashB

/-- World 0 and NP thread 0 as an accepted image begins. -/
def State.beginImage (s : State) (img : Tbl Byte) : State :=
  let s := s.setWorld 0 { s.world 0 with ttw := Config.bootTtw img &&& ttwMask }
  { s with nextDisp := s.nextDisp + 1, threads := s.threads.set none 0 (some (firmwareTask img s.nextDisp)) }

/-- An image's bytes in T0. -/
def State.loaded (s : State) (l : List (Nat × Byte)) : State := l.foldl (fun s (a, b) => s.writePa (a % 2 ^ 39) [b]) s

theorem State.runFirmware_eq (s : State) : s.runFirmware = (s.loaded (Config.bootLoad s.firmware)).beginImage s.firmware := rfl

/-- The state in which boot has ended, before an image runs. -/
def State.booted (s : State) (b : Boot) : State :=
  { s with boot := b }.poke64 bar0Pa (Config.bootStatus s.accepts)

@[simp] theorem State.booted_sansMemory (s : State) (b : Boot) : (s.booted b).sansMemory = { s.sansMemory with boot := b } :=
  State.poke_sansMemory { s with boot := b } _ _

/-- What does not depend on memory is read off a state without it. -/
theorem State.eq_of_sansMemory {α : Sort _} {f : State → α} {t x : State} {v : α} (h : t.sansMemory = x) (hx : f x = v)
    (hf : ∀ t : State, f t.sansMemory = f t := by intros; rfl) : f t = v := by
  rw [← hf, h, hx]

/-- Boot with an accepted image. -/
theorem State.bootNow_accepted {s : State} (h : s.accepts = true) :
    s.bootNow = ((s.booted .running).loaded (Config.bootLoad s.firmware)).beginImage s.firmware := by
  have flash : (s.booted .running).firmware = s.firmware := State.eq_of_sansMemory (s.booted_sansMemory .running) rfl
  have eq : s.bootNow = (s.booted .running).runFirmware := by
    simp only [State.accepts] at h
    simp [State.bootNow, State.booted, State.accepts, h]
  rw [eq, State.runFirmware_eq, flash]

/-- Boot without one. -/
theorem State.bootNow_recovery {s : State} (h : s.accepts = false) : s.bootNow = s.booted .recovery := by
  simp only [State.accepts] at h
  simp [State.bootNow, State.booted, State.accepts, h]

@[simp] theorem State.loaded_sansMemory (s : State) (l : List (Nat × Byte)) : (s.loaded l).sansMemory = s.sansMemory :=
  foldl_sansMemory (fun s _ => s.writePa_sansMemory _ _) l s

theorem State.beginImage_sansMemory (s : State) (img : Tbl Byte) : (s.beginImage img).sansMemory = s.sansMemory.beginImage img := rfl

/-- What boot with an accepted image makes of the machine but for memory. -/
theorem State.bootNow_accepted_sansMemory {s : State} (h : s.accepts = true) :
    s.bootNow.sansMemory = { s.sansMemory with boot := .running }.beginImage s.firmware := by
  simp [State.bootNow_accepted h, State.beginImage_sansMemory]

/-- And boot without one. -/
theorem State.bootNow_recovery_sansMemory {s : State} (h : s.accepts = false) :
    s.bootNow.sansMemory = { s.sansMemory with boot := .recovery } := by
  simp [State.bootNow_recovery h]

section
variable {s : State}

theorem State.bootNow_accepted_boot (h : s.accepts = true) : s.bootNow.boot = .running :=
  State.eq_of_sansMemory (State.bootNow_accepted_sansMemory h) rfl

theorem State.bootNow_recovery_boot (h : s.accepts = false) : s.bootNow.boot = .recovery :=
  State.eq_of_sansMemory (State.bootNow_recovery_sansMemory h) rfl

theorem State.bootNow_accepted_threads (h : s.accepts = true) :
    s.bootNow.threads = s.threads.set none 0 (some (firmwareTask s.firmware s.nextDisp)) :=
  State.eq_of_sansMemory (State.bootNow_accepted_sansMemory h) rfl

theorem State.bootNow_recovery_threads (h : s.accepts = false) : s.bootNow.threads = s.threads :=
  State.eq_of_sansMemory (State.bootNow_recovery_sansMemory h) rfl

theorem State.bootNow_accepted_world0 (h : s.accepts = true) :
    s.bootNow.world 0 = { s.world 0 with ttw := Config.bootTtw s.firmware &&& ttwMask } :=
  State.eq_of_sansMemory (f := fun t => t.world 0) (State.bootNow_accepted_sansMemory h) (Tbl.get_set _ _ _ _)

/-- No other world changes. -/
theorem State.bootNow_world (w : Nat) (h : w ≠ 0 ∨ s.accepts = false) : s.bootNow.world w = s.world w := by
  cases ok : s.accepts with
  | true =>
    have hw : w ≠ 0 := h.resolve_right (by simp [ok])
    exact State.eq_of_sansMemory (f := fun t => t.world w) (State.bootNow_accepted_sansMemory ok) (Tbl.get_set_ne _ _ _ hw)
  | false => exact State.eq_of_sansMemory (f := fun t => t.world w) (State.bootNow_recovery_sansMemory ok) rfl

end

/-- The machine but for what boot sets: memory, the boot state, the worlds, the NP threads and the number of dispatches. -/
def State.sansBoot (s : State) : State := { s.sansMemory with boot := .pending, worlds := [], threads := [], nextDisp := 0 }

theorem State.bootNow_sansBoot (s : State) : s.bootNow.sansBoot = s.sansBoot := by
  cases h : s.accepts with
  | true => exact State.eq_of_sansMemory (State.bootNow_accepted_sansMemory h) rfl
  | false => exact State.eq_of_sansMemory (State.bootNow_recovery_sansMemory h) rfl

/-- Boot leaves what it does not set. -/
theorem State.bootNow_keeps {α : Sort _} {f : State → α} (s : State) (hf : ∀ t : State, f t.sansBoot = f t := by intros; rfl) :
    f s.bootNow = f s := by
  rw [← hf, s.bootNow_sansBoot, hf]

theorem State.bootNow_boot_ne_pending (s : State) : s.bootNow.boot ≠ .pending := by
  cases h : s.accepts with
  | true => simp [State.bootNow_accepted_boot h]
  | false => simp [State.bootNow_recovery_boot h]

/-- Where boot writes: the status, and the granules of an accepted image's bytes. -/
def State.bootWrites (s : State) (a : Nat) : Prop :=
  (bar0Pa ≤ a ∧ a < bar0Pa + 8) ∨ (s.accepts = true ∧ ∃ b ∈ Config.bootLoad s.firmware, a / 64 = b.1 % 2 ^ 39 / 64)

/-- In memory at rest it writes nowhere else. -/
theorem State.bootNow_wroteOnly {s : State} (h : s.AtRest) : s.WroteOnly s.bootNow s.bootWrites := by
  have status : ∀ b, s.WroteOnly (s.booted b) s.bootWrites := fun b => by
    have poked := State.poke_wroteOnly (s := { s with boot := b }) ⟨h.dead, h.dup, h.motions⟩ bar0Pa
      (leBytes 8 (Config.bootStatus s.accepts).toNat)
    have written := poked.mono (q := s.bootWrites) fun a ha => .inl (by simpa [leBytes] using ha)
    exact ⟨written.rest, written.other, written.untagged⟩
  cases ok : s.accepts with
  | true =>
    rw [State.bootNow_accepted ok]
    have image := (status .running).trans (.foldl (Config.bootLoad s.firmware) (status .running).rest fun t e he ht =>
      (State.writePa_wroteOnly ht (e.1 % 2 ^ 39) e.2).mono fun a ha => .inr ⟨ok, e, he, ha⟩)
    exact ⟨⟨image.rest.dead, image.rest.dup, image.rest.motions⟩, image.other, image.untagged⟩
  | false =>
    rw [State.bootNow_recovery ok]
    exact status .recovery

/-! ## The worlds after a reset -/

/-- Keys set one after the other from 0 up read as they were set. -/
theorem Tbl.get_foldl_set {α : Type} [DecidableEq α] (d : α) (g : Nat → α) (t : Tbl α) {n i : Nat} (hi : i < n) :
    Tbl.get d ((List.range n).foldl (fun u j => u.set d j (g j)) t) i = g i := by
  induction n with
  | zero => exact absurd hi (Nat.not_lt_zero i)
  | succ n ih =>
    rw [List.range_succ, List.foldl_append, List.foldl_cons, List.foldl_nil]
    by_cases last : i = n
    · subst last; exact Tbl.get_set _ _ _ _
    · rw [Tbl.get_set_ne _ _ _ last]; exact ih (by omega)

theorem resetWorlds_get (t : Tbl World) {w : Nat} (hw : w < 64) : (resetWorlds t).get .empty w =
    { (if w = 0 then World.reset0 else World.empty) with epochs := (t.get .empty w).epochs + 1 } :=
  Tbl.get_foldl_set World.empty
    (fun w => { (if w = 0 then World.reset0 else World.empty) with epochs := (t.get .empty w).epochs + 1 }) [] hw

/-! ## What the three resets share -/

/-- A state as another, but for memory, which is at rest, and for the time and the error ring. -/
structure State.AsPowered (c u : State) : Prop where
  rest : u.AtRest
  power : u.sansMemory = State.sansMemory { c with now := u.now, errRing := u.errRing }

theorem State.AsPowered.refl {c : State} (h : c.AtRest) : c.AsPowered c := ⟨h, rfl⟩

/-- Such a state under another time, error ring and memory. -/
theorem State.AsPowered.with {c u : State} (h : c.AsPowered u) (n : Nat) (r : Option (Nat × Nat)) (m : Tbl Byte)
    (e : Tbl (Option EncTag)) (k : Tbl Nat) : c.AsPowered { u with now := n, errRing := r, mem := m, enc := e, ecc := k } :=
  ⟨⟨h.rest.dead, h.rest.dup, h.rest.motions⟩, congrArg (fun t : State => { t with now := n, errRing := r }) h.power⟩

theorem State.coldState_asPowered (s : State) : s.coldState.AsPowered s.coldState := .refl ⟨rfl, rfl, rfl⟩

theorem State.warmState_asPowered (s : State) : s.coldState.AsPowered s.warmState := by
  unfold State.warmState
  exact s.coldState_asPowered.with _ _ _ _ _

theorem State.maintState_asPowered (s : State) (rows : List Nat) : s.coldState.AsPowered (s.maintState rows) := by
  unfold State.maintState
  exact s.warmState_asPowered.with _ _ _ _ _

namespace State.AsPowered

variable {c u : State} (h : c.AsPowered u)
include h

/-- What does not depend on memory, the time and the error ring is as it was. -/
theorem eq {α : Sort _} (f : State → α) (hf : ∀ t : State, f t.sansMemory = f t)
    (ht : ∀ (t : State) n r, f { t with now := n, errRing := r } = f t) : f u = f c := by
  rw [← hf, h.power, hf, ht]

theorem accepts_eq : u.accepts = c.accepts := h.eq _ (fun _ => rfl) fun _ _ _ => rfl
theorem firmware_eq : u.firmware = c.firmware := h.eq _ (fun _ => rfl) fun _ _ _ => rfl
theorem threads_eq : u.threads = c.threads := h.eq _ (fun _ => rfl) fun _ _ _ => rfl
theorem world_eq (w : Nat) : u.world w = c.world w := h.eq (fun t => t.world w) (fun _ => rfl) fun _ _ _ => rfl

/-- Boot then leaves what it does not set. -/
theorem bootNow_of {α : Sort _} {f : State → α} {v : α} (hc : f c = v) (hf : ∀ t : State, f t.sansBoot = f t := by intros; rfl)
    (ht : ∀ (t : State) n r, f { t with now := n, errRing := r } = f t := by intros; rfl) : f u.bootNow = v := by
  rw [u.bootNow_keeps hf, ← hc]
  exact h.eq f (fun t => (hf t.sansMemory).symm.trans (hf t)) ht

/-- A byte that no image writes and that lies below the register windows. -/
theorem bootNow_mem {a : Nat} (ha : a < 2 ^ 45)
    (free : c.accepts = true → ∀ b ∈ Config.bootLoad c.firmware, b.1 % 2 ^ 39 / 64 ≠ a / 64) :
    u.bootNow.mem.get 0 a = u.mem.get 0 a := by
  refine (State.bootNow_wroteOnly h.rest).other a ?_
  rw [State.bootWrites, h.accepts_eq, h.firmware_eq]
  rintro (⟨low, -⟩ | ⟨ok, b, hb, same⟩)
  · simp only [bar0Pa] at low; omega
  · exact free ok b hb same.symm

end State.AsPowered

theorem State.coldState_worlds (s : State) : s.coldState.worlds = resetWorlds s.worlds := by rw [State.coldState]

theorem State.coldState_world (s : State) {w : Nat} (hw : w < 64) : s.coldState.world w =
    { (if w = 0 then World.reset0 else World.empty) with epochs := (s.world w).epochs + 1 } := by
  rw [State.world, State.coldState_worlds, resetWorlds_get _ hw, State.world]

/-- No world has a partition, a translation word or a key after a reset. -/
theorem State.coldState_world_bare (s : State) {w : Nat} (hw : w < 64) : (s.coldState.world w).part = none ∧
    (s.coldState.world w).ttw = 0 ∧ (s.coldState.world w).memKey = none ∧ (s.coldState.world w).wkGens = [] := by
  rw [s.coldState_world hw]
  split <;> exact ⟨rfl, rfl, rfl, rfl⟩

theorem firmwareTask_control (img : Tbl Byte) (disp : Nat) : (firmwareTask img disp).control = true := by
  simp [Ctx.control, firmwareTask, placedTask]

/-- After a reset and boot no world has a partition or a key, and none but world 0 a translation word. -/
theorem State.AsPowered.bootNow_world_bare {s u : State} (h : s.coldState.AsPowered u) {w : Nat} (hw : w < 64) :
    (u.bootNow.world w).part = none ∧ (w ≠ 0 → (u.bootNow.world w).ttw = 0) ∧ (u.bootNow.world w).memKey = none ∧
      (u.bootNow.world w).wkGens = [] := by
  obtain ⟨part, ttw, memKey, wkGens⟩ := s.coldState_world_bare hw
  rw [← h.world_eq w] at part ttw memKey wkGens
  by_cases changed : w = 0 ∧ u.accepts = true
  · obtain ⟨rfl, yes⟩ := changed
    rw [State.bootNow_accepted_world0 yes]
    exact ⟨part, fun h => absurd rfl h, memKey, wkGens⟩
  · have same : w ≠ 0 ∨ u.accepts = false := by cases ok : u.accepts <;> simp_all
    rw [State.bootNow_world w same]
    exact ⟨part, fun _ => ttw, memKey, wkGens⟩

/-! ## What the resets leave of memory -/

theorem windowOf_ne_host {a : Nat} (ha : a < 2 ^ 45) : windowOf a ≠ some .host := by
  simp only [windowOf, if_pos ha]
  repeat' split
  all_goals simp

/-- Above device memory stand the host's and the register windows. -/
theorem windowOf_high {a : Nat} (ha : 2 ^ 45 ≤ a) : windowOf a = none ∨ windowOf a = some .host ∨ windowOf a = some .device := by
  unfold windowOf
  rw [if_neg (by omega), if_neg (by omega), if_neg (by omega), if_neg (by omega), if_neg (by omega), if_neg (by omega)]
  repeat' split
  all_goals simp

theorem lt_of_tiered {a : Nat} (h : tiered a = true) : a < 2 ^ 45 := by
  refine Nat.lt_of_not_le fun high => ?_
  rcases windowOf_high high with window | window | window <;> simp [tiered, window] at h

/-- Below the host window a cold reset leaves nothing. -/
theorem State.coldState_mem {s : State} (wf : s.mem.wf 0 = true) {a : Nat} (ha : a < 2 ^ 45) : s.coldState.mem.get 0 a = 0 :=
  (Tbl.get_filter 0 (fun a => windowOf a == some .host) wf a).trans (if_neg (by simpa using windowOf_ne_host ha))

theorem State.warmState_mem_eq {s : State} (live : s.dead = []) : s.warmState.mem = s.mem.filter fun e => survives e.1 := by
  simp [State.warmState, live, Tbl.keys]

theorem State.warmState_mem {s : State} (wf : s.mem.wf 0 = true) (live : s.dead = []) (a : Nat) :
    s.warmState.mem.get 0 a = if survives a = true then s.mem.get 0 a else 0 := by
  rw [State.warmState_mem_eq live]
  exact Tbl.get_filter 0 survives wf a

theorem State.maintState_mem {s : State} (wf : s.mem.wf 0 = true) (live : s.dead = []) (rows : List Nat) (a : Nat) :
    (s.maintState rows).mem.get 0 a = if onModule a = true then 0 else if survives a = true then s.mem.get 0 a else 0 := by
  have kept : s.warmState.mem.wf 0 = true := by
    rw [State.warmState_mem_eq live]
    exact Tbl.wf_filter 0 _ _ wf
  rw [← State.warmState_mem wf live]
  refine (Tbl.get_filter 0 (fun a => !onModule a) kept a).trans ?_
  cases onModule a <;> rfl

theorem survives_of_tiered {a : Nat} (h : tiered a = true) : survives a = true := by
  unfold tiered at h
  unfold survives
  split at h <;> simp_all

/-! ## The mailbox (R437) -/

/-- Bytes put in a table leave the keys below them. -/
theorem Tbl.get_putBytes_lt (l : List Byte) (t : Tbl Byte) (off k : Nat) {i : Nat} (hi : i < k) :
    Tbl.get 0 ((l.zipIdx k).foldl (fun t (b, i) => t.set 0 (off + i) b) t) (off + i) = t.get 0 (off + i) := by
  induction l generalizing t k with
  | nil => rfl
  | cons b l ih => exact (ih _ (k + 1) (by omega)).trans (Tbl.get_set_ne _ _ _ (by omega))

/-- Bytes put in a table read as they were put. -/
theorem Tbl.get_putBytes (l : List Byte) (t : Tbl Byte) (off k : Nat) {i : Nat} (hi : i < l.length) :
    Tbl.get 0 ((l.zipIdx k).foldl (fun t (b, i) => t.set 0 (off + i) b) t) (off + (k + i)) = l.getD i 0 := by
  induction l generalizing t k i with
  | nil => simp at hi
  | cons b l ih =>
    cases i with
    | zero => exact (Tbl.get_putBytes_lt l _ off (k + 1) (Nat.lt_succ_self k)).trans (Tbl.get_set _ _ _ _)
    | succ i =>
      have next := ih (t.set 0 (off + k) b) (k + 1) (Nat.lt_of_succ_lt_succ hi)
      rw [show k + 1 + i = k + (i + 1) by omega] at next
      exact next

/-- The host writes the flash in recovery alone. -/
theorem execFirmwareMailboxWrite_running {s : State} (h : s.boot ≠ .recovery) {off : Nat} {l : List Byte}
    (fits : off + l.length ≤ bar0Size) : execFirmwareMailboxWrite off l s = .next (s.poke (bar0Pa + off) l) := by
  rw [execFirmwareMailboxWrite, if_neg (by omega), if_neg h]

theorem execFirmwareMailboxWrite_recovery {s : State} (h : s.boot = .recovery) {off : Nat} {l : List Byte}
    (fits : off + l.length ≤ bar0Size) : execFirmwareMailboxWrite off l s =
      .next { s with flashA := l.zipIdx.foldl (fun t (b, i) => t.set 0 (off + i) b) s.flashA }.bootNow := by
  rw [execFirmwareMailboxWrite, if_neg (by omega), if_pos h]

/-! ## Power-on -/

theorem State.reset_world (w : Nat) : State.reset.world w = if w = 0 then World.reset0 else World.empty := by
  rcases w with _ | w
  · rfl
  · simp [State.world, State.reset, Tbl.get]

theorem State.reset_quota (w k : Nat) : State.reset.quota w k = if w = 0 ∧ k = 16 then 512 else 0 := by
  rw [State.quota, State.reset_world]
  by_cases hw : w = 0
  · by_cases hk : k = 16 <;> simp [hw, hk, World.reset0, Tbl.get]
  · simp [hw, World.empty]

end Sys2Proof.Machine

/-- Settles O59: every field of the reset state by its value; only world 0 is listed, with its quota. -/
theorem resetState : Obligations.ResetState := by
  refine ⟨rfl, rfl, rfl, rfl, fun _ => rfl, fun _ => rfl, fun w => ?_, State.reset_quota, fun _ => rfl, fun _ => rfl, fun _ => rfl,
    fun _ => rfl, fun _ => rfl, fun _ => rfl, rfl, rfl, rfl, rfl, rfl⟩
  rw [State.reset_world]
  split <;> exact ⟨rfl, rfl, rfl, rfl, rfl⟩

/-- Settles O57: each reset leaves the power-on state but for the time, the error ring and memory, from which boot then runs; memory is
read off what each reset keeps, where no image's byte stands. -/
theorem resets : Obligations.Resets := by
  intro s accepted img kept runs fresh
  have accepts : accepted ↔ s.coldState.accepts = true := (Bool.or_eq_true _ _).symm.to_iff
  have booted : ∀ u, s.coldState.AsPowered u → fresh u.bootNow := by
    intro u h
    have firmware : u.firmware = img := h.firmware_eq
    have same : u.accepts = s.coldState.accepts := h.accepts_eq
    have runs : runs u.bootNow := by
      refine ⟨fun no => ?_, fun yes => ?_⟩
      · have no : u.accepts = false := by rw [same]; simpa [accepts] using no
        obtain ⟨-, ttw, -⟩ := s.coldState_world_bare (w := 0) (by omega)
        rw [← h.world_eq, ← State.bootNow_world 0 (.inr no)] at ttw
        exact ⟨State.bootNow_recovery_boot no, (State.bootNow_recovery_threads no).trans h.threads_eq, ttw⟩
      · have yes : u.accepts = true := by rw [same]; exact accepts.mp yes
        have control := firmwareTask_control img u.nextDisp
        refine ⟨State.bootNow_accepted_boot yes, ?_, firmwareTask img u.nextDisp, ?_, rfl, control, rfl, rfl, rfl, rfl, rfl⟩
        · rw [State.bootNow_accepted_world0 yes, firmware]; rfl
        · rw [State.bootNow_accepted_threads yes, firmware, h.threads_eq]; rfl
    have untouched := (State.bootNow_wroteOnly h.rest).rest.dead
    exact ⟨runs, h.bootNow_of rfl, h.bootNow_of rfl, h.bootNow_of rfl, h.bootNow_of rfl, h.bootNow_of rfl, h.bootNow_of rfl,
      h.bootNow_of rfl, h.bootNow_of rfl, h.bootNow_of rfl, h.bootNow_of rfl, h.bootNow_of rfl, untouched, h.bootNow_of rfl,
      h.bootNow_of rfl, h.bootNow_of rfl, h.bootNow_of rfl, h.bootNow_of rfl, h.bootNow_of rfl, h.bootNow_of rfl,
      h.bootNow_of rfl, h.bootNow_of rfl, h.bootNow_of rfl, h.bootNow_of rfl, h.bootNow_of rfl,
      fun w hw => h.bootNow_world_bare hw⟩
  have mem : ∀ u, s.coldState.AsPowered u → ∀ a, a < 2 ^ 45 → kept a → u.bootNow.mem.get 0 a = u.mem.get 0 a :=
    fun u h a ha free => h.bootNow_mem ha fun ok => free (accepts.mpr ok)
  refine ⟨⟨_, rfl, booted _ s.coldState_asPowered, ?_, ?_, ?_, ?_⟩, ⟨_, rfl, booted _ s.warmState_asPowered, ?_, ?_, ?_⟩,
    fun rows => ⟨_, rfl, booted _ (s.maintState_asPowered rows), ?_, ?_⟩, ?_, ?_, ?_, ?_⟩
  · exact State.bootNow_keeps s.coldState
  · exact State.bootNow_keeps s.coldState
  · exact (State.bootNow_wroteOnly s.coldState_asPowered.rest).untagged rfl
  · exact fun wf a ha free => (mem _ s.coldState_asPowered a ha free).trans (State.coldState_mem wf ha)
  · exact State.bootNow_keeps s.warmState
  · exact State.bootNow_keeps s.warmState
  · intro wf live a ha free
    rw [mem _ s.warmState_asPowered a (lt_of_tiered ha) free, State.warmState_mem wf live, if_pos (survives_of_tiered ha)]
  · exact State.bootNow_keeps (s.maintState rows)
  · intro wf live a ha free
    rw [mem _ (s.maintState_asPowered rows) a ha free, State.maintState_mem wf live]
    have device := windowOf_ne_host ha
    cases window : windowOf a with
    | none => simp [onModule, survives, window]
    | some x => cases x <;> simp_all [onModule, survives]
  · intro p hp
    exact ⟨_, Nat.le_of_lt_succ (Nat.mod_lt _ (by omega)), congrArg Host.Outcome.next (if_neg hp)⟩
  · intro d c hd above t
    exact if_neg (by omega)
  · intro d hd
    exact if_neg (by omega)
  · intro off l fits
    refine ⟨fun h => execFirmwareMailboxWrite_running h fits, fun h =>
      ⟨_, execFirmwareMailboxWrite_recovery h fits, State.bootNow_boot_ne_pending _, State.bootNow_keeps _, fun i hi => ?_⟩⟩
    rw [State.bootNow_keeps (f := State.flashA)]
    simpa using Tbl.get_putBytes l s.flashA off 0 hi
end

section
/-! SUPPORT. Notify registers, lanterns, timers and time (R73 to R78). -/

open Sys2Proof Sys2Proof.Machine

namespace Sys2Proof.Machine

/-! ## The bindings stay -/

theorem State.postOrHold_nbind (s : State) (kind w cls oqn : Nat) (payload : List W64) (from_ : Option Place) :
    (s.postOrHold kind w cls oqn payload from_).nbind = s.nbind := by
  unfold State.postOrHold; split <;> rfl

theorem State.dieReport_nbind (s : State) (a : W64) (cause : Nat) (c d : W64) : (s.dieReport a cause c d none).nbind = s.nbind :=
  s.postOrHold_nbind ..

/-- A lantern that is not pending, or that meets a gated path, stays. -/
theorem State.lanternPost_idle {s : State} {r : Nat} (h : (s.lanterns.get .empty r).pending = false ∨ s.gate ≠ .running) :
    s.lanternPost r = s := by
  unfold State.lanternPost
  exact if_pos (by simpa using h)

theorem State.lanternDiscard_nbind (s : State) (r : Nat) : (s.lanternDiscard r).nbind = s.nbind := by
  unfold State.lanternDiscard
  split
  · exact State.dieReport_nbind ..
  · rfl

theorem State.lanternPost_nbind (s : State) (r : Nat) : (s.lanternPost r).nbind = s.nbind := by
  unfold State.lanternPost
  dsimp only
  split
  · rfl
  · split
    · exact s.lanternDiscard_nbind r
    · split <;> rfl

/-- A pending lantern where the path runs: discarded without a binding, posted where its world has room, and kept otherwise (R74). -/
theorem State.lanternPost_pending {s : State} {r : Nat} (pending : (s.lanterns.get .empty r).pending = true)
    (runs : s.gate = .running) :
    let b := s.nbind.get 0 r
    let cleared : State := { s with lanterns := s.lanterns.set .empty r .empty }
    s.lanternPost r = if nbEn b = false then cleared.dieReport 0 Cause.notifyDiscard 0 (w64 r) none
      else if s.eventRoom (nbWorld b) (nbClass b) = true then
        cleared.postNotify r (s.lanterns.get .empty r).value (s.lanterns.get .empty r).count
      else s := by
  intro b cleared
  unfold State.lanternPost State.lanternDiscard State.notifyDiscard State.mayPostNotify
  cases en : nbEn b <;> cases room : s.eventRoom (nbWorld b) (nbClass b) <;> simp_all [b, cleared]

/-! ## Writes to notify registers -/

/-- What the lanterns up to a register's own can post has been posted. -/
def State.lanternsPosted (s : State) (r : Nat) : State :=
  (s.lanterns.keys.filter fun k => decide (k ≤ r)).foldl State.lanternPost s

theorem State.lanternsPosted_nbind (s : State) (r : Nat) : (s.lanternsPosted r).nbind = s.nbind :=
  foldl_keeps (P := fun t : State => t.nbind = s.nbind) (fun t k h => (t.lanternPost_nbind k).trans h) _ s rfl

theorem State.lanternsPosted_idle {s : State} {r : Nat} (h : ∀ k, k ≤ r → (s.lanterns.get .empty k).pending = false) :
    s.lanternsPosted r = s := by
  have idle : ∀ l : List Nat, (∀ k ∈ l, k ≤ r) → l.foldl State.lanternPost s = s := by
    intro l
    induction l with
    | nil => exact fun _ => rfl
    | cons k l ih =>
      intro below
      rw [List.foldl_cons, State.lanternPost_idle (.inl (h k (below k (List.mem_cons_self ..))))]
      exact ih fun j hj => below j (List.mem_cons_of_mem _ hj)
  exact idle _ fun k hk => by simpa using (List.mem_filter.mp hk).2

/-- An accepted write posts where the path can post, and is kept in its lantern otherwise. -/
theorem State.notifyAccept_eq (s : State) (r : Nat) (v : W64) :
    let b := s.nbind.get 0 r
    let u := s.lanternsPosted r
    s.notifyAccept r v = if u.gate = .running ∧ u.eventRoom (nbWorld b) (nbClass b) = true then
        u.post 0x07 (nbWorld b) (nbClass b) (nbOqn b) [v, w64 (r * 2 ^ 16 + 1)]
      else { u with lanterns := u.lanterns.set .empty r ((u.lanterns.get Lantern.empty r).take v) }.wake := by
  intro b u
  have bound : u.nbind.get 0 r = b := by rw [s.lanternsPosted_nbind]
  have unfolded : s.notifyAccept r v = if u.mayPostNotify r then u.postNotify r v 1
      else { u with lanterns := u.lanterns.set .empty r ((u.lanterns.get Lantern.empty r).take v) }.wake := rfl
  rw [unfolded]
  simp only [State.mayPostNotify, State.postNotify, bound, Bool.and_eq_true, beq_iff_eq]

/-- Who writes an aperture's register. -/
def notifyWriter (w : NotifyWrite) : Notifier :=
  match w.peer with
  | some m => .peer m
  | none => .host

theorem execNotifyWrite_eq (w : NotifyWrite) (s : State) : execNotifyWrite w s =
    .next (if w.read then { s with outbox := s.outbox ++ [.notifyRead w.reg 0] }
      else if w.wellFormed && decide (w.reg < 4096) then s.notify w.reg w.value (notifyWriter w)
      else s.notifyDiscard ((notifyWriter w).payload w.reg true)) := rfl

/-- The payload of a discarded write names the register, the peer and whether the access was malformed. -/
theorem notifyWriter_payload (w : NotifyWrite) (r : Nat) (bad : Bool) : (notifyWriter w).payload r bad =
    w64 ((r % 4096 + if bad then 2 ^ 23 else 0) + match w.peer with | none => 0 | some m => m % 2 ^ 10 * 2 ^ 12 + 2 ^ 22) := by
  unfold notifyWriter Notifier.payload
  cases w.peer <;> exact congrArg w64 (by dsimp only; omega)

/-- A binding lets a write in: it is enabled, and takes a peer's where the write is one. -/
def notifyAllowed (w : NotifyWrite) (b : W64) : Prop := nbEn b = true ∧ (w.peer ≠ none → nbPeer b = true)

theorem State.notify_allowed {s : State} {w : NotifyWrite} (h : notifyAllowed w (s.nbind.get 0 w.reg)) (v : W64) :
    s.notify w.reg v (notifyWriter w) = s.notifyAccept w.reg v := by
  obtain ⟨en, peer⟩ := h
  unfold State.notify notifyWriter
  cases hp : w.peer <;> simp_all

theorem State.notify_refused {s : State} {w : NotifyWrite} (h : ¬notifyAllowed w (s.nbind.get 0 w.reg)) (v : W64) :
    s.notify w.reg v (notifyWriter w) = s.notifyDiscard ((notifyWriter w).payload w.reg false) := by
  unfold notifyAllowed at h
  unfold State.notify
  refine if_pos ?_
  unfold notifyWriter
  cases hp : w.peer <;> cases en : nbEn (s.nbind.get 0 w.reg) <;> simp_all

theorem execNotifyWrite_read {w : NotifyWrite} (read : w.read = true) (s : State) :
    execNotifyWrite w s = .next { s with outbox := s.outbox ++ [.notifyRead w.reg 0] } := by
  rw [execNotifyWrite_eq, if_pos read]

theorem execNotifyWrite_malformed {w : NotifyWrite} (write : w.read = false) (bad : w.wellFormed = false ∨ 4096 ≤ w.reg)
    (s : State) : execNotifyWrite w s = .next (s.notifyDiscard ((notifyWriter w).payload w.reg true)) := by
  have unformed : ¬(w.wellFormed && decide (w.reg < 4096)) = true := by rcases bad with h | h <;> simp [h]
  rw [execNotifyWrite_eq, if_neg (by simp [write]), if_neg unformed]

theorem execNotifyWrite_formed {w : NotifyWrite} (write : w.read = false) (low : w.reg < 4096) (formed : w.wellFormed = true)
    (s : State) : execNotifyWrite w s = .next (s.notify w.reg w.value (notifyWriter w)) := by
  rw [execNotifyWrite_eq, if_neg (by simp [write]), if_pos (by simp [low, formed])]

/-! ## Timers -/

/-- A timer that is not armed, or whose deadline is still to come, has not passed. -/
theorem Timer.passed_none {t : Timer} {now : Nat} (h : t.armed = false ∨ now < t.deadline) : t.passed now = none :=
  if_pos (by simpa using h)

theorem Timer.passed_once {t : Timer} {now : Nat} (armed : t.armed = true) (due : t.deadline ≤ now) (h : t.period = 0) :
    t.passed now = some ({ t with armed := false }, t.deadline) := by
  simp [Timer.passed, armed, Nat.not_lt.mpr due, h]

/-- A periodic timer has passed the last of its deadlines that is not after the instant. -/
theorem Timer.passed_periodic {t : Timer} {now k : Nat} (armed : t.armed = true) (h : t.period ≠ 0)
    (from_ : t.deadline + k * t.period ≤ now) (till : now < t.deadline + (k + 1) * t.period) :
    t.passed now = some ({ t with deadline := t.deadline + (k + 1) * t.period }, t.deadline + k * t.period) := by
  have due : t.deadline ≤ now := by omega
  have count : (now - t.deadline) / t.period = k := Nat.div_eq_of_lt_le (by omega) (by omega)
  have next : t.deadline + k * t.period + t.period = t.deadline + (k + 1) * t.period := by rw [Nat.succ_mul, Nat.add_assoc]
  simp [Timer.passed, armed, Nat.not_lt.mpr due, h, count, next]

theorem Timer.next_once {t : Timer} (h : t.period = 0) : t.next = { t with armed := false } := if_pos h

theorem Timer.next_periodic {t : Timer} (h : t.period ≠ 0) : t.next = { t with deadline := t.deadline + t.period } := if_neg h

/-- The event of a timer posted, the timer left without one. -/
def State.timerPosts (s : State) (w n : Nat) (t : Timer) (d : Nat) : State :=
  (s.setTimer w n { t with due := none }).post 0x06 w t.cls t.oqn [w64 n, w64 d]

section
variable {s : State} {w n : Nat}

/-- A held event that has room is posted, with the latest deadline passed by then. -/
theorem execTimerExpiry_held {d : Nat} {u : Timer × Nat} (held : (s.timer w n).due = some d)
    (room : s.eventRoom w (s.timer w n).cls = true) (passed : ((s.timer w n).passed s.now).getD (s.timer w n, d) = u) :
    execTimerExpiry w n s = .next (s.timerPosts w n u.1 u.2) := by
  unfold execTimerExpiry
  simp only [held, room, passed]
  rfl

/-- Where no held event has room, a timer waits for its deadline. -/
theorem execTimerExpiry_early (h : (s.timer w n).due = none ∨ s.eventRoom w (s.timer w n).cls = false)
    (early : (s.timer w n).armed = false ∨ s.now < (s.timer w n).deadline) : execTimerExpiry w n s = .next s := by
  unfold execTimerExpiry
  dsimp only
  split
  · simp_all
  · exact if_pos (by simpa using early)

/-- At its deadline it posts its event where there is room. -/
theorem execTimerExpiry_posts {u : Timer} (armed : (s.timer w n).armed = true) (due : (s.timer w n).deadline ≤ s.now)
    (fresh : (s.timer w n).due = none) (room : s.eventRoom w (s.timer w n).cls = true) (next : (s.timer w n).next = u) :
    execTimerExpiry w n s = .next (s.timerPosts w n u (s.timer w n).deadline) := by
  unfold execTimerExpiry
  simp only [fresh]
  rw [if_neg (by simp [armed, due]), if_pos room, next]
  rfl

/-- And holds it otherwise. -/
theorem execTimerExpiry_holds {u : Timer} (armed : (s.timer w n).armed = true) (due : (s.timer w n).deadline ≤ s.now)
    (full : s.eventRoom w (s.timer w n).cls = false) (next : (s.timer w n).next = u) :
    execTimerExpiry w n s = .next (s.setTimer w n { u with due := some (s.timer w n).deadline }) := by
  unfold execTimerExpiry
  dsimp only
  split
  · simp_all
  · rw [if_neg (by simp [armed, due]), if_neg (by simp [full]), next]

end

/-! ## Time -/

/-- No timer and no running frame: nothing is passed. -/
theorem State.passed_none {s : State} (timers : s.timers = []) (frames : ∀ c, ftEn (s.core c).ftctl = false) : s.passed = none := by
  have edges : s.cores.filterMap (fun (c, k) => if s.edgeDue c then some (k.nextEdge, Sum.inr c) else none) =
      ([] : List (Nat × Sum Nat Nat)) := by
    rw [List.filterMap_eq_nil_iff]
    intro e _
    simp [State.edgeDue, frames]
  simp [State.passed, timers, edges]

theorem State.passAll_idle {s : State} (h : s.passed = none) (n : Nat) : State.passAll n s = s := by
  cases n with
  | zero => rfl
  | succ n => rw [State.passAll, h]

/-- A core reads as one that is listed, or as an empty one. -/
theorem State.core_mem (s : State) (c : Nat) : s.core c = .empty ∨ ∃ p ∈ s.cores, s.core c = p.2 := by
  unfold State.core
  induction s.cores with
  | nil => exact .inl rfl
  | cons e l ih =>
    obtain ⟨k, x⟩ := e
    rw [Tbl.get]
    by_cases here : c = k
    · exact .inr ⟨(k, x), List.mem_cons_self .., if_pos here⟩
    rw [if_neg here]
    by_cases below : c < k
    · exact .inl (if_pos below)
    · rw [if_neg below]
      exact ih.imp id fun ⟨p, hp, eq⟩ => ⟨p, List.mem_cons_of_mem _ hp, eq⟩

theorem State.wake_running {s : State} (h : s.gate ≠ .gated) : s.wake = s := if_neg h

theorem State.wake_gated {s : State} (h : s.gate = .gated) :
    ∃ n, s.now ≤ n ∧ n ≤ s.now + 20000 ∧ s.wake = { s with gate := .waking n } :=
  ⟨s.now + Config.wakeNs s.seq % 20001, Nat.le_add_right .., by omega, if_pos h⟩

/-- A taken write ORs into a pending lantern and counts, up to the largest count. -/
theorem Lantern.take_pending {l : Lantern} (h : l.pending = true) (v : W64) :
    l.take v = { value := l.value ||| v, count := min (l.count + 1) 65535, pending := true } := by
  have count : (if l.count < 65535 then l.count + 1 else 65535) = min (l.count + 1) 65535 := by
    split <;> omega
  simp [Lantern.take, h, count]

theorem Lantern.take_idle {l : Lantern} (h : l.pending = false) (v : W64) :
    l.take v = { value := v, count := 1, pending := true } := by
  simp [Lantern.take, h]

/-! ## Registers -/

theorem State.modAgent_eq {s : State} {ag : Agent} {x : Ctx} (h : s.ctx ag.place = some x) (g : Stream → Stream) :
    s.modAgent ag g = s.putStream ag x (g (x.stream ag)) := by
  simp [State.modAgent, h, State.putStream, State.put]

end Sys2Proof.Machine

/-- Settles O54: each event by the lemma of the operation that it runs. -/
theorem noticesAndTimers : Obligations.NoticesAndTimers := by
  intro s
  refine ⟨fun w => ?_, State.wake_running, State.wake_gated, fun r => ?_, fun w n => ?_, fun ns => ?_, fun v => ?_, fun w v hw => ?_,
    fun ag x v hx => ?_⟩
  · intro b u l may allowed from_ discarded kept
    have accepts : w.read = false → w.reg < 4096 → w.wellFormed = true → allowed →
        exec (.notifyWrite w) s = .next (s.notifyAccept w.reg w.value) := fun write low formed yes =>
      (execNotifyWrite_formed write low formed s).trans (congrArg _ (State.notify_allowed yes _))
    have waits : ∀ write low formed, allowed → ¬may → exec (.notifyWrite w) s = kept (l.take w.value) :=
      fun write low formed yes wait => (accepts write low formed yes).trans
        (congrArg Host.Outcome.next ((s.notifyAccept_eq w.reg w.value).trans (if_neg wait)))
    refine ⟨State.lanternsPosted_idle, fun read => execNotifyWrite_read read s, fun write bad => ?_, fun write low formed =>
      ⟨fun no => ?_, fun yes post => ?_, fun yes idle wait => ?_, fun yes pending wait => ?_⟩⟩
    · refine (execNotifyWrite_malformed write bad s).trans ?_
      rw [notifyWriter_payload]; rfl
    · refine (execNotifyWrite_formed write low formed s).trans ?_
      rw [State.notify_refused no, notifyWriter_payload, Nat.mod_eq_of_lt low]; rfl
    · exact (accepts write low formed yes).trans
        (congrArg Host.Outcome.next ((s.notifyAccept_eq w.reg w.value).trans (if_pos post)))
    · rw [waits write low formed yes wait, Lantern.take_idle idle]
    · rw [waits write low formed yes wait, Lantern.take_pending pending]
  · intro b l cleared room
    refine ⟨fun idle => congrArg Host.Outcome.next (State.lanternPost_idle idle), fun pending runs => ?_⟩
    have posted := State.lanternPost_pending pending runs
    refine ⟨fun off => congrArg Host.Outcome.next (posted.trans (if_pos off)), fun on yes => ?_, fun on no => ?_⟩
    · exact congrArg Host.Outcome.next (posted.trans ((if_neg ((Bool.not_eq_false _).mpr on)).trans (if_pos yes)))
    · exact congrArg Host.Outcome.next
        (posted.trans ((if_neg ((Bool.not_eq_false _).mpr on)).trans (if_neg ((Bool.not_eq_true _).mpr no))))
  · intro t set_ posts gone again
    refine ⟨fun d held room => ⟨fun early => ?_, fun armed due => ⟨fun once => ?_, fun k periodic from_ till => ?_⟩⟩,
      fun fresh => ⟨execTimerExpiry_early fresh, fun armed due => ⟨fun room => ?_, fun full =>
        ⟨fun once => ?_, fun periodic => ?_⟩⟩⟩⟩
    · exact execTimerExpiry_held held room (congrArg (·.getD (t, d)) (Timer.passed_none early))
    · exact execTimerExpiry_held held room (congrArg (·.getD (t, d)) (Timer.passed_once armed due once))
    · exact execTimerExpiry_held held room (congrArg (·.getD (t, d)) (Timer.passed_periodic armed periodic from_ till))
    · have fresh : t.due = none := fresh.resolve_right (by simp [room])
      exact ⟨fun once => execTimerExpiry_posts armed due fresh room (Timer.next_once once),
        fun periodic => execTimerExpiry_posts armed due fresh room (Timer.next_periodic periodic)⟩
    · exact execTimerExpiry_holds armed due full (Timer.next_once once)
    · exact execTimerExpiry_holds armed due full (Timer.next_periodic periodic)
  · refine ⟨fun short => if_pos short, fun long timers frames => ?_⟩
    have off : ∀ c, ftEn (State.core { s with now := s.now + ns } c).ftctl = false := fun c => by
      rcases State.core_mem s c with empty | ⟨p, hp, eq⟩
      · exact (congrArg (fun k : Core => ftEn k.ftctl) empty).trans (by decide)
      · exact (congrArg (fun k : Core => ftEn k.ftctl) eq).trans (frames p hp)
    have idle : State.passed { s with now := s.now + ns } = none := State.passed_none timers off
    exact (if_neg (by omega)).trans (congrArg Host.Outcome.next (State.passAll_idle idle _))
  · exact congrArg Host.Outcome.next rfl
  · exact congrArg Host.Outcome.next (if_neg (by omega))
  · exact congrArg Host.Outcome.next (State.modAgent_eq hx fun st => { st with fpstat := v &&& fpstatMask })
end

section
/-! SUPPORT. Writes of control registers (R249 to R251) and of ring descriptors (R183, R184). -/

open Sys2Proof Sys2Proof.Machine

namespace Sys2Proof.Machine

/-! ## Checks and waits -/

variable {s : State} {ag : Agent} {x : Ctx}

/-- A guarded word whose checks pass, whose guard is 1 and whose body faults. -/
theorem wordChecked_bodyFault (h : s.At ag x) {l : Legal} (hl : l.ok ag x.world = true) {checks : M Unit}
    (hc : checks s = .ok ((), s)) {pg : BitVec 3} (hp : (x.stream ag).pred pg.toNat = true) {body : M Unit} {f : FaultInfo}
    (hb : body (s.advanced ag x) = .error (.fault f)) :
    wordChecked l checks pg body s = .next ((s.logFault f).raise ag.place ag.code (f.atWord (x.stream ag).pc) 0) :=
  runBody_fault h (by simp [requireLegal_run h hl, hc, preg_run h, modStream_run h, hp]; exact hb)

/-- And one whose body waits. -/
theorem wordChecked_wait (h : s.At ag x) {l : Legal} (hl : l.ok ag x.world = true) {checks : M Unit}
    (hc : checks s = .ok ((), s)) {pg : BitVec 3} (hp : (x.stream ag).pred pg.toNat = true) {body : M Unit} {w : Wait}
    (hb : body (s.advanced ag x) = .error (.wait w)) :
    wordChecked l checks pg body s = .next (s.putStream ag x { x.stream ag with wait := some w }) :=
  runBody_wait h (by simp [requireLegal_run h hl, hc, preg_run h, modStream_run h, hp]; exact hb)

/-! ## The map (R249) -/

/-- What a row of the table says for an agent. -/
def rowReach (ag : Agent) (row : Nat × Nat × Reach × Reach × Reach) : Reach :=
  match ag with
  | .a _ => row.2.2.1
  | .e _ => row.2.2.2.1
  | .np _ => row.2.2.2.2

/-- A register of the table lies in a row. -/
theorem row_of_reach {n : Nat} {r : Reach} (h : Spec.reach ag n = some r) :
    ∃ row ∈ Spec.cregMap, row.1 ≤ n ∧ n ≤ row.2.1 ∧ rowReach ag row = r := by
  obtain ⟨row, found, eq⟩ := Option.map_eq_some_iff.mp h
  have within := List.find?_some found
  simp only [Bool.and_eq_true, decide_eq_true_eq] at within
  exact ⟨row, List.mem_of_find?_eq_some found, within.1, within.2, eq⟩

theorem reach_ring (c : Nat) {n : Nat} (hn : n < 8) : Spec.reach (.e c) (0x28 + n) = some .rw := by
  have ring : n = 0 ∨ n = 1 ∨ n = 2 ∨ n = 3 ∨ n = 4 ∨ n = 5 ∨ n = 6 ∨ n = 7 := by omega
  rcases ring with rfl | rfl | rfl | rfl | rfl | rfl | rfl | rfl <;> rfl

/-- The model's map is the table's. -/
theorem cregReach_of_reach {n : Nat} {r : Reach} (h : Spec.reach ag n = some r) : cregReach ag n = r := by
  obtain ⟨row, mem, above, below, eq⟩ := row_of_reach h
  simp only [Spec.cregMap, List.mem_cons, List.not_mem_nil, or_false] at mem
  subst eq
  rcases mem with rfl | rfl | rfl | rfl | rfl | rfl | rfl | rfl <;> cases ag <;> simp only [rowReach] at * <;>
    grind [cregReach]

/-! ## The word -/

section
variable {f : FmtI}

/-- The registers that may be written pass the checks of MTC. -/
theorem mtcCheck_rw (h : s.At ag x) {n : Nat} (hr : Spec.reach ag n = some .rw) : mtcCheck n s = .ok ((), s) := by
  have notRo : (Reach.rw != Reach.ro) = true := rfl
  have notNone : (Reach.rw != Reach.none) = true := rfl
  simp [mtcCheck, curAgent_run h, cregReach_of_reach hr, notRo, notNone]

theorem mtcCheck_ro (h : s.At ag x) {n : Nat} (hr : Spec.reach ag n = some .ro) :
    mtcCheck n s = .error (.fault { cause := Cause.illegalInstr, c := 0, d := 0, defer := false, log := none }) := by
  simp [mtcCheck, curAgent_run h, cregReach_of_reach hr]

theorem mtcCheck_none (h : s.At ag x) {n : Nat} (hr : Spec.reach ag n = some .none) :
    mtcCheck n s = .error (.fault { cause := Cause.stream, c := 0, d := 0, defer := false, log := none }) := by
  have notRo : (Reach.none != Reach.ro) = true := rfl
  simp [mtcCheck, curAgent_run h, cregReach_of_reach hr, notRo]

theorem execMtc_ro (h : s.At ag x) (hr : Spec.reach ag f.imm.toNat = some .ro) :
    execMtc f s = .next (s.stopped ag x Cause.illegalInstr 0) := wordChecked_fault (l := .any) h rfl (mtcCheck_ro h hr) _ _

theorem execMtc_none (h : s.At ag x) (hr : Spec.reach ag f.imm.toNat = some .none) :
    execMtc f s = .next (s.stopped ag x Cause.stream 0) := wordChecked_fault (l := .any) h rfl (mtcCheck_none h hr) _ _

variable (h : s.At ag x) (hr : Spec.reach ag f.imm.toNat = some .rw) (hp : (x.stream ag).pred f.pg.toNat = true)
include h hr hp

/-- MTC comes to the write of its register by a stream that has advanced. -/
theorem execMtc_writes {t : State} (hb : writeCreg f.imm.toNat ((x.stream ag).reg f.a.toNat) (s.advanced ag x) = .ok ((), t)) :
    execMtc f s = .next t :=
  wordChecked_ok h rfl (mtcCheck_rw h hr) hp (by simpa [sreg_run h.advanced] using hb)

/-- A write that changes the stream alone. -/
theorem execMtc_stream {n : Nat} {g : Stream → Stream} (hn : f.imm.toNat = n) (ready : Spec.cregReady ag x n)
    (hb : ∀ t y, t.At ag y → Spec.cregReady ag y n → writeCreg n ((x.stream ag).reg f.a.toNat) t = modStream g t) :
    execMtc f s = .next (s.putStream ag x (g (x.stream ag).advance)) := by
  subst hn
  refine execMtc_writes h hr hp ((hb _ _ h.advanced (by simpa [Spec.cregReady] using ready)).trans ?_)
  rw [modStream_run h.advanced]
  simp [State.advanced]

/-- A write that changes the context. -/
theorem execMtc_ctx {n : Nat} {g : Ctx → Ctx} (hn : f.imm.toNat = n) (ready : Spec.cregReady ag x n)
    (hb : ∀ t y, t.At ag y → Spec.cregReady ag y n → writeCreg n ((x.stream ag).reg f.a.toNat) t = modCtx g t) :
    execMtc f s = .next (s.put ag (g (x.setStream ag (x.stream ag).advance))) := by
  subst hn
  refine execMtc_writes h hr hp ((hb _ _ h.advanced (by simpa [Spec.cregReady] using ready)).trans ?_)
  rw [modCtx_run h.advanced]
  simp [State.advanced, State.putStream]

theorem execMtc_waits {w : Wait} (hb : writeCreg f.imm.toNat ((x.stream ag).reg f.a.toNat) (s.advanced ag x) = .error (.wait w)) :
    execMtc f s = .next (s.putStream ag x { x.stream ag with wait := some w }) :=
  wordChecked_wait h rfl (mtcCheck_rw h hr) hp (by simpa [sreg_run h.advanced] using hb)

/-- A check of the value that fails stops the task. -/
theorem execMtc_faults {cause : Nat} (named : Cause.named cause = true)
    (hb : writeCreg f.imm.toNat ((x.stream ag).reg f.a.toNat) (s.advanced ag x) =
      .error (.fault { cause, c := 0, d := 0, defer := false, log := none })) :
    execMtc f s = .next (s.stopped ag x cause 0) :=
  (wordChecked_bodyFault h rfl (mtcCheck_rw h hr) hp (by simpa [sreg_run h.advanced] using hb)).trans
    (by simp [FaultInfo.atWord, named, State.logFault, State.stopped])

end

/-! ## The registers -/

theorem fpctlOk_eq (v : W64) : fpctlOk v = decide ((v.extractLsb' 0 3).toNat < 5) := by
  rw [BitVec.extractLsb'_toNat]; rfl

theorem writeCreg_fpctl_bad {v : W64} (bad : fpctlOk v = false) :
    writeCreg 0x00 v s = .error (.fault { cause := Cause.illegalInstr, c := 0, d := 0, defer := false, log := none }) := by
  simp [writeCreg, bad]

theorem streamCtlWait_run (h : s.At ag x) (ready : (∃ c, ag = .e c) → x.ve = []) : streamCtlWait s = .ok ((), s) := by
  cases ag with
  | e c => simp [streamCtlWait, curAgent_run h, curCtx_run h, ready ⟨c, rfl⟩]
  | a c => simp [streamCtlWait, curAgent_run h]
  | np t => simp [streamCtlWait, curAgent_run h]

section
variable {n : Nat} {v : W64}

theorem writeCreg_fpctl (ok : fpctlOk v = true) (h : s.At ag x) (ready : Spec.cregReady ag x 0x00) :
    writeCreg 0x00 v s = modStream (fun st => { st with fpctl := v &&& fpctlMask }) s := by
  simp [writeCreg, ok, streamCtlWait_run h (ready.1 (by decide))]

theorem writeCreg_fpstat (h : s.At ag x) (ready : Spec.cregReady ag x 0x01) :
    writeCreg 0x01 v s = modStream (fun st => { st with fpstat := v &&& fpstatMask }) s := by
  simp [writeCreg, streamCtlWait_run h (ready.1 (by decide))]

theorem writeCreg_seedLow (h : s.At ag x) (ready : Spec.cregReady ag x 0x02) : writeCreg 0x02 v s =
    modStream (fun st => { st with lfsr := st.lfsr.extractLsb' 64 64 ++ v }) s := by
  simp [writeCreg, streamCtlWait_run h (ready.1 (by decide))]

theorem writeCreg_seedHigh (h : s.At ag x) (ready : Spec.cregReady ag x 0x03) : writeCreg 0x03 v s =
    modStream (fun st => { st with lfsr := v ++ st.lfsr.extractLsb' 0 64 }) s := by
  have low : ∀ r : BitVec 128, r.setWidth 64 = r.extractLsb' 0 64 := fun _ => BitVec.setWidth_eq_extractLsb' (by omega)
  simp [writeCreg, streamCtlWait_run h (ready.1 (by decide)), low]

theorem writeCreg_mxstat (h : s.At ag x) (ready : Spec.cregReady ag x 0x04) :
    writeCreg 0x04 v s = modCtx (fun x => { x with mxstat := v &&& mxstatMask }) s := by
  simp [writeCreg, curCtx_run h, ready.2 rfl]

theorem writeCreg_vw (low : 0x10 ≤ n) (high : n < 0x20) :
    writeCreg n v s = modCtx (fun x => { x with vw := x.vw.set 0 (n - 0x10) (v &&& vwMask) }) s := by
  simp (disch := omega) [writeCreg, if_neg, if_pos high]

theorem writeCreg_vshape : writeCreg 0x20 v s = modCtx (fun x => { x with vshape := v &&& vshapeMask }) s := by
  simp [writeCreg]

theorem writeCreg_vksc : writeCreg 0x21 v s = modCtx (fun x => { x with vksc := v &&& vkscMask }) s := by
  simp [writeCreg]

theorem writeCreg_swait (low : 0x34 ≤ n) :
    writeCreg n v s = modCtx (fun x => { x with swait := x.swait.set 0 (n - 0x34) (swaitWord v) }) s := by
  simp (disch := omega) [writeCreg, if_neg]

end

/-- A mask of three fields that clears the middle one. -/
theorem mask_middle {a b c : Nat} (x : BitVec a) (y : BitVec b) (z : BitVec c) :
    (x ++ y ++ z) &&& (BitVec.allOnes a ++ 0#b ++ BitVec.allOnes c) = x ++ 0#b ++ z := by
  simp [BitVec.and_append]

/-- A wait slot's word by its fields (R26). -/
theorem swaitWord_eq (v : W64) : swaitWord v = Spec.waitSlot v := by
  have kinds : ∀ wk : BitVec 2, wk = 0 ∨ wk = 1 ∨ wk = 2 ∨ wk = 3 := by decide
  have kind : bits v 62 2 = (v.extractLsb' 62 2).toNat := (BitVec.extractLsb'_toNat 62 2 v).symm
  have whole58 : v.extractLsb' 62 2 ++ v.extractLsb' 58 4 ++ v.extractLsb' 0 58 = v := by
    rw [field_join v 58 4 62 2 rfl, field_join v 0 58 58 6 rfl, field_all]
  have whole57 : v.extractLsb' 62 2 ++ v.extractLsb' 57 5 ++ v.extractLsb' 0 57 = v := by
    rw [field_join v 57 5 62 2 rfl, field_join v 0 57 57 7 rfl, field_all]
  have mask58 := mask_middle (v.extractLsb' 62 2) (v.extractLsb' 58 4) (v.extractLsb' 0 58)
  have mask57 := mask_middle (v.extractLsb' 62 2) (v.extractLsb' 57 5) (v.extractLsb' 0 57)
  rw [whole58] at mask58
  rw [whole57] at mask57
  unfold swaitWord Spec.waitSlot
  rw [kind]
  generalize v.extractLsb' 62 2 = wk at *
  rcases kinds wk with rfl | rfl | rfl | rfl
  · rfl
  · exact mask58
  · exact mask57
  · rfl

/-! ## Ring descriptors (R184) -/

/-- A listed entry replaced by one that a test treats alike. -/
theorem Tbl.any_set {α : Type} [DecidableEq α] {d : α} {p : Nat × α → Bool} {t : Tbl α} {i : Nat} {y : α}
    (listed : t.get d i ≠ d) (hy : y ≠ d) (same : p (i, y) = p (i, t.get d i)) : (Tbl.set d t i y).any p = t.any p := by
  induction t with
  | nil => exact absurd rfl listed
  | cons e t ih =>
    obtain ⟨k, v⟩ := e
    simp only [Tbl.get] at listed same
    simp only [Tbl.set]
    by_cases here : i = k
    · subst here
      simp only [if_true] at same
      simp [same, hy]
    by_cases below : i < k
    · simp [here, below] at listed
    · simp only [if_neg here, if_neg below] at listed same ⊢
      simp [ih listed same]

theorem Copy.holdsRing_iff (c : Copy) (core disp n : Nat) :
    c.holdsRing core disp n = true ↔ ∃ q ∈ c.slots, q.core = core ∧ q.disp = disp ∧ q.ring = n := by
  simp [Copy.holdsRing, and_assoc]

theorem State.ringCopies_iff (s : State) (core disp n : Nat) : s.ringCopies core disp n = true ↔
    (∃ c ∈ s.cores, ∃ p ∈ c.2.copies, ∃ q ∈ p.slots, q.core = core ∧ q.disp = disp ∧ q.ring = n) ∨
      ∃ v ∈ s.saved, ∃ p ∈ v.copies, ∃ q ∈ p.slots, q.core = core ∧ q.disp = disp ∧ q.ring = n := by
  simp [State.ringCopies, Copy.holdsRing_iff]

@[simp] theorem Core.setCtx_copies (k : Core) (x : Option Ctx) : (k.setCtx x).copies = k.copies := by
  unfold Core.setCtx; split <;> rfl
@[simp] theorem Core.setCtx_act (k : Core) (x : Option Ctx) : (k.setCtx x).act = k.act := by
  unfold Core.setCtx; split <;> rfl
@[simp] theorem Core.setCtx_shad (k : Core) (x : Option Ctx) : (k.setCtx x).shad = k.shad := by
  unfold Core.setCtx; split <;> rfl

theorem State.put_core (s : State) (c : Nat) (y : Ctx) : (s.put (.e c) y).core c = (s.core c).setCtx (some y) :=
  s.core_setCore c _

/-- A task's context replaced leaves every core's copies. -/
theorem State.ringCopies_put {c : Nat} (h : s.ctx (.core c) = some x) (y : Ctx) (core disp n : Nat) :
    (s.put (.e c) y).ringCopies core disp n = s.ringCopies core disp n := by
  have cores : (s.put (.e c) y).cores = s.cores.set .empty c ((s.core c).setCtx (some y)) := rfl
  have saved : (s.put (.e c) y).saved = s.saved := State.setCtx_saved ..
  unfold State.ringCopies
  rw [cores, saved, Tbl.any_set (Core.ctx_ne_empty h) (Core.setCtx_ne_empty _ y)]
  simp [State.core]

section
variable {c n : Nat} {v : W64} (h : s.At (.e c) x)
include h

theorem writeRgd_named (named : x.mcq.any (fun m => m.ring == some n) = true) : writeRgd n v s = .error (.wait .control) := by
  simp [writeRgd, curCtx_run h, curAgent_run h, named]

variable (unnamed : x.mcq.any (fun m => m.ring == some n) = false)
include unnamed

theorem writeRgd_copied (copied : s.ringCopies c x.disp n = true) : writeRgd n v s = .error (.wait .control) := by
  simp [writeRgd, curCtx_run h, curAgent_run h, unnamed, copied, M.get, Agent.core]

variable (uncopied : s.ringCopies c x.disp n = false)
include uncopied

theorem writeRgd_held (held : (s.core c).act.holds n = true ∨ (s.core c).shad.holds n = true) : writeRgd n v s =
    .error (.fault { cause := Cause.matrixCmd, c := 0, d := 0, defer := false, log := none }) := by
  have check : (!(s.core c).act.holds n && !(s.core c).shad.holds n) = false := by rcases held with h | h <;> simp [h]
  simp [writeRgd, curCtx_run h, curAgent_run h, unnamed, uncopied, M.get, Agent.core, check]

theorem writeRgd_free (act : (s.core c).act.holds n = false) (shad : (s.core c).shad.holds n = false) : writeRgd n v s =
    .ok ((), s.put (.e c)
      { x with rgd := x.rgd.set 0 n (v &&& rgdConfig), filled := clearRing x.filled n,
               released := clearRing x.released n, readPos := x.readPos.set 0 n 0 }) := by
  simp [writeRgd, curCtx_run h, curAgent_run h, unnamed, uncopied, M.get, Agent.core, act, shad, modCtx_run h]

end

theorem writeCreg_rgd {n : Nat} (hn : n < 8) (v : W64) (s : State) : writeCreg (0x28 + n) v s = writeRgd n v s := by
  have high : 0x28 + n < 0x30 := by omega
  simp (disch := omega) [writeCreg, if_neg, if_pos high]

end Sys2Proof.Machine

theorem writeControlRegister : Spec.writeControlRegister := by
  intro s ag x f r h reach n st v y
  refine ⟨?_, ?_, ?_, ?_⟩
  · rintro rfl
    exact execMtc_ro h reach
  · rintro rfl
    exact execMtc_none h reach
  · rintro rfl hp hn bad
    refine execMtc_faults h reach hp rfl ?_
    rw [show f.imm.toNat = 0x00 from hn]
    exact writeCreg_fpctl_bad (by rw [fpctlOk_eq]; exact decide_eq_false (Nat.not_lt.mpr bad))
  · rintro rfl hp ready
    refine ⟨fun hn ok => ?_, fun hn => ?_, fun hn => ?_, fun hn => ?_, fun hn => ?_, fun ⟨low, high⟩ => ?_, fun hn => ?_,
      fun hn => ?_, fun low => ?_⟩
    · exact execMtc_stream h reach hp hn (hn ▸ ready) fun _ _ => writeCreg_fpctl (by rw [fpctlOk_eq]; exact decide_eq_true ok)
    · exact execMtc_stream h reach hp hn (hn ▸ ready) fun _ _ => writeCreg_fpstat
    · exact execMtc_stream h reach hp hn (hn ▸ ready) fun _ _ => writeCreg_seedLow
    · exact execMtc_stream h reach hp hn (hn ▸ ready) fun _ _ => writeCreg_seedHigh
    · exact execMtc_ctx h reach hp hn (hn ▸ ready) fun _ _ => writeCreg_mxstat
    · rw [← Ctx.setStream_vw x ag st.advance]
      exact execMtc_ctx h reach hp rfl ready fun _ _ _ _ => writeCreg_vw low high
    · exact execMtc_ctx h reach hp hn (hn ▸ ready) fun _ _ _ _ => writeCreg_vshape
    · exact execMtc_ctx h reach hp hn (hn ▸ ready) fun _ _ _ _ => writeCreg_vksc
    · rw [← Ctx.setStream_swait x ag st.advance, ← swaitWord_eq]
      exact execMtc_ctx h reach hp rfl ready fun _ _ _ _ => writeCreg_swait low

theorem writeRingDescriptor : Spec.writeRingDescriptor := by
  intro s core n x f h number hn hp k v named holds copied
  have reach : Spec.reach (.e core) f.imm.toNat = some .rw := number ▸ reach_ring core hn
  have write : ∀ t, writeCreg f.imm.toNat v t = writeRgd n v t := fun t => number ▸ writeCreg_rgd hn v t
  have adv := h.advanced
  have copies : (s.advanced (.e core) x).ringCopies core x.disp n = s.ringCopies core x.disp n := State.ringCopies_put h.ctx ..
  have act : ((s.advanced (.e core) x).core core).act = k.act := by simp [State.advanced, State.putStream, State.put_core, k]
  have shad : ((s.advanced (.e core) x).core core).shad = k.shad := by simp [State.advanced, State.putStream, State.put_core, k]
  have isNamed : named ↔ x.mcq.any (fun m => m.ring == some n) = true := by simp [named]
  have isCopied : copied ↔ s.ringCopies core x.disp n = true := (State.ringCopies_iff ..).symm
  refine ⟨fun busy => execMtc_waits h reach hp ((write _).trans ?_), fun unnamed uncopied => ?_⟩
  · by_cases hm : named
    · exact writeRgd_named adv (isNamed.mp hm)
    · have unnamed := (Bool.not_eq_true _).mp (mt isNamed.mpr hm)
      exact writeRgd_copied adv unnamed (copies.trans (isCopied.mp (busy.resolve_left hm)))
  · have unnamed := (Bool.not_eq_true _).mp (mt isNamed.mpr unnamed)
    have uncopied := copies.trans ((Bool.not_eq_true _).mp (mt isCopied.mpr uncopied))
    refine ⟨fun act0 shad0 => execMtc_writes h reach hp ((write _).trans ?_), fun held => ?_⟩
    · rw [writeRgd_free adv unnamed uncopied (act ▸ act0) (shad ▸ shad0), State.advanced, State.putStream, State.put_put]
      rfl
    · exact execMtc_faults h reach hp rfl ((write _).trans (writeRgd_held adv unnamed uncopied (by rw [act, shad]; exact held)))

/-- Settles O23: the map's checks come first, then the write of the register by a stream that has advanced; a ring descriptor waits on
the ring's users. -/
theorem controlRegisterWrites : Obligations.ControlRegisterWrites := ⟨writeControlRegister, writeRingDescriptor⟩
end
